-- ==== Sys2Proof/Word.lean ====
section
/-! DEFINITION. The word types of the ST64 model. Nothing here computes: every helper that a later
repair might have to mend stands in `Sys2Proof/Machine/`. -/

namespace Sys2Proof

/-- One byte of step memory or of a frame's payload (R3, R183). -/
abbrev Byte := BitVec 8

/-- A ring index, 0 to 1023. Its arithmetic wraps modulo 1024, which is the index arithmetic of R2. -/
abbrev RingIndex := BitVec 10

/-- Station time: a 32-bit count of milliseconds, taken modulo 2^32 (R1, R2). -/
abbrev Time := BitVec 32

/-- A 16-byte step record or capture entry as one little-endian number: byte `k` is bits `8k` to
`8k+7` (R3, R4, R181). -/
abbrev Record := BitVec 128

/-- One level for each of the 64 probe lines: line `8n+k`, bit `k` of lane `n`, is bit `8n+k`
(R50, R181). -/
abbrev Levels := BitVec 64

/-- A draw in deciwatts, 0 to 65535. -/
abbrev Draw := BitVec 16

end Sys2Proof
end

