-- ==== Sys2Proof/Syntax.lean ====
section
/-! DEFINITION. The commands of the ST64: one constructor of `Instr` for each row of
spec/opcode_table.json. The ST64 fetches no instruction stream of a processor's kind. Its rows are events: a
reset, a tick, a converter round, a timer's expiry, a fetched record run by its block, a frame taken
from the rack line, a request served. A constructor carries what reaches the part from outside at
that event (strap levels, raw codes, test-point levels, a frame's fields) and nothing the part
already holds. -/

namespace Sys2Proof

/-- A frame as a station reads it from the rack line with a correct check (R153). The length field is
the number of payload bytes. The class is settled on the line and is no part of what is received. -/
structure Frame where
  source  : BitVec 5
  dest    : BitVec 5
  kind    : BitVec 4
  payload : List Byte
  deriving DecidableEq, Repr

/-- The length and check fields that go with a frame on the line (R153). -/
structure Framing where
  length : BitVec 6
  check  : BitVec 16
  deriving DecidableEq, Repr

/-- A frame as its bits were read, length and check fields included, before it is known to be good (R153, R158).
A frame cut short by its sender reads as recessive bits from the cut on. -/
structure RawFrame extends Frame, Framing where
  deriving DecidableEq, Repr

/-- The commands. The docstring of each names its row of spec/opcode_table.json and that row's rule. -/
inductive Instr where
  /-- RESET (R184): RESET rises, or the supply recovers. Carries the SLOT and RATE strap levels. -/
  | reset (slot : BitVec 5) (rate : BitVec 2)
  /-- STATION_TICK (R1). -/
  | stationTick
  /-- UPDATE_ROUND (R82): carries the raw code of each channel 0 to 7. -/
  | updateRound (codes : Vector (BitVec 12) 8)
  /-- GUARD_FAULT (R93): the guard of the given channel. -/
  | guardFault (channel : Fin 8)
  /-- GUARD_REARM (R94): the guard of the given channel. -/
  | guardRearm (channel : Fin 8)
  /-- TRIP_DETECTION (R99). -/
  | tripDetection
  /-- OVERDRAW_DETECTION (R100). -/
  | overdrawDetection
  /-- ZERO_CAPTURE_END (R89). -/
  | zeroCaptureEnd
  /-- RAMP_EXPIRY (R109). -/
  | rampExpiry
  /-- RAILCHECK_AVERAGE_END (R97). -/
  | railcheckAverageEnd
  /-- SETTLE_END (R55): carries the test-point levels (1 is high) at that instant. -/
  | settleEnd (testPoints : Levels)
  /-- HOLD_OFF_RELEASE (R56): carries the test-point levels at that instant. -/
  | holdOffRelease (testPoints : Levels)
  /-- QUALIFIER_EDGE (R57): the qualifier line has changed; carries the levels just after. -/
  | qualifierEdge (testPoints : Levels)
  /-- STROBE_TIMER_EXPIRY (R58): carries the test-point levels at the expiry. -/
  | strobeTimerExpiry (testPoints : Levels)
  /-- WAIT_EXPIRY (R35). -/
  | waitExpiry
  /-- RECOVER_EXPIRY (R44). -/
  | recoverExpiry
  /-- LANES (R52). -/
  | stepLanes
  /-- DRIVE (R53). -/
  | stepDrive
  /-- SAMPLE (R55). -/
  | stepSample
  /-- FIELD (R68). -/
  | stepField
  /-- LIMITS (R69). -/
  | stepLimits
  /-- RAILCHECK (R96). -/
  | stepRailcheck
  /-- GUARD (R91). -/
  | stepGuard
  /-- SCALE (R86). -/
  | stepScale
  /-- POWER (R106). -/
  | stepPower
  /-- WAIT (R35). -/
  | stepWait
  /-- REPEAT (R39). -/
  | stepRepeat
  /-- MARK (R36). -/
  | stepMark
  /-- STOP (R36). -/
  | stepStop
  /-- UNKNOWN_STEP_KIND (R34). -/
  | unknownStepKind
  /-- COINCIDENCE_JUDGEMENT (R144). -/
  | coincidenceJudgement
  /-- FAIL (R140): a frame of kind FAIL, by its other fields. -/
  | frameFail (source dest : BitVec 5) (payload : List Byte)
  /-- CLAIM (R120): a frame of kind CLAIM. -/
  | frameClaim (source dest : BitVec 5) (payload : List Byte)
  /-- DRAW (R121): a frame of kind DRAW. -/
  | frameDraw (source dest : BitVec 5) (payload : List Byte)
  /-- JOIN (R122): a frame of kind JOIN. -/
  | frameJoin (source dest : BitVec 5) (payload : List Byte)
  /-- SETUP (R164): a frame of kind SETUP. -/
  | frameSetup (source dest : BitVec 5) (payload : List Byte)
  /-- OWN_CLAIM_TAKEN (R125): the own CLAIM in transmission completes its check. -/
  | ownClaimTaken
  /-- DUPLICATE_SLOT_FRAME (R163): a good frame this station did not send. -/
  | duplicateSlotFrame (frame : Frame)
  /-- FRAME_RECEIVED_BAD (R158): a frame as its bits were read, with its length and check fields. -/
  | frameReceivedBad (frame : Frame) (framing : Framing)
  /-- FRAME_PASSED_OVER (R159): a good frame. -/
  | framePassedOver (frame : Frame)
  /-- PENDING_EXPIRY (R123): the pending record of the given peer slot. -/
  | pendingExpiry (slot : Fin 30)
  /-- CLAIM_JUDGEMENT (R127). -/
  | claimJudgement
  /-- BACKOFF_EXPIRY (R129). -/
  | backoffExpiry
  /-- FRAME_BEGIN (R154): the line has been idle for 11 bit times. -/
  | frameBegin
  /-- CONTENTION_LOST (R155). -/
  | contentionLost
  /-- BIT_ERROR (R156). -/
  | bitError
  /-- FRAME_SENT (R157): the frame in transmission completes its check. -/
  | frameSent
  /-- BENCH_REQUEST_ARRIVAL (R168): a frame of one of the seven bench request kinds. -/
  | benchRequestArrival (frame : Frame)
  /-- LOAD (R11): the request in service. -/
  | serveLoad
  /-- POST (R10). -/
  | servePost
  /-- PEEK (R14). -/
  | servePeek
  /-- BENCH_ACCESS_GRANT (R19). -/
  | benchAccessGrant
  /-- START (R24). -/
  | serveStart
  /-- PAUSE (R25). -/
  | servePause
  /-- RESUME (R26). -/
  | serveResume
  /-- ABORT (R27). -/
  | serveAbort
  /-- CLEAR (R28). -/
  | serveClear
  /-- RING (R17). -/
  | serveRing
  /-- CONTROL_UNKNOWN_ACTION (R170). -/
  | serveUnknownAction
  /-- QUERY_STATUS (R174). -/
  | serveQueryStatus
  /-- QUERY_READINGS (R175). -/
  | serveQueryReadings
  /-- QUERY_UNKNOWN (R170). -/
  | serveQueryUnknown
  /-- FAULT_READ (R148). -/
  | serveFaultRead
  /-- FAULT_TRIM (R149). -/
  | serveFaultTrim
  deriving DecidableEq, Repr

end Sys2Proof
end

