-- ==== Sys2Proof/Decode.lean ====
section
/-! DEFINITION. The table of this hardware gives no row any bits (spec/98_reader.md: n_rows_with_fixed
0, n_rows_with_fields 0): its rows are events, not words. So no word spells a command. Frames and
step records have layouts of their own, read and written in `Sys2Proof/Machine/Layout.lean` and
`Sys2Proof/Machine/Operands.lean`. -/

namespace Sys2Proof

/-- The command that a word of the opcode table's bits spells: none, since no row gives bits. -/
def decodeTableWord (_nbits _w : Nat) : Option Instr := none

end Sys2Proof
end

