-- ==== Sys2Proof/Config.lean ====
section
/-! DEFINITION. What is fixed for the part and its free values. -/

namespace Sys2Proof.Config

/-- Bytes of step memory (R3). -/
def memoryBytes : Nat := 24576

/-- The first byte of the capture buffer (R3). -/
def captureBase : Nat := 16384

/-- The length of the transmit queue (R160). -/
def txCapacity : Nat := 8

/-- The length of the bench request queue (R167). -/
def requestCapacity : Nat := 4

/-- The length of the fault queue (R134). -/
def faultCapacity : Nat := 32

/-- The length of the peer notice list (R134). -/
def noticeCapacity : Nat := 64

/-- FREE VALUE (assumption log 3). The action byte of a REFUSE reply to a CONTROL that carries no
action byte: R171 has the reply carry "the action refused", and such a request names none. Nothing
constrains it. -/
opaque freeByte : Nat → Byte

end Sys2Proof.Config
end

