-- ==== Sys2Proof/Machine/State.lean ====
section
/-! DEFINITION. The state of one ST64, block by block as 1.2 of spec/00_scope.md names the blocks, and
the state right after reset. Plain data throughout. -/

namespace Sys2Proof.Machine

/-! ### Step memory (R3) -/

/-- Step memory: the listed bytes, by address. A byte that is not listed reads 0 (R22). -/
abbrev Memory := List Host.Cell

/-! ### Step Engine (R23) -/

/-- Job states (R23). -/
inductive JobState where
  | idle | running | starved | paused | halted | ended
  deriving DecidableEq, Repr

/-- Step phases (R23). -/
inductive StepPhase where
  | ready | settle | strobe | average | awaitPower | timing | judging | recover
  deriving DecidableEq, Repr

/-- Halt reasons (R23). Absent is `none` where one is held. -/
inductive HaltReason where
  | faultHalt | isolated | tripped | overdrawn | rackUnstable | drawDenied | illegalStep
  | faultFlood | aborted
  deriving DecidableEq, Repr

/-- Outcomes written back into records (R15, R178). -/
inductive StepOutcome where
  | done | pass | retriedPass | fail | rack | aborted | illegal
  deriving DecidableEq, Repr

/-- One active loop (R23): `remaining` counts the passes still to run, the current one included. -/
structure LoopEntry where
  bodyStart : RingIndex
  bodyEnd   : RingIndex
  remaining : BitVec 16
  deriving DecidableEq, Repr

/-- A millisecond timer counted by the Station Clock from `start`. It has run out when `span`
milliseconds have passed since `start`. -/
structure Timer where
  start : Time
  span  : Nat
  deriving DecidableEq, Repr

/-- The Step Engine's state (R23). The head of `loops` is the innermost entry. A copy held while the
job is STARVED is a REPEAT that waits for its body (R38). -/
structure Engine where
  job        : JobState
  phase      : StepPhase
  fetchIndex : RingIndex
  postIndex  : RingIndex
  loops      : List LoopEntry
  copy       : Option Record
  attempt    : BitVec 3
  judged     : Option (BitVec 16)
  latch      : Bool
  haltReason : Option HaltReason
  haltIndex  : Option RingIndex
  /-- The WAIT timer in TIMING (R35) and the rack settle timer in RECOVER (R44). -/
  timer      : Option Timer
  deriving DecidableEq, Repr

/-! ### Memory port (R19, R21) -/

/-- Who owns the memory port (R19). -/
inductive PortOwner where
  | engine | asked | bench
  deriving DecidableEq, Repr

/-- What a completed record does after its write-back: how F and the loop stack move (R9), or how the
job ends. -/
inductive AfterStep where
  /-- The record after it, or the loop end of R40. -/
  | advance
  /-- A REPEAT with count 1 or more pushes its entry (R39). -/
  | enter (loop : LoopEntry)
  /-- A REPEAT of count 0 skips past its body end (R39). -/
  | skip (bodyEnd : RingIndex)
  /-- A STOP ends the job (R36). -/
  | stop
  /-- A class halts the job (R42 HALT, R43). -/
  | halt (reason : HaltReason)
  /-- A BOARD class under the action ISOLATE (R42). -/
  | isolate
  deriving DecidableEq, Repr

/-- A completion whose write-back may have to wait for the port: the record's copy, its outcome and
the station time of the completion (R49). -/
structure Completion where
  record  : Record
  outcome : StepOutcome
  stamp   : Time
  after   : AfterStep
  deriving DecidableEq, Repr

/-- An access of the Step Engine that waits for the port's return (R21). -/
inductive EngineAccess where
  /-- A capture entry; `completes` carries the outcome when the record completes on the write (R60). -/
  | capture (entry : Record) (completes : Option StepOutcome)
  /-- An outcome write-back of two bytes; `after` goes on with the completion it belongs to. -/
  | outcome (index : RingIndex) (code : StepOutcome) (failCount : Byte) (after : Option Completion)
  /-- The fetch of the record at F. -/
  | fetch
  deriving DecidableEq, Repr

/-- The memory port (R19): its owner, and the engine accesses waiting for its return, oldest first. -/
structure MemPort where
  owner : PortOwner
  waits : List EngineAccess
  deriving DecidableEq, Repr

/-! ### Probe Lanes (R50) -/

/-- The waits of a SAMPLE: the settle delay, then the hold-off and the qualifier wait of its strobe
(R55 to R57). -/
inductive StrobeStage where
  | settle | holdOff | qualifier
  deriving DecidableEq, Repr

/-- A SAMPLE in SETTLE or STROBE: its wait, the station time from which the settle delay or the strobe
timer runs, and the levels of the lanes captured so far (IMMEDIATE lanes, in the qualifier wait). -/
structure Strobe where
  stage  : StrobeStage
  start  : Time
  levels : Levels
  deriving DecidableEq, Repr

/-- The Probe Lanes' state (R50). A direction bit is 1 for DRIVE, a polarity bit 1 for INVERTED, a
source bit (one a lane) 1 for QUALIFIED. -/
structure Probe where
  direction  : Levels
  polarity   : Levels
  drive      : Levels
  source     : BitVec 8
  nextIndex  : BitVec 9
  validCount : Nat
  strobe     : Option Strobe
  deriving DecidableEq, Repr

/-! ### Check Unit (R67) -/

/-- Field decodes (R67). -/
inductive FieldDecode where
  | binary | gray
  deriving DecidableEq, Repr

/-- Field signedness (R67). -/
inductive Signedness where
  | unsigned | signed
  deriving DecidableEq, Repr

/-- The action of a BOARD class (R67). -/
inductive FieldAction where
  | halt | continue_ | isolate
  deriving DecidableEq, Repr

/-- Compare modes (R67). -/
inductive CompareMode where
  | none_ | equal | range
  deriving DecidableEq, Repr

/-- The FIELD part of the check context (R67). -/
structure FieldPart where
  startLine   : Nat
  width       : Nat
  decode      : FieldDecode
  signedness  : Signedness
  changeLimit : BitVec 16
  retryLimit  : BitVec 3
  action      : FieldAction
  deriving DecidableEq, Repr

/-- The LIMITS part of the check context (R67). -/
structure LimitsPart where
  mode : CompareMode
  a    : BitVec 32
  b    : BitVec 32
  deriving DecidableEq, Repr

/-- The check context (R67). `vprev` is the previous accepted code. -/
structure CheckContext where
  field  : FieldPart
  limits : LimitsPart
  vprev  : Option (BitVec 32)
  deriving DecidableEq, Repr

/-- Field results (R60, R70). -/
inductive FieldResult where
  | none_ | pass | mismatch | jump
  deriving DecidableEq, Repr

/-! ### Rail Monitor (R83) -/

/-- What a BOARD class of a guard fault does (R91, R95). -/
inductive GuardAction where
  | log | isolate
  deriving DecidableEq, Repr

/-- Guard states (R83). -/
inductive GuardState where
  | disabled | inactive | armed | resting
  deriving DecidableEq, Repr

/-- A guard's settings, state and count (R83). A count that stands at the debounce is a guard fault
(ARMED) or a re-arm (RESTING) that is due. -/
structure Guard where
  enabled  : Bool
  low      : Int
  high     : Int
  debounce : Nat
  action   : GuardAction
  state    : GuardState
  count    : Nat
  deriving DecidableEq, Repr

/-- One rail channel (R83). -/
structure Channel where
  zero      : BitVec 12
  gain      : BitVec 16
  stepLimit : Nat
  scaled    : Int
  filtered  : Int
  seed      : Bool
  guard     : Guard
  deriving DecidableEq, Repr

/-- A zero capture in progress (R88): which of channels 1 and 3 it names, their sums, the rounds taken. -/
structure ZeroCapture where
  onMain    : Bool
  onStandby : Bool
  sumMain    : Nat
  sumStandby : Nat
  rounds     : Nat
  deriving DecidableEq, Repr

/-- A RAILCHECK average in progress (R96). -/
structure Average where
  channel : Fin 8
  count   : Nat
  sum     : Int
  rounds  : Nat
  deriving DecidableEq, Repr

/-- The Rail Monitor's state (R83). A trip count of 2, an overdraw count of 50, a capture of 16 rounds
and an average of all its rounds are detections and ends that are due. -/
structure Rail where
  channels      : Vector Channel 8
  measured      : Draw
  tripMain      : Nat
  tripStandby   : Nat
  overdrawCount : Nat
  zeroCapture   : Option ZeroCapture
  average       : Option Average
  deriving DecidableEq, Repr

/-! ### Power Path (R104) -/

/-- Power states (R104). -/
inductive PowerState where
  | off | zeroing | claiming | ramping | standby | on | tripped
  deriving DecidableEq, Repr

/-- Stages of a move (R104). -/
inductive MoveStage where
  | zeroing | claiming | ramping | setClaim
  deriving DecidableEq, Repr

/-- A move record (R104). -/
structure Move where
  start      : PowerState
  target     : PowerState
  asked      : Draw
  ramp       : Nat
  waitLimit  : BitVec 8
  stage      : MoveStage
  claimOrder : Option Time
  deriving DecidableEq, Repr

/-- The Power Path's state (R104). A switch is `true` when closed. -/
structure Power where
  state       : PowerState
  standby     : Bool
  main        : Bool
  mainTrip    : Nat
  standbyTrip : Nat
  declared    : Draw
  move        : Option Move
  /-- The ramp timer (R109). -/
  rampTimer   : Option Timer
  deriving DecidableEq, Repr

/-! ### Draw Unit (R118) -/

/-- A peer's pending claim (R118, R120). -/
structure PendingClaim where
  asking     : Draw
  expiry     : Time
  beforeMine : Bool
  deriving DecidableEq, Repr

/-- A draw table entry (R118). -/
structure PeerEntry where
  held    : Draw
  pending : Option PendingClaim
  deriving DecidableEq, Repr

/-- Own claim states (R118). -/
inductive ClaimState where
  | none_ | queued | claiming | deferred
  deriving DecidableEq, Repr

/-- The own claim (R118). -/
structure OwnClaim where
  heldNow : Draw
  asking  : Draw
  t0      : Option Time
  deriving DecidableEq, Repr

/-- Claim frame with the port (R118). -/
inductive ClaimMark where
  | none_ | current | stale
  deriving DecidableEq, Repr

/-- The Draw Unit's state (R118). The two timers hold the station time at which they run out. -/
structure DrawUnit where
  table        : Vector PeerEntry 30
  held         : Draw
  claimState   : ClaimState
  claim        : Option OwnClaim
  mark         : ClaimMark
  windowTimer  : Option Time
  backoffTimer : Option Time
  deriving DecidableEq, Repr

/-! ### Fault Recorder (R134, R135) -/

/-- Fault kinds (R135). -/
inductive FaultKind where
  | mismatch | jump | strobeTimeout | railLow | railHigh | trip | overdraw | backfeed
  deriving DecidableEq, Repr

/-- Fault sources (R135). -/
inductive FaultSource where
  | field | railcheck | guard | power
  deriving DecidableEq, Repr

/-- Fault classes (R135). -/
inductive FaultClass where
  | provisional | board | rack
  deriving DecidableEq, Repr

/-- What a source hands the Fault Recorder of a fault, beside its time and place (R135). -/
structure FaultInfo where
  kind     : FaultKind
  source   : FaultSource
  channel  : Option (BitVec 6)
  observed : Option (BitVec 32)
  refA     : Option (BitVec 32)
  refB     : Option (BitVec 32)
  deriving DecidableEq, Repr

/-- A fault record (R135), with the held guard action of a PROVISIONAL GUARD record (R134). -/
structure FaultRecord where
  sequence    : BitVec 16
  stamp       : Time
  info        : FaultInfo
  stepIndex   : Option RingIndex
  attempt     : BitVec 3
  cls         : FaultClass
  peerCount   : Nat
  guardAction : Option GuardAction
  deriving DecidableEq, Repr

/-- An entry of the peer notice list (R134). -/
structure Notice where
  slot    : Fin 30
  arrival : Time
  deriving DecidableEq, Repr

/-- The Fault Recorder's state (R134). Queue and list are oldest first. -/
structure Recorder where
  queue          : List FaultRecord
  nextSequence   : BitVec 16
  discarded      : BitVec 8
  notices        : List Notice
  noticeOverflow : BitVec 8
  deriving DecidableEq, Repr

/-! ### Rack Line Port (R151) -/

/-- Line rates (R152). -/
inductive LineRate where
  | kbit125 | kbit250 | kbit500 | kbit1000
  deriving DecidableEq, Repr

/-- Frame kinds (R178). -/
inductive FrameKind where
  | fail | claim | draw | join | setup | load | post | peek | control | query | faultRead
  | faultTrim | reply | report
  deriving DecidableEq, Repr

/-- A frame of the transmit queue (R151, R160). Its source is the own slot; its class is that of its
kind. `sending` marks the frame in transmission. -/
structure TxFrame where
  kind     : FrameKind
  dest     : BitVec 5
  payload  : List Byte
  attempts : Nat
  sending  : Bool
  deriving DecidableEq, Repr

/-- The SETUP parameters (R151, R164). -/
structure SetupParams where
  budget      : Nat
  claimWindow : Nat
  coincidence : Nat
  quorum      : Nat
  settleDelay : Nat
  deriving DecidableEq, Repr

/-- The Rack Line Port's state (R151). The frame in transmission is the frame of `queue` marked
`sending`. `cutOwn` says that this station has stopped driving the frame on the line at a bit error and that this
frame has not ended (R156; assumption log 22). -/
structure LinePort where
  slot        : BitVec 5
  rate        : LineRate
  isSet       : Bool
  params      : SetupParams
  duplicate   : Bool
  queue       : List TxFrame
  notSent     : BitVec 8
  receivedBad : BitVec 8
  cutOwn      : Bool
  deriving DecidableEq, Repr

/-! ### Bench Request Unit (R167) -/

/-- A bench request (R167). -/
structure Request where
  kind    : FrameKind
  payload : List Byte
  toAll   : Bool
  deriving DecidableEq, Repr

/-- Service states (R167). -/
inductive ServiceState where
  | idle | checking | waitingPort
  deriving DecidableEq, Repr

/-- The Bench Request Unit's state (R167). The head of `queue` is in service when `service` is not IDLE. -/
structure Bench where
  queue     : List Request
  service   : ServiceState
  discarded : BitVec 8
  deriving DecidableEq, Repr

/-! ### The whole -/

/-- The state of one ST64. `mem` lists the bytes of step memory that are not 0, addresses strictly
rising (R3, R22: reset makes every byte 0, so an unlisted byte reads 0). `freeNext` is the MODEL's own
counter of free values read so far (assumption log 3), and `pending` the MODEL's own queue of commands
not yet taken (assumption log 1). -/
structure State where
  clock    : Time
  mem      : Memory
  port     : MemPort
  eng      : Engine
  probe    : Probe
  check    : CheckContext
  rail     : Rail
  power    : Power
  draw     : DrawUnit
  faults   : Recorder
  line     : LinePort
  bench    : Bench
  freeNext : Nat
  pending  : List Instr
  deriving DecidableEq, Repr

/-- Faults. Each is a stuck state for a case that the spec says cannot occur. -/
inductive Fault where
  /-- Raised by a bench access that would reach a byte address of 24576 or above, which R3 says does not
  exist. R11 and R14 refuse every such request, so no run from reset raises it. Safe: the machine stops. -/
  | absentAddress
  /-- Raised by a POWER dispatched in a power state other than OFF, STANDBY or ON, which R106 says cannot
  stand at dispatch, and which it gives no effect. Safe: the machine stops. -/
  | powerStateAtDispatch
  deriving DecidableEq, Repr

/-- Refusals. -/
inductive Refusal where
  /-- Raised by an arm of `exec` whose command has no meaning yet. Safe: the machine stops. No arm of this
  model raises it. -/
  | notModelled (mnemonic : String)
  deriving DecidableEq, Repr

/-! ### Reset values -/

/-- R22, R23: the Step Engine after reset. -/
def Engine.reset : Engine :=
  { job := .idle, phase := .ready, fetchIndex := 0, postIndex := 0, loops := [], copy := none,
    attempt := 0, judged := none, latch := false, haltReason := none, haltIndex := none, timer := none }

/-- R50: the Probe Lanes after reset. -/
def Probe.reset : Probe :=
  { direction := 0, polarity := 0, drive := 0, source := 0, nextIndex := 0, validCount := 0, strobe := none }

/-- R67: the check context after reset and after CLEAR. -/
def CheckContext.reset : CheckContext :=
  { field := { startLine := 0, width := 8, decode := .binary, signedness := .unsigned, changeLimit := 0,
               retryLimit := 0, action := .halt },
    limits := { mode := .none_, a := 0, b := 0 },
    vprev := none }

/-- R83: a guard after reset and after CLEAR. -/
def Guard.reset : Guard :=
  { enabled := false, low := -32768, high := 32767, debounce := 1, action := .log, state := .disabled, count := 0 }

/-- R82, R83: a channel after reset, with the gain its column of R82 gives. -/
def Channel.reset (gain : BitVec 16) : Channel :=
  { zero := 0, gain := gain, stepLimit := 0, scaled := 0, filtered := 0, seed := true, guard := Guard.reset }

/-- R82, R83: the Rail Monitor after reset. -/
def Rail.reset : Rail :=
  { channels := #v[Channel.reset 16384, Channel.reset 20480, Channel.reset 8192, Channel.reset 4096,
                   Channel.reset 4096, Channel.reset 4096, Channel.reset 4096, Channel.reset 4096],
    measured := 0, tripMain := 0, tripStandby := 0, overdrawCount := 0, zeroCapture := none, average := none }

/-- R104: the Power Path after reset. -/
def Power.reset : Power :=
  { state := .off, standby := false, main := false, mainTrip := 32767, standbyTrip := 32767, declared := 0,
    move := none, rampTimer := none }

/-- R118: the Draw Unit after reset. -/
def DrawUnit.reset : DrawUnit :=
  { table := Vector.replicate 30 { held := 0, pending := none }, held := 0, claimState := .none_, claim := none,
    mark := .none_, windowTimer := none, backoffTimer := none }

/-- R134: the Fault Recorder after reset. -/
def Recorder.reset : Recorder :=
  { queue := [], nextSequence := 1, discarded := 0, notices := [], noticeOverflow := 0 }

/-- R151: the Rack Line Port after reset, with the straps as read (R152). -/
def LinePort.reset (slot : BitVec 5) (rate : LineRate) : LinePort :=
  { slot := slot, rate := rate, isSet := false,
    params := { budget := 1, claimWindow := 10, coincidence := 1, quorum := 1, settleDelay := 0 },
    duplicate := false, queue := [], notSent := 0, receivedBad := 0, cutOwn := false }

/-- R167: the Bench Request Unit after reset. -/
def Bench.reset : Bench := { queue := [], service := .idle, discarded := 0 }

/-- The machine right after reset. The straps read as an unstrapped card's do (R184): slot 31, 1000 kbit/s
(DESIGN CHOICE, assumption log 2; unsafe). Every other value is the spec's. -/
def State.reset : State :=
  { clock := 0, mem := [], port := { owner := .engine, waits := [] }, eng := Engine.reset, probe := Probe.reset,
    check := CheckContext.reset, rail := Rail.reset, power := Power.reset, draw := DrawUnit.reset,
    faults := Recorder.reset, line := LinePort.reset 31 .kbit1000, bench := Bench.reset, freeNext := 0,
    pending := [] }

end Sys2Proof.Machine
end

