-- ==== Sys2Proof/Machine/Bits.lean ====
section
/-! DEFINITION. Byte order, lane masks, clamping, saturating counters and due timers: the helpers the
blocks share. -/

namespace Sys2Proof.Machine

/-! ### Byte order (R3: multi-byte fields are little-endian) -/

/-- The number that bytes in little-endian order stand for. -/
def leNat : List Byte → Nat
  | [] => 0
  | b :: bs => b.toNat + 256 * leNat bs

/-- The `n` bytes of a number in little-endian order. -/
def leBytes : Nat → Nat → List Byte
  | 0, _ => []
  | n + 1, x => BitVec.ofNat 8 x :: leBytes n (x / 256)

/-- The little-endian number in bytes `k` to `k+n-1` of a payload. -/
def leAt (n : Nat) (p : List Byte) (k : Nat) : Nat := leNat ((p.drop k).take n)

/-- Byte `k` of a payload, 0 beyond its end. -/
def byteAt (p : List Byte) (k : Nat) : Byte := p.getD k 0

/-- Byte `k` of a record. -/
def byteOf (r : Record) (k : Nat) : Byte := r.extractLsb' (8 * k) 8

/-- The 16-bit field in bytes `k` and `k+1` of a record. -/
def halfOf (r : Record) (k : Nat) : BitVec 16 := r.extractLsb' (8 * k) 16

/-- The 32-bit field in bytes `k` to `k+3` of a record. -/
def wordOf (r : Record) (k : Nat) : BitVec 32 := r.extractLsb' (8 * k) 32

/-- A reading or draw as a 32-bit two's complement field (R182). -/
def int32 (x : Int) : BitVec 32 := BitVec.ofInt 32 x

/-! ### Lanes (R50: lane `n` holds lines `8n` to `8n+7`) -/

/-- Eight copies of one bit. -/
def fillByte (b : Bool) : Byte := (BitVec.ofBool b).signExtend 8

/-- One bit for each lane, spread over the lane's eight lines. -/
def spread (m : BitVec 8) : Levels :=
  fillByte (m.getLsbD 7) ++ fillByte (m.getLsbD 6) ++ fillByte (m.getLsbD 5) ++ fillByte (m.getLsbD 4) ++
  fillByte (m.getLsbD 3) ++ fillByte (m.getLsbD 2) ++ fillByte (m.getLsbD 1) ++ fillByte (m.getLsbD 0)

/-- The eight bits of lane `n`. -/
def laneOf (v : Levels) (n : Nat) : Byte := v.extractLsb' (8 * n) 8

/-- `v` with the lines that `mask` selects taken from `w`. -/
def mergeLines (mask v w : Levels) : Levels := (v &&& ~~~mask) ||| (w &&& mask)

/-- One bit for each lane, from a test of the lane. -/
def packLanes (f : Nat → Bool) : BitVec 8 :=
  BitVec.ofBool (f 7) ++ BitVec.ofBool (f 6) ++ BitVec.ofBool (f 5) ++ BitVec.ofBool (f 4) ++
  BitVec.ofBool (f 3) ++ BitVec.ofBool (f 2) ++ BitVec.ofBool (f 1) ++ BitVec.ofBool (f 0)

/-! ### Counters and ranges (R2) -/

/-- The counters of R2 stop at 255. -/
def satInc (c : BitVec 8) : BitVec 8 := if c = 255 then 255 else c + 1

/-- A value clamped to a range. -/
def clampNat (lo hi x : Nat) : Nat := max lo (min hi x)

/-- A value clamped to a range of whole numbers. -/
def clampInt (lo hi x : Int) : Int := max lo (min hi x)

/-! ### Time (R2: differences of station times are taken modulo 2^32) -/

/-- A timer has run out when its count of milliseconds has passed since its start. -/
def Timer.due (t : Timer) (now : Time) : Bool := decide (t.span ≤ (now - t.start).toNat)

/-- Station time has reached the moment `t`: `t` lies less than half the clock's span in the past. -/
def reached (now t : Time) : Bool := decide ((now - t).toNat < 2 ^ 31)

/-- A settle delay of `micros` can have passed: the delay is timed in microseconds (R55) and the model's
clock counts whole milliseconds, so `e` ticks since the start leave room for less than `1000 * (e + 1)`
microseconds (DEDUCED, assumption log 6). -/
def settleElapsed (start now : Time) (micros : Nat) : Bool :=
  decide (micros < 1000 * ((now - start).toNat + 1))

end Sys2Proof.Machine
end

