-- ==== Sys2Proof/Machine/Flags.lean ====
section
/-! DEFINITION. The flags of a step record, the codes of R178, and the results the blocks derive from
levels: sensed levels, the lane mismatch mask, outcomes and fail counts. -/

namespace Sys2Proof.Machine

/-! ### Flags of a step record (R5, R178) -/

/-- REPORT, bit 0 of byte 1. -/
def reportFlag (r : Record) : Bool := (byteOf r 1).getLsbD 0
/-- NOTIFY, bit 1. -/
def notifyFlag (r : Record) : Bool := (byteOf r 1).getLsbD 1
/-- CHECK, bit 2. -/
def checkFlag (r : Record) : Bool := (byteOf r 1).getLsbD 2
/-- NOCAPTURE, bit 3. -/
def noCaptureFlag (r : Record) : Bool := (byteOf r 1).getLsbD 3

/-! ### Codes (R178) -/

/-- Job state codes. -/
def JobState.code : JobState → Nat
  | .idle => 0 | .running => 1 | .starved => 2 | .paused => 3 | .halted => 4 | .ended => 5

/-- Step phase codes. -/
def StepPhase.code : StepPhase → Nat
  | .ready => 0 | .settle => 1 | .strobe => 2 | .average => 3 | .awaitPower => 4 | .timing => 5
  | .judging => 6 | .recover => 7

/-- Halt reason codes; absent is 0. -/
def haltCode : Option HaltReason → Nat
  | none => 0
  | some .faultHalt => 1 | some .isolated => 2 | some .tripped => 3 | some .overdrawn => 4
  | some .rackUnstable => 5 | some .drawDenied => 6 | some .illegalStep => 7
  | some .faultFlood => 8 | some .aborted => 9

/-- Outcome codes. -/
def StepOutcome.code : StepOutcome → Byte
  | .done => 1 | .pass => 2 | .retriedPass => 3 | .fail => 4 | .rack => 5 | .aborted => 6 | .illegal => 7

/-- Power state codes. -/
def PowerState.code : PowerState → Nat
  | .off => 0 | .zeroing => 1 | .claiming => 2 | .ramping => 3 | .standby => 4 | .on => 5 | .tripped => 6

/-- Own claim state codes. -/
def ClaimState.code : ClaimState → Nat
  | .none_ => 0 | .queued => 1 | .claiming => 2 | .deferred => 3

/-- Fault kind codes. -/
def FaultKind.code : FaultKind → Nat
  | .mismatch => 0 | .jump => 1 | .strobeTimeout => 2 | .railLow => 3 | .railHigh => 4 | .trip => 5
  | .overdraw => 6 | .backfeed => 7

/-- Fault source codes. -/
def FaultSource.code : FaultSource → Nat
  | .field => 0 | .railcheck => 1 | .guard => 2 | .power => 3

/-- Fault class codes. -/
def FaultClass.code : FaultClass → Nat
  | .provisional => 0 | .board => 1 | .rack => 2

/-- Field result codes. -/
def FieldResult.code : FieldResult → Nat
  | .none_ => 0 | .pass => 1 | .mismatch => 2 | .jump => 3

/-- Frame kind codes. -/
def FrameKind.code : FrameKind → BitVec 4
  | .fail => 0 | .claim => 1 | .draw => 2 | .join => 3 | .setup => 4 | .load => 5 | .post => 6 | .peek => 7
  | .control => 8 | .query => 9 | .faultRead => 10 | .faultTrim => 11 | .reply => 12 | .report => 13

/-- The frame kind of a code; 14 and 15 are unassigned. -/
def FrameKind.ofCode (c : BitVec 4) : Option FrameKind :=
  match c.toNat with
  | 0 => some .fail | 1 => some .claim | 2 => some .draw | 3 => some .join | 4 => some .setup
  | 5 => some .load | 6 => some .post | 7 => some .peek | 8 => some .control | 9 => some .query
  | 10 => some .faultRead | 11 => some .faultTrim | 12 => some .reply | 13 => some .report
  | _ => none

/-- The urgency class of each frame kind (R153). -/
def FrameKind.cls : FrameKind → Nat
  | .fail => 0
  | .claim | .draw => 1
  | .setup | .load | .post | .peek | .control | .query | .faultRead | .faultTrim => 2
  | .join | .reply | .report => 3

/-- Refusal codes (R171, R178). -/
inductive RefusalCode where
  | notSet | badState | protected_ | overrun | readOnly | range | badLength
  deriving DecidableEq, Repr

/-- Refusal codes as bytes (R178). -/
def RefusalCode.code : RefusalCode → Byte
  | .notSet => 1 | .badState => 2 | .protected_ => 3 | .overrun => 4 | .readOnly => 5 | .range => 6
  | .badLength => 7

/-! ### Job and power predicates -/

/-- The active states: RUNNING, STARVED and PAUSED (1.5 of spec/00_scope.md). -/
def JobState.active : JobState → Bool
  | .running | .starved | .paused => true
  | .idle | .halted | .ended => false

/-- A power state with no move: a board that an isolation finds unpowered (R115). -/
def PowerState.unpowered : PowerState → Bool
  | .off | .tripped => true
  | .zeroing | .claiming | .ramping | .standby | .on => false

/-! ### Outcomes (R15, R32) -/

/-- The outcome of a record that passes: `first` at attempt 0, RETRIED_PASS at attempt 1 or above. -/
def passOutcome (first : StepOutcome) (attempt : BitVec 3) : StepOutcome :=
  if attempt = 0 then first else .retriedPass

/-- The fail count an outcome writes back (R15). -/
def failCountAfter (o : StepOutcome) (count : Byte) : Byte :=
  match o with
  | .fail | .rack => satInc count
  | .done | .pass | .retriedPass | .aborted | .illegal => count

/-! ### Levels (R51, R59) -/

/-- The sensed levels of all lines from the test points' levels: a test point read high senses 1 under
TRUE and 0 under INVERTED (R51). -/
def sensedLevels (p : Probe) (testPoints : Levels) : Levels := testPoints ^^^ p.polarity

/-- The level at which a line's test point is driven, or `none` for a SENSE line (R51). -/
def drivenLevel (p : Probe) (line : Nat) : Option Bool :=
  if p.direction.getLsbD line then some (p.drive.getLsbD line != p.polarity.getLsbD line) else none

/-- The lines of the QUALIFIED lanes. -/
def qualifiedLines (p : Probe) : Levels := spread p.source

/-- The lane mismatch mask of captured levels (R59). -/
def mismatchMask (p : Probe) (levels : Levels) : BitVec 8 :=
  packLanes fun n => laneOf (p.direction &&& (levels ^^^ p.drive)) n != 0

end Sys2Proof.Machine
end

