-- ==== Sys2Proof/Machine/Operands.lean ====
section
/-! DEFINITION. The operands of each step kind as its block takes them from the record copy: the byte
layout of R180, with the clamps and defaults of the kind's own rule. -/

namespace Sys2Proof.Machine

/-- The kind code of a record, byte 0 (R4). -/
def kindOf (r : Record) : Nat := (byteOf r 0).toNat

/-- The fail count of a record, byte 15 (R4). -/
def failCountOf (r : Record) : Byte := byteOf r 15

/-- A channel operand: above 7 it is taken as 7 (R86, R91, R96). -/
def channelOperand (b : Byte) : Fin 8 := ⟨min b.toNat 7, by omega⟩

/-- LANES (R52). -/
structure LanesOp where
  lane      : Fin 8
  direction : Byte
  polarity  : Byte
  qualified : Bool
  deriving DecidableEq, Repr

/-- LANES: a lane above 7 is clamped to 7, a source code other than 1 is IMMEDIATE (R52, R179). -/
def lanesOp (r : Record) : LanesOp :=
  { lane := channelOperand (byteOf r 2), direction := byteOf r 3, polarity := byteOf r 4,
    qualified := byteOf r 5 = 1 }

/-- DRIVE: the lane-select mask (R53). -/
def driveSelect (r : Record) : BitVec 8 := byteOf r 2

/-- DRIVE: the eight drive bytes, byte `n` for lane `n` (R53). -/
def driveBytes (r : Record) : Levels := r.extractLsb' 24 64

/-- A line operand: above 63 it is none (R54). -/
def lineOperand (b : Byte) : Option Nat := if b.toNat ≤ 63 then some b.toNat else none

/-- SAMPLE (R54). -/
structure SampleOp where
  settle    : Nat
  timeout   : Nat
  qualifier : Option Nat
  fall      : Bool
  holdOff   : Option Nat
  deriving DecidableEq, Repr

/-- SAMPLE: a timeout of 0 is taken as 1; the edge is FALL for code 1 and RISE otherwise (R54, R179). -/
def sampleOp (r : Record) : SampleOp :=
  { settle := (halfOf r 2).toNat, timeout := max 1 (byteOf r 4).toNat, qualifier := lineOperand (byteOf r 5),
    fall := byteOf r 6 = 1, holdOff := lineOperand (byteOf r 7) }

/-- FIELD: the operands as taken (R68). Whether the geometry is refused is `fieldRefused`. -/
def fieldOp (r : Record) : FieldPart :=
  { startLine := (byteOf r 2).toNat, width := (byteOf r 3).toNat,
    decode := if byteOf r 4 = 1 then .gray else .binary,
    signedness := if byteOf r 5 = 1 then .signed else .unsigned,
    changeLimit := halfOf r 6,
    retryLimit := BitVec.ofNat 3 (min (byteOf r 8).toNat 7),
    action := if byteOf r 9 = 1 then .continue_ else if byteOf r 9 = 2 then .isolate else .halt }

/-- FIELD: geometry that cannot be read from the 64 lines (R68). -/
def fieldRefused (f : FieldPart) : Bool := decide (f.width = 0 ∨ 32 < f.width ∨ 64 < f.startLine + f.width)

/-- LIMITS: the operands as taken (R69). -/
def limitsOp (r : Record) : LimitsPart :=
  { mode := if byteOf r 2 = 1 then .equal else if byteOf r 2 = 2 then .range else .none_,
    a := wordOf r 4, b := wordOf r 8 }

/-- A 32-bit limit read under a signedness (R69, R77). -/
def limitValue (s : Signedness) (x : BitVec 32) : Int :=
  match s with
  | .unsigned => x.toNat
  | .signed => x.toInt

/-- LIMITS: a RANGE whose A is above its B under the FIELD part's signedness (R69). -/
def limitsRefused (s : Signedness) (l : LimitsPart) : Bool :=
  decide (l.mode = .range ∧ limitValue s l.b < limitValue s l.a)

/-- RAILCHECK (R96). -/
structure RailcheckOp where
  channel : Fin 8
  count   : Nat
  low     : Int
  high    : Int
  deriving DecidableEq, Repr

/-- RAILCHECK: a sample count of 0 is taken as 1, above 16 as 16 (R96). -/
def railcheckOp (r : Record) : RailcheckOp :=
  { channel := channelOperand (byteOf r 2), count := clampNat 1 16 (byteOf r 3).toNat,
    low := (halfOf r 4).toInt, high := (halfOf r 6).toInt }

/-- GUARD (R91). -/
structure GuardOp where
  channel  : Fin 8
  debounce : Nat
  low      : Int
  high     : Int
  action   : GuardAction
  enabled  : Bool
  deriving DecidableEq, Repr

/-- GUARD: a debounce of 0 is taken as 1, above 15 as 15; other codes are LOG and disabled (R91). -/
def guardOp (r : Record) : GuardOp :=
  { channel := channelOperand (byteOf r 2), debounce := clampNat 1 15 (byteOf r 3).toNat,
    low := (halfOf r 4).toInt, high := (halfOf r 6).toInt,
    action := if byteOf r 8 = 1 then .isolate else .log, enabled := byteOf r 9 = 1 }

/-- SCALE (R86). -/
structure ScaleOp where
  channel   : Fin 8
  gain      : BitVec 16
  stepLimit : Nat
  deriving DecidableEq, Repr

/-- SCALE: a gain of 0 is taken as 1, a step limit above 32767 as 32767 (R86). -/
def scaleOp (r : Record) : ScaleOp :=
  { channel := channelOperand (byteOf r 2), gain := if halfOf r 4 = 0 then 1 else halfOf r 4,
    stepLimit := min (halfOf r 6).toNat 32767 }

/-- POWER (R106). -/
structure PowerOp where
  target      : PowerState
  waitLimit   : BitVec 8
  declared    : Draw
  mainTrip    : Nat
  standbyTrip : Nat
  ramp        : Nat
  deriving DecidableEq, Repr

/-- A trip limit operand: 0 or above 32767 is taken as 32767 (R106). -/
def tripOperand (x : BitVec 16) : Nat := if x = 0 ∨ 32767 < x.toNat then 32767 else x.toNat

/-- POWER: a target code other than STANDBY and ON is OFF; the ramp is clamped to 1 to 1000 ms (R106). -/
def powerOp (r : Record) : PowerOp :=
  { target := if byteOf r 2 = 1 then .standby else if byteOf r 2 = 2 then .on else .off,
    waitLimit := byteOf r 3, declared := halfOf r 4, mainTrip := tripOperand (halfOf r 6),
    standbyTrip := tripOperand (halfOf r 8), ramp := clampNat 1 1000 (halfOf r 10).toNat }

/-- WAIT: the duration in milliseconds (R35). -/
def waitOp (r : Record) : Nat := (wordOf r 2).toNat

/-- REPEAT: the count (R39). -/
def repeatCount (r : Record) : BitVec 16 := halfOf r 2

/-- REPEAT: the span (R37). -/
def repeatSpan (r : Record) : RingIndex := (byteOf r 4).setWidth 10

end Sys2Proof.Machine
end

