-- ==== Sys2Proof/Machine/Layout.lean ====
section
/-! DEFINITION. The byte layouts of chapter 11 that the part writes (capture entries, fault records,
frame payloads, the STATUS record) and the frame as it stands on the line with its check value (R153). -/

namespace Sys2Proof.Machine

/-! ### Absent values (R182) -/

/-- An optional one-byte index: FFh when absent. -/
def optByte (x : Option (BitVec 6)) : Byte := match x with | none => 0xFF | some v => v.setWidth 8

/-- An optional ring index: FFFFh when absent. -/
def optIndex (x : Option RingIndex) : Nat := match x with | none => 0xFFFF | some v => v.toNat

/-- An optional 32-bit value: value bytes of 0 when absent. -/
def optWord (x : Option (BitVec 32)) : Nat := match x with | none => 0 | some v => v.toNat

/-! ### Capture entry (R63, R181) -/

/-- A capture entry as the 16 bytes written. -/
def captureEntry (step : RingIndex) (stamp : Time) (levels : Levels) (timedOut qualifiedTaken : Bool)
    (result : FieldResult) (mask : BitVec 8) : Record :=
  mask ++ (BitVec.ofNat 4 0 ++ BitVec.ofNat 2 result.code ++ BitVec.ofBool qualifiedTaken ++ BitVec.ofBool timedOut) ++
    levels ++ stamp ++ step.setWidth 16

/-! ### Fault record (R181) -/

/-- A fault record as the 24 bytes of a FAULT_RECORD reply; the held guard action is not carried (R148). -/
def faultBytes (r : FaultRecord) : List Byte :=
  leBytes 2 r.sequence.toNat ++ leBytes 4 r.stamp.toNat ++
  [BitVec.ofNat 8 (r.info.kind.code + 8 * r.info.source.code + 32 * r.cls.code), optByte r.info.channel] ++
  leBytes 2 (optIndex r.stepIndex) ++
  [BitVec.ofNat 8 (r.attempt.toNat + 8 * r.peerCount),
   BitVec.ofNat 8 (r.info.observed.isSome.toNat + 2 * r.info.refA.isSome.toNat + 4 * r.info.refB.isSome.toNat)] ++
  leBytes 4 (optWord r.info.observed) ++ leBytes 4 (optWord r.info.refA) ++ leBytes 4 (optWord r.info.refB)

/-! ### Frame payloads (R183) -/

/-- FAIL: kind, source, channel or field start, sequence. -/
def failPayload (i : FaultInfo) (sequence : BitVec 16) : List Byte :=
  [BitVec.ofNat 8 i.kind.code, BitVec.ofNat 8 i.source.code, optByte i.channel] ++ leBytes 2 sequence.toNat

/-- CLAIM: held now, asking total. -/
def claimPayload (c : OwnClaim) : List Byte := leBytes 2 c.heldNow.toNat ++ leBytes 2 c.asking.toNat

/-- DRAW: held total. -/
def drawPayload (held : Draw) : List Byte := leBytes 2 held.toNat

/-- REPORT END: job state, halt reason, halt index, fault count (R48). -/
def endPayload (job : JobState) (reason : Option HaltReason) (index : RingIndex) (faults : Nat) : List Byte :=
  [0, BitVec.ofNat 8 job.code, BitVec.ofNat 8 (haltCode reason)] ++ leBytes 2 index.toNat ++ [BitVec.ofNat 8 faults]

/-- REPORT PROGRESS: ring index, outcome, loop remaining, station time (R49). -/
def progressPayload (index : RingIndex) (o : StepOutcome) (remaining : BitVec 16) (stamp : Time) : List Byte :=
  [1] ++ leBytes 2 index.toNat ++ [o.code] ++ leBytes 2 remaining.toNat ++ leBytes 4 stamp.toNat

/-- The opening bytes of a REPLY other than PEEK_DATA: request kind and reply type. -/
def replyHead (k : FrameKind) (type : Nat) : List Byte := [k.code.setWidth 8, BitVec.ofNat 8 type]

/-- ACCEPT; for CONTROL, `extra` is the action accepted. -/
def acceptPayload (k : FrameKind) (extra : List Byte) : List Byte := replyHead k 0 ++ extra

/-- REFUSE; for CONTROL, `extra` is the action refused. -/
def refusePayload (k : FrameKind) (c : RefusalCode) (extra : List Byte) : List Byte := replyHead k 1 ++ [c.code] ++ extra

/-- PEEK_DATA: a word with bit 15 set and the start address below it, then the bytes read. -/
def peekPayload (start : Nat) (bytes : List Byte) : List Byte := leBytes 2 (32768 + start) ++ bytes

/-- READINGS: the eight filtered readings, two signed bytes each (R175). -/
def readingsPayload (r : Rail) : List Byte :=
  replyHead .query 4 ++ r.channels.toList.flatMap fun c => leBytes 2 (BitVec.ofInt 16 c.filtered).toNat

/-- FAULT_RECORD: the position and the record. -/
def faultRecordPayload (position : Byte) (r : FaultRecord) : List Byte :=
  replyHead .faultRead 5 ++ [position] ++ faultBytes r

/-- EMPTY: the position asked for. -/
def emptyPayload (position : Byte) : List Byte := replyHead .faultRead 6 ++ [position]

/-! ### The frame on the line (R153) -/

/-- The `n` low bits of a number, most significant first. -/
def bitsOf : Nat → Nat → List Bool
  | 0, _ => []
  | n + 1, x => x.testBit n :: bitsOf n x

/-- One bit through the check register: generator x^16 + x^12 + x^5 + 1. -/
def checkStep (reg : BitVec 16) (bit : Bool) : BitVec 16 :=
  if reg.msb != bit then (reg <<< 1) ^^^ 0x1021 else reg <<< 1

/-- The bits the check value covers: destination, kind, length and payload, as they are sent. -/
def checkedBits (dest : BitVec 5) (kind : BitVec 4) (length : BitVec 6) (payload : List Byte) : List Bool :=
  bitsOf 5 dest.toNat ++ bitsOf 4 kind.toNat ++ bitsOf 6 length.toNat ++ payload.flatMap fun b => bitsOf 8 b.toNat

/-- The check value: the register starts at all ones (R153). -/
def checkValue (bits : List Bool) : BitVec 16 := bits.foldl checkStep 0xFFFF

/-- A good frame as its bits are read by a receiver. -/
def rawOf (f : Frame) : RawFrame :=
  { source := f.source, dest := f.dest, kind := f.kind, length := BitVec.ofNat 6 f.payload.length,
    payload := f.payload,
    check := checkValue (checkedBits f.dest f.kind (BitVec.ofNat 6 f.payload.length) f.payload) }

/-- The bits of a frame on the line, start bit first (a dominant bit is `false`). -/
def lineBits (cls : BitVec 2) (f : Frame) : List Bool :=
  [false] ++ bitsOf 2 cls.toNat ++ bitsOf 5 f.source.toNat ++
  checkedBits f.dest f.kind (BitVec.ofNat 6 f.payload.length) f.payload ++ bitsOf 16 (rawOf f).check.toNat

/-- `n` bits read most significant first; past the end the line reads recessive. -/
def readBits : Nat → Nat → List Bool → Nat × List Bool
  | 0, acc, bs => (acc, bs)
  | n + 1, acc, [] => readBits n (2 * acc + 1) []
  | n + 1, acc, b :: bs => readBits n (2 * acc + b.toNat) bs

/-- `n` payload bytes read from the line. -/
def readBytes : Nat → List Bool → List Byte × List Bool
  | 0, bs => ([], bs)
  | n + 1, bs =>
    let b := readBits 8 0 bs
    let more := readBytes n b.2
    (BitVec.ofNat 8 b.1 :: more.1, more.2)

/-- A frame as a receiver tracks it field by field from its start bit (R158). Above a length of 32 the
station stops at the length field, and no payload or check is read. -/
def trackFrame (bits : List Bool) : RawFrame :=
  let cls := readBits 2 0 (bits.drop 1)
  let src := readBits 5 0 cls.2
  let dst := readBits 5 0 src.2
  let kind := readBits 4 0 dst.2
  let len := readBits 6 0 kind.2
  let body := if len.1 ≤ 32 then readBytes len.1 len.2 else ([], len.2)
  let check := if len.1 ≤ 32 then readBits 16 0 body.2 else (0, body.2)
  { source := BitVec.ofNat 5 src.1, dest := BitVec.ofNat 5 dst.1, kind := BitVec.ofNat 4 kind.1,
    length := BitVec.ofNat 6 len.1, payload := body.1, check := BitVec.ofNat 16 check.1 }

/-- The bit time in microseconds (R152). -/
def LineRate.bitMicros : LineRate → Nat
  | .kbit125 => 8 | .kbit250 => 4 | .kbit500 => 2 | .kbit1000 => 1

/-- The line rate that the RATE pins give, RATE1 first (11.5 of spec/11_layouts_and_electrical_summary.md). -/
def LineRate.ofStrap (r : BitVec 2) : LineRate :=
  match r.toNat with
  | 0 => .kbit125 | 1 => .kbit250 | 2 => .kbit500 | _ => .kbit1000

end Sys2Proof.Machine
end

