-- ==== Sys2Proof/Machine/Ops.lean ====
section
/-! DEFINITION. The named operations over step memory, the ring's indices, the transmit queue and the
memory port's ownership: what every block uses. -/

namespace Sys2Proof.Machine

/-! ### Step memory (R3, R22) -/

/-- The byte at an address; 0 where none is listed. -/
def Memory.read : Memory → Nat → Byte
  | [], _ => 0
  | (x, b) :: m, a => if x = a then b else Memory.read m a

/-- One byte written. The list stays in its canonical form: addresses rising, no 0 listed. -/
def Memory.write : Memory → Nat → Byte → Memory
  | [], a, v => if v = 0 then [] else [(a, v)]
  | (x, b) :: m, a, v =>
    if a < x then (if v = 0 then (x, b) :: m else (a, v) :: (x, b) :: m)
    else if x = a then (if v = 0 then m else (a, v) :: m)
    else (x, b) :: Memory.write m a v

/-- The canonical form: addresses of step memory, strictly rising, and no byte listed that reads as an
unlisted one. -/
abbrev Memory.wf (m : Memory) : Prop :=
  m.Pairwise (fun x y => x.1 < y.1) ∧ ∀ c ∈ m, c.2 ≠ 0 ∧ c.1 < Config.memoryBytes

/-- `n` bytes from address `a`. -/
def Memory.readBytes (m : Memory) (a : Nat) : Nat → List Byte
  | 0 => []
  | n + 1 => Memory.read m a :: Memory.readBytes m (a + 1) n

/-- Bytes written from address `a` on. -/
def Memory.writeBytes (m : Memory) (a : Nat) : List Byte → Memory
  | [] => m
  | b :: bs => Memory.writeBytes (Memory.write m a b) (a + 1) bs

/-- The 16-byte record at an address. -/
def Memory.record (m : Memory) (a : Nat) : Record := BitVec.ofNat 128 (leNat (Memory.readBytes m a 16))

/-- The 16 bytes of a record written at an address. -/
def Memory.putRecord (m : Memory) (a : Nat) (r : Record) : Memory :=
  Memory.writeBytes m a (leBytes 16 r.toNat)

/-! ### The ring's indices (R7) -/

/-- K: F when the loop stack is empty, otherwise the body start of the outermost entry. -/
def Engine.retain (e : Engine) : RingIndex :=
  match e.loops.getLast? with
  | none => e.fetchIndex
  | some l => l.bodyStart

/-- The live count, (P - K) mod 1024. -/
def Engine.liveCount (e : Engine) : Nat := (e.postIndex - e.retain).toNat

/-- The free count. -/
def Engine.freeCount (e : Engine) : Nat := 1023 - e.liveCount

/-- Record `r` is live (R7). -/
def Engine.isLive (e : Engine) (r : RingIndex) : Bool := decide ((r - e.retain).toNat < e.liveCount)

/-- A record is in flight (R23): RUNNING with a record copy. The copy of a completed record whose
write-back waits is held by that access, and a STARVED job's copy is not in flight (R46). -/
def State.inFlight (s : State) : Bool := decide (s.eng.job = .running) && s.eng.copy.isSome

/-! ### The transmit queue (R160 to R162) -/

/-- A frame as it joins the queue. -/
def newFrame (k : FrameKind) (dest : BitVec 5) (payload : List Byte) : TxFrame :=
  { kind := k, dest := dest, payload := payload, attempts := 0, sending := false }

/-- A station that transmits nothing: silent by its strap, or with the duplicate flag set (R162, R163). -/
def LinePort.mute (l : LinePort) : Bool := decide (30 ≤ l.slot.toNat) || l.duplicate

/-- The queue with a frame joined in class order, after the frames of its own class (R160). -/
def joinQueue (f : TxFrame) : List TxFrame → List TxFrame
  | [] => [f]
  | g :: q => if g.kind.cls ≤ f.kind.cls then g :: joinQueue f q else f :: g :: q

/-- The last frame of the queue that is not in transmission, and the queue without it. In class order
that frame is the newest of the least urgent class not in transmission (R161). -/
def takeLastIdle : List TxFrame → Option (TxFrame × List TxFrame)
  | [] => none
  | f :: q =>
    match takeLastIdle q with
    | some (v, rest) => some (v, f :: rest)
    | none => if f.sending then none else some (f, q)

/-- The frame in transmission (R151). -/
def LinePort.inTransmission (l : LinePort) : Option TxFrame := l.queue.find? (·.sending)

/-- A frame handed to the port, and the frame lost by it, if one is: the port after, and what it dropped
or shed (R161, R162). -/
def LinePort.offer (l : LinePort) (f : TxFrame) : LinePort × Option TxFrame :=
  if l.mute then ({ l with notSent := satInc l.notSent }, some f)
  else if l.queue.length < Config.txCapacity then ({ l with queue := joinQueue f l.queue }, none)
  else
    match takeLastIdle l.queue with
    | some (v, rest) =>
      if f.kind.cls < v.kind.cls then
        ({ l with queue := joinQueue f rest, notSent := satInc l.notSent }, some v)
      else ({ l with notSent := satInc l.notSent }, some f)
    | none => ({ l with notSent := satInc l.notSent }, some f)

/-- A frame handed to the port that can take no CLAIM with it: every kind but FAIL and CLAIM, since a shed
frame is of a less urgent class than the frame that sheds it (R161). -/
def State.hand (s : State) (k : FrameKind) (dest : BitVec 5) (payload : List Byte) : State :=
  { s with line := (s.line.offer (newFrame k dest payload)).1 }

/-- A DRAW of the own held draw, to all stations (R153). -/
def State.handDraw (s : State) : State := s.hand .draw 31 (drawPayload s.draw.held)

/-! ### The memory port's ownership (R19, R20) -/

/-- The engine reaches a release point: a bench access that was asked for gets the port. -/
def State.releasePort (s : State) : State :=
  if s.port.owner = .asked then { s with port := { s.port with owner := .bench } } else s

/-- A release point stands (R20): any job state but RUNNING, or a waiting phase. -/
def State.atReleasePoint (s : State) : Bool :=
  decide (s.eng.job ≠ .running) || decide (s.eng.phase ≠ .ready)

/-- An admitted LOAD or PEEK asks for the port (R19). -/
def State.askPort (s : State) : State :=
  { s with port := { s.port with owner := if s.atReleasePoint then .bench else .asked } }

/-- An engine access joins those waiting for the port's return (R21). -/
def State.wait (s : State) (a : EngineAccess) : State :=
  { s with port := { s.port with waits := s.port.waits ++ [a] } }

end Sys2Proof.Machine
end

