-- ==== Sys2Proof/Machine/EngineOps.lean ====
section
/-! DEFINITION. The Step Engine's own operations: write-back (R15, R16), the fetch test (R29), loop ends
(R40), the step boundary (R33), reports (R48, R49) and the halt procedure (R46). -/

namespace Sys2Proof.Machine

/-- The two outcome bytes of the record at a ring index (R15). -/
def State.writeOutcome (s : State) (index : RingIndex) (o : StepOutcome) (failCount : Byte) : State :=
  { s with mem := Memory.write (Memory.write s.mem (16 * index.toNat + 14) o.code) (16 * index.toNat + 15) failCount }

/-- The write-back of a record that is abandoned or refused, at F, when REPORT is set; it waits while the
bench holds the port (R15, R21, R34, R46). The halt that follows does not wait for it: DESIGN CHOICE, assumption
log 27. -/
def State.writeBack (s : State) (r : Record) (o : StepOutcome) : State :=
  if reportFlag r then
    if s.port.owner = .bench then s.wait (.outcome s.eng.fetchIndex o (failCountAfter o (failCountOf r)) none)
    else s.writeOutcome s.eng.fetchIndex o (failCountAfter o (failCountOf r))
  else s

/-- The engine fetches record F, at the port's return when the bench holds it (R29, R21). -/
def State.fetch (s : State) : State :=
  if s.port.owner = .bench then s.wait .fetch
  else { s with eng := { s.eng with copy := some (Memory.record s.mem (16 * s.eng.fetchIndex.toNat)) } }

/-- The fetch test, made in RUNNING at READY (R29). A job that leaves RUNNING for STARVED clears the latch (R25). -/
def State.fetchTest (s : State) : State :=
  if s.eng.fetchIndex = s.eng.postIndex then
    ({ s with eng := { s.eng with job := .starved, latch := false } } : State).releasePort
  else s.fetch

/-- Where the loop stack and F stand after the record at `index`, a loop's end included: the loop end of R40
applies to each entry from the innermost whose body end is `index`. -/
def loopEnd : List LoopEntry → RingIndex → List LoopEntry × RingIndex
  | [], index => ([], index + 1)
  | l :: ls, index =>
    if l.bodyEnd = index then
      if 1 < l.remaining.toNat then ({ l with remaining := l.remaining - 1 } :: ls, l.bodyStart)
      else loopEnd ls index
    else (l :: ls, index + 1)

/-- The loop stack and F after a completion with which the job goes on (R33 step 3, R39). -/
def Engine.moved (e : Engine) : AfterStep → List LoopEntry × RingIndex
  | .advance => loopEnd e.loops e.fetchIndex
  | .enter l => (l :: e.loops, l.bodyStart)
  | .skip bodyEnd => loopEnd e.loops bodyEnd
  | .stop => (e.loops, e.fetchIndex + 1)
  | .halt _ | .isolate => (e.loops, e.fetchIndex)

/-- Steps 3 to 6 of the step boundary (R33). The port passes to a waiting bench access between the
write-back and the fetch (R20). -/
def State.boundary (s : State) (a : AfterStep) : State :=
  let e : Engine := { s.eng with loops := (s.eng.moved a).1, fetchIndex := (s.eng.moved a).2, attempt := 0, copy := none }
  if s.eng.latch then ({ s with eng := { e with latch := false, job := .paused } } : State).releasePort
  else ({ s with eng := e } : State).releasePort.fetchTest

/-- The remaining count of the innermost entry, 0 when the stack is empty (R49). -/
def Engine.innermostRemaining (e : Engine) : BitVec 16 :=
  match e.loops with
  | [] => 0
  | l :: _ => l.remaining

/-- REPORT PROGRESS for a completed record with NOTIFY set (R49). -/
def State.progress (s : State) (c : Completion) : State :=
  if notifyFlag c.record then
    s.hand .report 30 (progressPayload s.eng.fetchIndex c.outcome s.eng.innermostRemaining c.stamp)
  else s

/-- REPORT END at an entry into HALTED or ENDED (R48). -/
def State.reportEnd (s : State) : State :=
  s.hand .report 30 (endPayload s.eng.job s.eng.haltReason (s.eng.haltIndex.getD 0) s.faults.queue.length)

/-- Steps 2 to 5 of the halt procedure (R46). Leaving RUNNING is a release point (R20). -/
def State.haltJob (s : State) (reason : HaltReason) : State :=
  ({ s with eng := { s.eng with job := .halted, phase := .ready, copy := none, judged := none, attempt := 0,
                                latch := false, haltReason := some reason, haltIndex := some s.eng.fetchIndex,
                                timer := none } } : State).reportEnd.releasePort

/-- Step 1 of the halt procedure (R46): a record in flight is abandoned. The work of its phase stops and
ABORTED is written back. -/
def State.abandon (s : State) : State :=
  if s.eng.job = .running then
    match s.eng.copy with
    | none => s
    | some r =>
      ({ s with probe := { s.probe with strobe := none }, rail := { s.rail with average := none } } : State).writeBack r .aborted
  else s

/-- The halt of an active job by a block or by ABORT (R46, R47). A halt that finds no active job changes
nothing. HALTED and END come at once, also where the ABORTED write-back waits for the port: DESIGN CHOICE,
assumption log 27. -/
def State.haltActive (s : State) (reason : HaltReason) : State :=
  if s.eng.job.active then s.abandon.haltJob reason else s

/-- A record that cannot be run is refused (R34). -/
def State.refuseRecord (s : State) : State :=
  match s.eng.copy with
  | none => s
  | some r => (s.writeBack r .illegal).haltJob .illegalStep

/-- The end of the job by a STOP (R36): F moves on without the loop end, and END follows. -/
def State.endJob (s : State) : State :=
  ({ s with eng := { s.eng with job := .ended, phase := .ready, copy := none, latch := false, haltReason := none,
                                fetchIndex := s.eng.fetchIndex + 1, haltIndex := some (s.eng.fetchIndex + 1) } } : State).reportEnd.releasePort

/-- The phase of a record in flight; entering a waiting phase is a release point (R20, R31). -/
def State.enterPhase (s : State) (p : StepPhase) (timer : Option Timer) : State :=
  ({ s with eng := { s.eng with phase := p, timer := timer } } : State).releasePort

end Sys2Proof.Machine
end

