-- ==== Sys2Proof/Machine/BoardOps.lean ====
section
/-! DEFINITION. What takes the board down and what a completion does: releases and abandonments of draw
(R130, R131), the Power Path's way to OFF and TRIPPED (R112 to R116), the completion of a record (R32,
R33, R42, R43) and the engine's accesses at the port's return (R21). -/

namespace Sys2Proof.Machine

/-! ### Draw Unit: release and abandonment -/

/-- A release to a lower total (R131): at an equal or higher total nothing changes. -/
def State.release (s : State) (total : Draw) : State :=
  if total.toNat < s.draw.held.toNat then ({ s with draw := { s.draw with held := total } } : State).handDraw else s

/-- An outstanding claim is abandoned (R130). A queued CLAIM that stays with the port becomes stale. -/
def State.abandonClaim (s : State) : State :=
  if s.draw.claimState = .none_ then s
  else
    ({ s with draw := { s.draw with
        claim := none, claimState := .none_, windowTimer := none, backoffTimer := none,
        mark := if s.draw.claimState = .queued ∧ s.draw.mark = .current then .stale else s.draw.mark } } : State).handDraw

/-! ### Power Path: to OFF and to TRIPPED -/

/-- Both switches open (R105). -/
def State.openSwitches (s : State) : State :=
  { s with power := { s.power with standby := false, main := false } }

/-- A move is ended: its zero capture is dropped, its claim abandoned, its ramp timer stopped (R114 step 2). -/
def State.endMove (s : State) : State :=
  match s.power.move with
  | none => s
  | some _ =>
    ({ s with power := { s.power with move := none, rampTimer := none },
              rail := { s.rail with zeroCapture := none } } : State).abandonClaim

/-- Steps 1 to 3 of R114, and the power state after them. -/
def State.powerDown (s : State) (target : PowerState) : State :=
  let t := s.openSwitches.endMove.release 0
  { t with power := { t.power with state := target, declared := 0 } }

/-- Isolation (R115), and ABORT's way to OFF (R116): an unpowered board is left as it stands. -/
def State.isolateBoard (s : State) : State :=
  if s.power.state.unpowered then s else s.powerDown .off

/-! ### Completion of a record -/

/-- What follows a completion's write-back and PROGRESS while the job is RUNNING: the step boundary, the end of
the job or the halt that the outcome brings (R32, R33, R36, R42, R43). -/
def State.goOn (s : State) : AfterStep → State
  | .stop => s.endJob
  | .halt reason => s.haltJob reason
  | .isolate => s.isolateBoard.haltJob .isolated
  | .advance => s.boundary .advance
  | .enter l => s.boundary (.enter l)
  | .skip e => s.boundary (.skip e)

/-- What follows it when a halt came while the write-back waited for the port (R21): an isolation still acts on
the board, in any job state (R115); the halted job keeps F, its loop stack, reason and index (R46). DEDUCED,
assumption log 8. -/
def State.goOnHalted (s : State) : AfterStep → State
  | .isolate => s.isolateBoard
  | .stop | .halt _ | .advance | .enter _ | .skip _ => s

/-- What follows a completion's write-back: PROGRESS, which every completed record sends (R49), and then the
job's way on. -/
def State.finish (s : State) (c : Completion) : State :=
  let t := s.progress c
  if s.eng.job = .running then t.goOn c.after else t.goOnHalted c.after

/-- The record in flight completes (R32): the write-back when REPORT is set, which waits while the bench
holds the port, and then what follows it. -/
def State.complete (s : State) (o : StepOutcome) (a : AfterStep) : State :=
  match s.eng.copy with
  | none => s
  | some r =>
    let c : Completion := { record := r, outcome := o, stamp := s.clock, after := a }
    let t : State := { s with eng := { s.eng with copy := none, phase := .ready, judged := none, timer := none } }
    if reportFlag r then
      if s.port.owner = .bench then
        t.wait (.outcome s.eng.fetchIndex o (failCountAfter o (failCountOf r)) (some c))
      else (t.writeOutcome s.eng.fetchIndex o (failCountAfter o (failCountOf r))).finish c
    else t.finish c

/-- A record of a kind that passes or is merely done (R32): DONE or PASS at attempt 0, RETRIED_PASS later. -/
def State.completePassed (s : State) (first : StepOutcome) : State :=
  s.complete (passOutcome first s.eng.attempt) .advance

/-! ### Capture entries and the port's return -/

/-- A capture entry written whole at the next index (R64). -/
def State.writeCapture (s : State) (entry : Record) : State :=
  { s with
    mem := Memory.putRecord s.mem (Config.captureBase + 16 * s.probe.nextIndex.toNat) entry,
    probe := { s.probe with nextIndex := s.probe.nextIndex + 1, validCount := min (s.probe.validCount + 1) 512 } }

/-- One waiting engine access made at the port's return (R21), with what follows it. A record abandoned while its
capture entry waited does not complete on the write (R46). -/
def State.makeAccess (s : State) : EngineAccess → State
  | .capture entry completes =>
    let t := s.writeCapture entry
    match completes with
    | none => t
    | some o => if t.inFlight then t.complete o .advance else t
  | .outcome index code failCount after =>
    let t := s.writeOutcome index code failCount
    match after with
    | none => t
    | some c => t.finish c
  | .fetch => if s.eng.job = .running then s.fetch else s

end Sys2Proof.Machine
end

