-- ==== Sys2Proof/Machine/ClaimOps.lean ====
section
/-! DEFINITION. The own claim and the fault records: refusal and loss of a claim (R126, R128), CLAIM and
FAIL frames handed to the port, recording a fault (R136 to R139) and FAULT_FLOOD (R116, R138). -/

namespace Sys2Proof.Machine

/-! ### Refusal, loss and hand-over of the own claim -/

/-- The draw wait limit of the move has passed (R108): it is not 0, and more than that many seconds have gone
by since the claim order time. -/
def State.waitLimitPassed (s : State) : Bool :=
  match s.power.move with
  | none => false
  | some m =>
    match m.claimOrder with
    | none => false
    | some t => decide (m.waitLimit ≠ 0 ∧ 1000 * m.waitLimit.toNat < (s.clock - t).toNat)

/-- The backoff of a refused claim, Tc + 8 ms × own slot (R128). -/
def State.backoffSpan (s : State) : Nat := s.line.params.claimWindow + 8 * s.line.slot.toNat

/-- The Power Path after DRAW_DENIED: the start state of an upward move; a set-draw claim leaves the power
state as it stands (R108, R110). -/
def State.moveDenied (s : State) : State :=
  match s.power.move with
  | none => s
  | some m =>
    { s with power := { s.power with move := none,
                                     state := if m.stage = .setClaim then s.power.state else m.start } }

/-- The own claim is refused, by its judgement or by the loss of its frame (R126, R128): the withdrawal, then
the limit test, then DEFERRED or DRAW_DENIED. -/
def State.claimRefused (s : State) : State :=
  let t := ({ s with draw := { s.draw with windowTimer := none } } : State).handDraw
  if t.waitLimitPassed then
    (({ t with draw := { t.draw with claim := none, claimState := .none_, backoffTimer := none } } : State).moveDenied).haltActive .drawDenied
  else
    { t with draw := { t.draw with
        claimState := .deferred,
        claim := t.draw.claim.map fun c => { c with t0 := none },
        backoffTimer := some (t.clock + BitVec.ofNat 32 t.backoffSpan) } }

/-- The frame lost when one was handed over is a CLAIM. -/
def lostClaim : Option TxFrame → Bool
  | some f => decide (f.kind = .claim)
  | none => false

/-- The CLAIM of the present own claim is handed to the port (R124, R129). A CLAIM dropped at once is lost (R126). -/
def State.handClaim (s : State) : State :=
  match s.draw.claim with
  | none => s
  | some c =>
    let o := s.line.offer (newFrame .claim 31 (claimPayload c))
    if lostClaim o.2 then ({ s with line := o.1, draw := { s.draw with mark := .none_ } } : State).claimRefused
    else { s with line := o.1, draw := { s.draw with mark := .current } }

/-- The port reports an own CLAIM dropped (R126). -/
def State.claimDropped (s : State) : State :=
  let t : State := { s with draw := { s.draw with mark := .none_ } }
  match s.draw.mark, s.draw.claimState with
  | .current, .queued => t.claimRefused
  | .stale, .queued => t.handClaim
  | _, _ => t

/-- The station takes its own CLAIM frame (R125). -/
def State.claimHeard (s : State) : State :=
  let t : State := { s with draw := { s.draw with mark := .none_ } }
  match s.draw.mark, s.draw.claimState with
  | .current, .queued =>
    { t with draw := { t.draw with
        claim := t.draw.claim.map fun c => { c with t0 := some t.clock },
        claimState := .claiming,
        windowTimer := some (t.clock + BitVec.ofNat 32 t.line.params.claimWindow) } }
  | .stale, .queued => t.handClaim
  | _, _ => t

/-- The Power Path asks for a claim of a new total (R124). Behind a stale frame the CLAIM is held back. -/
def State.askClaim (s : State) (asking : Draw) : State :=
  let t : State := { s with draw := { s.draw with
    claim := some { heldNow := s.draw.held, asking := asking, t0 := none }, claimState := .queued } }
  if s.draw.mark = .none_ then t.handClaim else t

/-! ### Recording a fault -/

/-- A FAIL notice handed to the port (R139); it can shed an own CLAIM, which is then reported (R161, R126). -/
def State.handFail (s : State) (i : FaultInfo) (sequence : BitVec 16) : State :=
  let o := s.line.offer (newFrame .fail 31 (failPayload i sequence))
  let t : State := { s with line := o.1 }
  if lostClaim o.2 then t.claimDropped else t

/-- A move ended by FAULT_FLOOD, by its stage (R116). -/
def State.endMoveFlood (s : State) : State :=
  match s.power.move with
  | none => s
  | some m =>
    let t : State := { s with power := { s.power with move := none, rampTimer := none } }
    match m.stage with
    | .zeroing => { t with rail := { t.rail with zeroCapture := none }, power := { t.power with state := m.start } }
    | .claiming => ({ t with power := { t.power with state := m.start } } : State).abandonClaim
    | .ramping =>
      ({ t with power := { t.power with state := m.target, declared := m.asked } } : State).release m.asked
    | .setClaim => t.abandonClaim

/-- FAULT_FLOOD (R138 step 4): an active job halts, and a move in progress ends by its stage. -/
def State.haltFlood (s : State) : State :=
  if s.eng.job.active then s.endMoveFlood.haltActive .faultFlood else s

/-- The sequence after one, 1 after 65535 (R136). -/
def nextSequence (q : BitVec 16) : BitVec 16 := if q = 65535 then 1 else q + 1

/-- A classified record. -/
def FaultRecord.classified (r : FaultRecord) : Bool := decide (r.cls ≠ .provisional)

/-- The record of a fault as it is appended (R135, R136): step index and attempt number are the engine's when a
record is in flight. -/
def State.faultRecord (s : State) (i : FaultInfo) (a : Option GuardAction) : FaultRecord :=
  { sequence := s.faults.nextSequence, stamp := s.clock, info := i,
    stepIndex := if s.inFlight then some s.eng.fetchIndex else none,
    attempt := if s.inFlight then s.eng.attempt else 0,
    cls := .provisional, peerCount := 0, guardAction := a }

/-- A fault can be recorded: the queue has room or holds a classified record (R136). -/
def Recorder.hasRoom (r : Recorder) : Bool :=
  decide (r.queue.length < Config.faultCapacity) || r.queue.any FaultRecord.classified

/-- A fault reaches the Fault Recorder (R136 to R138). A queue with no room floods. -/
def State.recordFault (s : State) (i : FaultInfo) (a : Option GuardAction) : State :=
  let q := s.faults.nextSequence
  if s.faults.queue.length < Config.faultCapacity then
    ({ s with faults := { s.faults with queue := s.faults.queue ++ [s.faultRecord i a], nextSequence := nextSequence q } } : State).handFail i q
  else if s.faults.hasRoom then
    ({ s with faults := { s.faults with
        queue := s.faults.queue.eraseP FaultRecord.classified ++ [s.faultRecord i a],
        discarded := satInc s.faults.discarded, nextSequence := nextSequence q } } : State).handFail i q
  else
    (({ s with faults := { s.faults with discarded := satInc s.faults.discarded, nextSequence := nextSequence q } } : State).handFail i q).haltFlood

/-- The engine enters JUDGING on a fault against the record in flight (R41). -/
def State.enterJudging (s : State) (sequence : BitVec 16) : State :=
  if s.inFlight then
    ({ s with eng := { s.eng with judged := some sequence } } : State).enterPhase .judging none
  else s

/-- A fault against the record in flight: recorded, and JUDGING on its sequence when it was (R41, R136, R138). -/
def State.stepFault (s : State) (i : FaultInfo) : State :=
  if s.faults.hasRoom then (s.recordFault i none).enterJudging s.faults.nextSequence
  else s.recordFault i none

end Sys2Proof.Machine
end

