-- ==== Sys2Proof/Machine/PowerOps.lean ====
section
/-! DEFINITION. The moves of the Power Path: upward, set-draw, downward and off (R106 to R112), the results
of a zero capture (R107), the grant of a claim (R108) and the end of a ramp (R109). -/

namespace Sys2Proof.Machine

/-- The Power Path tells the engine that the target is reached, and the POWER record completes (R31, R109). -/
def State.powerReached (s : State) : State :=
  if s.inFlight ∧ s.eng.phase = .awaitPower then s.completePassed .done else s

/-- Entry into RAMPING: STANDBY closes, then MAIN when the target is ON, and the ramp timer starts (R105, R109). -/
def State.enterRamping (s : State) : State :=
  match s.power.move with
  | none => s
  | some m =>
    { s with power := { s.power with
        state := .ramping, standby := true, main := s.power.main || decide (m.target = .on),
        move := some { m with stage := .ramping }, rampTimer := some { start := s.clock, span := m.ramp } } }

/-- The Rail Monitor reports the capture done (R107): CLAIMING when more draw is asked than held, else RAMPING. -/
def State.captureDone (s : State) : State :=
  match s.power.move with
  | none => s
  | some m =>
    if s.draw.held.toNat < m.asked.toNat then
      ({ s with power := { s.power with
          state := .claiming, move := some { m with stage := .claiming, claimOrder := some s.clock } } } : State).askClaim m.asked
    else s.enterRamping

/-- The Rail Monitor reports the capture failed (R107): back to the start state, the move absent. -/
def State.captureFailed (s : State) : State :=
  match s.power.move with
  | none => s
  | some m => { s with power := { s.power with state := m.start, move := none } }

/-- A set-draw claim: the move record in stage SET_CLAIM, AWAIT_POWER, and the ask (R110, R111). -/
def State.startSetClaim (s : State) (start : PowerState) (o : PowerOp) : State :=
  let m : Move := { start := start, target := o.target, asked := o.declared, ramp := o.ramp, waitLimit := o.waitLimit,
                    stage := .setClaim, claimOrder := some s.clock }
  (({ s with power := { s.power with move := some m } } : State).enterPhase .awaitPower none).askClaim o.declared

/-- An upward move begins in ZEROING with a zero capture of the channels whose switches it will close (R107). -/
def State.startUpward (s : State) (o : PowerOp) : State :=
  let m : Move := { start := s.power.state, target := o.target, asked := o.declared, ramp := o.ramp,
                    waitLimit := o.waitLimit, stage := .zeroing, claimOrder := none }
  let z : ZeroCapture := { onMain := decide (o.target = .on), onStandby := decide (s.power.state = .off),
                           sumMain := 0, sumStandby := 0, rounds := 0 }
  ({ s with power := { s.power with state := .zeroing, move := some m },
            rail := { s.rail with zeroCapture := some z } } : State).enterPhase .awaitPower none

/-- A lower declared draw takes effect at once (R110, R111). -/
def State.lowerDraw (s : State) (d : Draw) : State :=
  let t := s.release d
  { t with power := { t.power with declared := d } }

/-- A set-draw move, against the declared draw in force (R110). -/
def State.setDraw (s : State) (o : PowerOp) : State :=
  if o.declared = s.power.declared then s.completePassed .done
  else if o.declared.toNat < s.power.declared.toNat then (s.lowerDraw o.declared).completePassed .done
  else s.startSetClaim s.power.state o

/-- A downward move: MAIN opens before any release (R111). -/
def State.downward (s : State) (o : PowerOp) : State :=
  let t : State := { s with power := { s.power with main := false, state := .standby } }
  if o.declared.toNat < t.draw.held.toNat then (t.lowerDraw o.declared).completePassed .done
  else if o.declared = t.draw.held then t.completePassed .done
  else t.startSetClaim s.power.state o

/-- An admitted POWER (R106): the trip limits first, for a powered target, then the move by the table. `none`
for a power state that cannot stand at dispatch. -/
def State.runPower (s : State) (o : PowerOp) : Option State :=
  let t : State := if o.target = .off then s
    else { s with power := { s.power with mainTrip := o.mainTrip, standbyTrip := o.standbyTrip } }
  match s.power.state, o.target with
  | .off, .off => some (t.completePassed .done)
  | .standby, .off => some ((t.powerDown .off).completePassed .done)
  | .on, .off => some ((t.powerDown .off).completePassed .done)
  | .off, .standby => some (t.startUpward o)
  | .off, .on => some (t.startUpward o)
  | .standby, .on => some (t.startUpward o)
  | .standby, .standby => some (t.setDraw o)
  | .on, .on => some (t.setDraw o)
  | .on, .standby => some (t.downward o)
  | _, _ => none

/-- A POWER that is refused at dispatch: a powered target with a declared draw of 0 (R106). -/
def powerRefused (o : PowerOp) : Bool := decide (o.target ≠ .off ∧ o.declared = 0)

/-- A POWER record handed to the Power Path, at its dispatch or its retry (R44, R106). -/
def State.dispatchPower (s : State) (r : Record) : Option State :=
  if powerRefused (powerOp r) then some s.refuseRecord else s.runPower (powerOp r)

/-- The own claim is granted (R127), and the Power Path goes on (R108, R110). -/
def State.claimGranted (s : State) : State :=
  match s.draw.claim with
  | none => s
  | some c =>
    let t : State := { s with draw := { s.draw with
      held := c.asking, claim := none, claimState := .none_, windowTimer := none } }
    match t.power.move with
    | none => t
    | some m =>
      if m.stage = .setClaim then
        ({ t with power := { t.power with declared := m.asked, move := none } } : State).powerReached
      else t.enterRamping

/-- The end of a ramp (R109). -/
def State.rampEnded (s : State) : State :=
  match s.power.move with
  | none => s
  | some m =>
    let t := ({ s with power := { s.power with state := m.target, rampTimer := none } } : State).release m.asked
    ({ t with power := { t.power with declared := m.asked, move := none } } : State).powerReached

end Sys2Proof.Machine
end

