-- ==== Sys2Proof/Machine/RailOps.lean ====
section
/-! DEFINITION. One update round of the Rail Monitor (R82 to R88, R92 to R96, R99, R100) and the trip and
the overdraw as the Power Path takes them (R114, R115). -/

namespace Sys2Proof.Machine

/-! ### One channel -/

/-- A reading outside -32768 to 32767 takes the nearest end (R84). -/
def clampReading (x : Int) : Int := clampInt (-32768) 32767 x

/-- The scaled reading: floor(((c - z) × g + 2048) / 4096), saturated (R84). -/
def scaledReading (c z : BitVec 12) (g : BitVec 16) : Int :=
  clampReading ((((c.toNat : Int) - z.toNat) * g.toNat + 2048) / 4096)

/-- The filtered reading (R85). -/
def filteredReading (seed : Bool) (limit : Nat) (f r : Int) : Int :=
  if seed ∨ limit = 0 then r else f + clampInt (-limit) limit (r - f)

/-- The power states in which the guard of a channel is active (R92). -/
def guardActive (channel : Fin 8) (p : PowerState) : Bool :=
  if channel = 2 ∨ channel = 3 then decide (p = .standby ∨ p = .on) else decide (p = .on)

/-- A reading lies outside a guard's window (R93). -/
def Guard.outside (g : Guard) (f : Int) : Bool := decide (f < g.low ∨ g.high < f)

/-- A guard's activity at a round (R92). -/
def Guard.activity (g : Guard) (active : Bool) : Guard :=
  match g.state with
  | .disabled => g
  | .inactive => if active then { g with state := .armed, count := 0 } else g
  | .armed | .resting => if active then g else { g with state := .inactive, count := 0 }

/-- A guard's count at a round, on the reading of that round (R93, R94). A count that reaches the debounce
stands there: the fault or the re-arm is the round's own event, GUARD_FAULT or GUARD_REARM. -/
def Guard.judge (g : Guard) (f : Int) : Guard :=
  match g.state with
  | .disabled | .inactive => g
  | .armed => if g.outside f then { g with count := min (g.count + 1) g.debounce } else { g with count := 0 }
  | .resting => if g.outside f then { g with count := 0 } else { g with count := min (g.count + 1) g.debounce }

/-- One channel's round: scaled reading, filtered reading, seed, guard. -/
def Channel.round (c : Channel) (channel : Fin 8) (code : BitVec 12) (p : PowerState) : Channel :=
  let r := scaledReading code c.zero c.gain
  let f := filteredReading c.seed c.stepLimit c.filtered r
  { c with scaled := r, filtered := f, seed := false,
           guard := (c.guard.activity (guardActive channel p)).judge f }

/-! ### The monitor -/

/-- The measured draw of a round's filtered readings (R87). -/
def measuredDraw (f0 f1 f2 f3 : Int) : Draw :=
  BitVec.ofNat 16 (min 65535 ((max 0 (f0 * f1) + max 0 (f2 * f3) + 50000) / 100000).toNat)

/-- A trip count at a round (R99). -/
def tripRound (closed : Bool) (r : Int) (limit count : Nat) : Nat :=
  if closed ∧ (limit : Int) < r then min (count + 1) 2 else 0

/-- The overdraw limit of a held draw, H + floor(H / 8) (R100). -/
def overdrawLimit (h : Draw) : Nat := h.toNat + h.toNat / 8

/-- The overdraw count at a round (R100). -/
def overdrawRound (p : PowerState) (d h : Draw) (count : Nat) : Nat :=
  if (p = .standby ∨ p = .on) ∧ overdrawLimit h < d.toNat then min (count + 1) 50 else 0

/-- A zero capture at a round: raw codes, not readings, are summed, for 16 rounds (R88). -/
def ZeroCapture.round (z : ZeroCapture) (main standby : BitVec 12) : ZeroCapture :=
  if z.rounds < 16 then
    { z with sumMain := if z.onMain then z.sumMain + main.toNat else z.sumMain,
             sumStandby := if z.onStandby then z.sumStandby + standby.toNat else z.sumStandby,
             rounds := z.rounds + 1 }
  else z

/-- A RAILCHECK average at a round (R96). -/
def Average.round (a : Average) (channels : Vector Channel 8) : Average :=
  if a.rounds < a.count then { a with sum := a.sum + (channels.get a.channel).filtered, rounds := a.rounds + 1 } else a

/-- The channels after a round (R82). -/
def Rail.roundChannels (r : Rail) (codes : Vector (BitVec 12) 8) (p : PowerState) : Vector Channel 8 :=
  let at' (i : Fin 8) := (r.channels.get i).round i (codes.get i) p
  #v[at' 0, at' 1, at' 2, at' 3, at' 4, at' 5, at' 6, at' 7]

/-- The Rail Monitor after a round (R82). -/
def Rail.round (r : Rail) (codes : Vector (BitVec 12) 8) (p : Power) (held : Draw) : Rail :=
  let ch := r.roundChannels codes p.state
  let d := measuredDraw (ch.get 0).filtered (ch.get 1).filtered (ch.get 2).filtered (ch.get 3).filtered
  { channels := ch, measured := d,
    tripMain := tripRound p.main (ch.get 1).scaled p.mainTrip r.tripMain,
    tripStandby := tripRound p.standby (ch.get 3).scaled p.standbyTrip r.tripStandby,
    overdrawCount := overdrawRound p.state d held r.overdrawCount,
    zeroCapture := r.zeroCapture.map fun z => z.round (codes.get 1) (codes.get 3),
    average := r.average.map fun a => a.round ch }

/-- One channel replaced. -/
def Rail.setChannel (r : Rail) (i : Fin 8) (c : Channel) : Rail := { r with channels := r.channels.set i c }

/-- A channel's guard replaced. -/
def State.setGuard (s : State) (i : Fin 8) (g : Guard) : State :=
  { s with rail := s.rail.setChannel i { s.rail.channels.get i with guard := g } }

/-- Channels 1 and 3 take new zero codes where the capture names them (R89). -/
def Rail.setZeros (r : Rail) (z : ZeroCapture) (main standby : Nat) : Rail :=
  let r1 := if z.onMain then r.setChannel 1 { r.channels.get 1 with zero := BitVec.ofNat 12 main } else r
  if z.onStandby then r1.setChannel 3 { r1.channels.get 3 with zero := BitVec.ofNat 12 standby } else r1

/-- A candidate zero code, floor((sum + 8) / 16) (R89). -/
def candidateZero (sum : Nat) : Nat := (sum + 8) / 16

/-- The average of a RAILCHECK, floor((2 × sum + n) / (2 × n)) (R96). -/
def Average.value (a : Average) : Int := (2 * a.sum + a.count) / (2 * a.count)

/-- CLEAR's effect on a channel (R83, R103). -/
def Channel.cleared (c : Channel) (gain : BitVec 16) : Channel :=
  { c with gain := gain, stepLimit := 0, seed := true, guard := Guard.reset }

/-- CLEAR's effect on the Rail Monitor (R83, R103): zero codes, readings and measured draw are kept. -/
def Rail.cleared (r : Rail) : Rail :=
  let ch := r.channels
  { r with
    channels := #v[(ch.get 0).cleared 16384, (ch.get 1).cleared 20480, (ch.get 2).cleared 8192, (ch.get 3).cleared 4096,
                   (ch.get 4).cleared 4096, (ch.get 5).cleared 4096, (ch.get 6).cleared 4096, (ch.get 7).cleared 4096],
    tripMain := 0, tripStandby := 0, overdrawCount := 0, zeroCapture := none, average := none }

/-! ### Faults of the rails -/

/-- RAIL_LOW when the reading is below low, RAIL_HIGH otherwise (R93, R97). -/
def railKind (x low : Int) : FaultKind := if x < low then .railLow else .railHigh

/-- A fault of a rail's reading against a window (R95, R97). -/
def windowFault (source : FaultSource) (channel : Fin 8) (x low high : Int) : FaultInfo :=
  { kind := railKind x low, source := source, channel := some (BitVec.ofNat 6 channel.val), observed := some (int32 x),
    refA := some (int32 low), refB := some (int32 high) }

/-- The BACKFEED fault (R89): channel 1 when its candidate is above 200, otherwise channel 3. -/
def backfeedFault (z : ZeroCapture) : FaultInfo :=
  let onOne := decide (z.onMain ∧ 200 < candidateZero z.sumMain)
  { kind := .backfeed, source := .power, channel := some (if onOne then 1 else 3),
    observed := some (int32 (if onOne then candidateZero z.sumMain else candidateZero z.sumStandby)),
    refA := some 200, refB := none }

/-- The TRIP fault (R114). -/
def tripFault (channel : BitVec 6) (r : Int) (limit : Nat) : FaultInfo :=
  { kind := .trip, source := .power, channel := some channel, observed := some (int32 r),
    refA := some (int32 limit), refB := none }

/-- The OVERDRAW fault (R115). -/
def overdrawFault (d h : Draw) : FaultInfo :=
  { kind := .overdraw, source := .power, channel := none, observed := some (int32 d.toNat),
    refA := some (int32 h.toNat), refB := none }

/-- A trip as the Power Path takes it (R114). -/
def State.takeTrip (s : State) (i : FaultInfo) : State :=
  ((s.powerDown .tripped).recordFault i none).haltActive .tripped

/-- An overdraw as the Power Path takes it (R115). -/
def State.takeOverdraw (s : State) : State :=
  ((s.powerDown .off).recordFault (overdrawFault s.rail.measured s.draw.held) none).haltActive .overdrawn

end Sys2Proof.Machine
end

