-- ==== Sys2Proof/Machine/BenchOps.lean ====
section
/-! DEFINITION. Taking frames from the line (R158 to R165), the request queue and service (R167 to R171),
the STATUS record (R174) and the coincidence judgement (R144 to R147). -/

namespace Sys2Proof.Machine

/-! ### Taking a frame -/

/-- What the port does with a frame it has read whole. -/
inductive Reception where
  | bad | passedOver | duplicate | taken (kind : FrameKind)
  deriving DecidableEq, Repr

/-- The payload length the port holds a kind to (R158); the bench request kinds are not checked here. -/
def fixedLength : FrameKind → Option Nat
  | .fail => some 5 | .claim => some 4 | .draw => some 2 | .join => some 0 | .setup => some 8
  | .load | .post | .peek | .control | .query | .faultRead | .faultTrim | .reply | .report => none

/-- The peer kinds of R159. -/
def FrameKind.fromPeer : FrameKind → Bool
  | .fail | .claim | .draw | .join => true
  | .setup | .load | .post | .peek | .control | .query | .faultRead | .faultTrim | .reply | .report => false

/-- The kinds a bench station sends that a station takes (R159). -/
def FrameKind.fromBench : FrameKind → Bool
  | .setup | .load | .post | .peek | .control | .query | .faultRead | .faultTrim => true
  | .fail | .claim | .draw | .join | .reply | .report => false

/-- The frame is addressed to this station or to all; a silent station has no address but 31 (R159). -/
def LinePort.addressed (l : LinePort) (dest : BitVec 5) : Bool :=
  decide (dest = 31) || (decide (dest = l.slot) && decide (l.slot.toNat < 30))

/-- A good frame's length is wrong for its kind, or its kind is unassigned (R158). -/
def frameBad (f : Frame) : Bool :=
  decide (32 < f.payload.length) ||
  match FrameKind.ofCode f.kind with
  | none => true
  | some k => (fixedLength k).any fun n => decide (f.payload.length ≠ n)

/-- A frame is taken or passed over (R159), and the test for the own slot (R163) on a frame this station did
not send. -/
def LinePort.receive (l : LinePort) (f : Frame) : Reception :=
  if frameBad f then .bad
  else
    match FrameKind.ofCode f.kind with
    | none => .bad
    | some k =>
      if k.fromPeer ∧ f.source.toNat < 30 then (if f.source = l.slot then .duplicate else .taken k)
      else if k.fromBench ∧ f.source = 30 ∧ l.addressed f.dest then .taken k
      else .passedOver

/-- The check field of a frame as read, and the cases known before it (R158). -/
def rawBad (r : RawFrame) : Bool :=
  decide (32 < r.length.toNat) ||
  decide (r.check ≠ checkValue (checkedBits r.dest r.kind r.length r.payload)) ||
  decide (r.payload.length ≠ r.length.toNat)

/-- One frame received bad (R158). -/
def State.countBad (s : State) : State :=
  { s with line := { s.line with receivedBad := satInc s.line.receivedBad } }

/-- The duplicate flag is set (R163): the whole transmit queue is dropped, each frame counted, an own CLAIM
among them reported. -/
def State.setDuplicate (s : State) : State :=
  let t : State := { s with line := { s.line with
    duplicate := true, queue := [], notSent := s.line.queue.foldl (fun c _ => satInc c) s.line.notSent } }
  if s.line.queue.any (fun f => decide (f.kind = .claim)) then t.claimDropped else t

/-- The peer slot of a source, when it is one (R119). -/
def peerSlot (l : LinePort) (source : BitVec 5) : Option (Fin 30) :=
  if h : source.toNat < 30 then (if source = l.slot then none else some ⟨source.toNat, h⟩) else none

/-- One draw table entry replaced. -/
def State.setPeer (s : State) (x : Fin 30) (e : PeerEntry) : State :=
  { s with draw := { s.draw with table := s.draw.table.set x e } }

/-- A peer's FAIL joins the notice list, the oldest entry making room (R140, R141). -/
def Recorder.addNotice (r : Recorder) (n : Notice) : Recorder :=
  if r.notices.length < Config.noticeCapacity then { r with notices := r.notices ++ [n] }
  else { r with notices := r.notices.tail ++ [n], noticeOverflow := satInc r.noticeOverflow }

/-- FAIL taken (R140). -/
def State.takeFail (s : State) (source : BitVec 5) : State :=
  match peerSlot s.line source with
  | none => s
  | some x => if s.line.isSet then { s with faults := s.faults.addNotice { slot := x, arrival := s.clock } } else s

/-- CLAIM taken (R119, R120). -/
def State.takeClaim (s : State) (source : BitVec 5) (payload : List Byte) : State :=
  match peerSlot s.line source with
  | none => s
  | some x =>
    if s.line.isSet then
      s.setPeer x { held := BitVec.ofNat 16 (leAt 2 payload 0),
                    pending := some { asking := BitVec.ofNat 16 (leAt 2 payload 2),
                                      expiry := s.clock + BitVec.ofNat 32 s.line.params.claimWindow,
                                      beforeMine := decide (s.draw.claimState ≠ .claiming) } }
    else s

/-- DRAW taken (R121). -/
def State.takeDraw (s : State) (source : BitVec 5) (payload : List Byte) : State :=
  match peerSlot s.line source with
  | none => s
  | some x =>
    if s.line.isSet then s.setPeer x { held := BitVec.ofNat 16 (leAt 2 payload 0), pending := none } else s

/-- JOIN taken (R122): answered with a DRAW when the own held draw is above 0. -/
def State.takeJoin (s : State) (source : BitVec 5) : State :=
  match peerSlot s.line source with
  | none => s
  | some x =>
    if s.line.isSet then
      let t := s.setPeer x { held := 0, pending := none }
      if s.draw.held = 0 then t else t.handDraw
    else s

/-- The parameters a SETUP frame carries, clamped (R164). -/
def setupParams (p : List Byte) : SetupParams :=
  { budget := max 1 (leAt 2 p 0), claimWindow := clampNat 10 1000 (leAt 2 p 2), coincidence := max 1 (leAt 1 p 4),
    quorum := clampNat 1 29 (leAt 1 p 5), settleDelay := leAt 2 p 6 }

/-- SETUP taken (R164, R165): in SET it is ignored. -/
def State.takeSetup (s : State) (payload : List Byte) : State :=
  if s.line.isSet then s
  else ({ s with line := { s.line with params := setupParams payload, isSet := true } } : State).hand .join 31 []

/-- A bench request arrives (R168). -/
def State.takeRequest (s : State) (k : FrameKind) (dest : BitVec 5) (payload : List Byte) : State :=
  if s.bench.queue.length < Config.requestCapacity then
    { s with bench := { s.bench with
        queue := s.bench.queue ++ [{ kind := k, payload := payload, toAll := decide (dest = 31) }],
        service := if s.bench.service = .idle then .checking else s.bench.service } }
  else { s with bench := { s.bench with discarded := satInc s.bench.discarded } }

/-- A taken frame is handed on (R159). -/
def State.handOn (s : State) (k : FrameKind) (f : Frame) : State :=
  match k with
  | .fail => s.takeFail f.source
  | .claim => s.takeClaim f.source f.payload
  | .draw => s.takeDraw f.source f.payload
  | .join => s.takeJoin f.source
  | .setup => s.takeSetup f.payload
  | .load | .post | .peek | .control | .query | .faultRead | .faultTrim => s.takeRequest k f.dest f.payload
  | .reply | .report => s

/-- The frame on the line ends, whoever drove it (R156). -/
def State.frameEnded (s : State) : State := { s with line := { s.line with cutOwn := false } }

/-- A frame with a correct check, which this station did not send, is read to its end. The port judges it by
R158, R159 and R163, whatever row of the table names the event (assumption log 5). -/
def State.receiveFrame (s : State) (f : Frame) : State :=
  match s.line.receive f with
  | .bad => s.frameEnded.countBad
  | .passedOver => s.frameEnded
  | .duplicate => s.frameEnded.setDuplicate
  | .taken k => s.frameEnded.handOn k f

/-! ### Service of requests -/

/-- The request in service, when its checks are to be made (R169). -/
def Bench.inService (b : Bench) : Option Request :=
  if b.service = .checking then b.queue.head? else none

/-- Service ends (R169): the request leaves the queue, and the next one enters service at once. -/
def State.endService (s : State) : State :=
  { s with bench := { s.bench with queue := s.bench.queue.tail,
                                   service := if s.bench.queue.tail = [] then .idle else .checking } }

/-- A reply is handed to the port unless the request is marked to all, and service ends (R169, R171). -/
def State.reply (s : State) (q : Request) (payload : List Byte) : State :=
  (if q.toAll then s else s.hand .reply 30 payload).endService

/-- A REFUSE reply to a request other than CONTROL. -/
def State.refuse (s : State) (q : Request) (c : RefusalCode) : State := s.reply q (refusePayload q.kind c [])

/-- The verdict on a CONTROL (R173): REFUSE with its code, or ACCEPT after the effect. -/
def State.controlReply (s : State) (q : Request) (action : Byte) : Except RefusalCode State → State
  | .error c => s.reply q (refusePayload .control c [action])
  | .ok t => t.reply q (acceptPayload .control [action])

/-- The request in service is a CONTROL of the given action (R170, R178). -/
def State.controlInService (s : State) (action : Byte) : Option Request :=
  s.bench.inService.filter fun q => decide (q.kind = .control ∧ q.payload.head? = some action)

/-- The request in service is of a kind. -/
def State.kindInService (s : State) (k : FrameKind) : Option Request :=
  s.bench.inService.filter fun q => decide (q.kind = k)

/-- Every record that bytes `a` to `last` reach lies outside the live region, or not (R11, R12). -/
def Engine.reachesLive (e : Engine) (a last : Nat) : Bool :=
  (List.range (last / 16 - a / 16 + 1)).any fun i => e.isLive (BitVec.ofNat 10 (a / 16 + i))

/-- The checks of a LOAD, in order (R11). -/
def loadRefusal (e : Engine) (p : List Byte) : Option RefusalCode :=
  let a := leAt 2 p 0
  let last := a + (p.length - 2) - 1
  if p.length < 3 then some .badLength
  else if 24575 < last then some .range
  else if Config.captureBase ≤ last then some .readOnly
  else if e.reachesLive a last then some .protected_
  else none

/-- The checks of a PEEK, in order (R14). -/
def peekRefusal (p : List Byte) : Option RefusalCode :=
  let a := leAt 2 p 0
  let m := (byteAt p 2).toNat
  if p.length ≠ 3 then some .badLength
  else if m = 0 ∨ 30 < m then some .badLength
  else if 24575 < a + m - 1 then some .range
  else none

/-- The checks of a POST, in order (R10). -/
def postRefusal (e : Engine) (p : List Byte) : Option RefusalCode :=
  if p.length ≠ 2 then some .badLength
  else if 1023 < leAt 2 p 0 then some .range
  else if e.freeCount < (BitVec.ofNat 10 (leAt 2 p 0) - e.postIndex).toNat then some .overrun
  else none

/-! ### The port's return (R19, R21) -/

/-- The request that has just entered service is a LOAD or PEEK that its checks admit (R11, R14), on the state in
which it enters service (R12). -/
def State.nextAsks (s : State) : Bool :=
  s.bench.inService.any fun q =>
    decide (q.kind = .load ∧ loadRefusal s.eng q.payload = none) || decide (q.kind = .peek ∧ peekRefusal q.payload = none)

/-- A LOAD or PEEK that enters service while the engine's waiting accesses are being made asks then (R21, last
sentence): DESIGN CHOICE, assumption log 28. -/
def State.askAtReturn (s : State) : State :=
  if s.nextAsks then
    { s with bench := { s.bench with service := .waitingPort }, port := { s.port with owner := .asked } }
  else s

/-- The port returns to the engine (R19). Accesses that waited are made in order, before the port is granted again;
a bench access asked meanwhile is granted at the engine's next release point, which the step boundary after a
write-back is (R20, R21). A request of another kind that enters service now is carried out by its own command, after
these accesses, the next fetch among them: DESIGN CHOICE, assumption log 29. -/
def State.returnPort (s : State) : State :=
  let t : State := { s with port := { owner := .engine, waits := [] } }
  match s.port.waits with
  | [] => t
  | w :: ws =>
    let u := (w :: ws).foldl State.makeAccess t.askAtReturn
    if u.atReleasePoint then u.releasePort else u

/-! ### STATUS (R174, R183) -/

/-- The sum of peer held draws as viewed (R133). -/
def DrawUnit.peerSum (d : DrawUnit) : Nat := (d.table.toList.map fun e => e.held.toNat).sum

/-- PROVISIONAL records in the queue (R150). -/
def Recorder.provisionalCount (r : Recorder) : Nat := r.queue.countP fun f => !f.classified

/-- The STATUS record, 29 bytes (R183). -/
def State.statusRecord (s : State) : List Byte :=
  [BitVec.ofNat 8 (s.eng.job.code + 8 * s.eng.phase.code + 64 * s.line.isSet.toNat + 128 * s.line.duplicate.toNat),
   BitVec.ofNat 8 (haltCode s.eng.haltReason)] ++
  leBytes 2 (optIndex s.eng.haltIndex) ++ leBytes 2 s.eng.fetchIndex.toNat ++ leBytes 2 s.eng.postIndex.toNat ++
  leBytes 2 s.eng.retain.toNat ++
  [BitVec.ofNat 8 (s.power.state.code + 8 * s.draw.claimState.code + 32 * s.eng.loops.length)] ++
  leBytes 2 s.draw.held.toNat ++ leBytes 2 s.rail.measured.toNat ++ leBytes 3 s.draw.peerSum ++
  [BitVec.ofNat 8 s.faults.queue.length, BitVec.ofNat 8 s.faults.provisionalCount] ++
  leBytes 2 s.probe.nextIndex.toNat ++ leBytes 2 s.probe.validCount ++
  [s.line.notSent, s.line.receivedBad, s.bench.discarded, s.faults.noticeOverflow, s.faults.discarded]

/-! ### The coincidence judgement -/

/-- A notice arrived within W of a detection stamp (R144): the difference modulo 2^32, read as signed. -/
def withinWindow (w : Nat) (stamp arrival : Time) : Bool := decide ((arrival - stamp).toInt.natAbs ≤ w)

/-- The distinct peer slots with a notice within W of a stamp (R144). -/
def distinctPeers (w : Nat) (stamp : Time) (notices : List Notice) : Nat :=
  (List.finRange 30).countP fun x => notices.any fun n => decide (n.slot = x) && withinWindow w stamp n.arrival

/-- The class for a count of peers (R144). -/
def classFor (quorum n : Nat) : FaultClass := if quorum ≤ n then .rack else .board

/-- A record as judged (R144): the peer count is written as at most 29, and the held guard action is spent. -/
def FaultRecord.judge (r : FaultRecord) (quorum n : Nat) : FaultRecord :=
  { r with cls := classFor quorum n, peerCount := min n 29, guardAction := none }

/-- The oldest PROVISIONAL record judged, in its place in the queue, with the record as it was before (R143). -/
def judgeOldest (quorum w : Nat) (notices : List Notice) : List FaultRecord → Option (FaultRecord × List FaultRecord)
  | [] => none
  | r :: q =>
    if r.cls = .provisional then some (r, r.judge quorum (distinctPeers w r.stamp notices) :: q)
    else (judgeOldest quorum w notices q).map fun x => (x.1, r :: x.2)

/-- The oldest PROVISIONAL record (R143). -/
def Recorder.oldestProvisional (r : Recorder) : Option FaultRecord :=
  r.queue.find? fun f => decide (f.cls = .provisional)

/-- A class handed to the engine for its judged sequence (R42, R43). -/
def State.engineClass (s : State) (sequence : BitVec 16) (c : FaultClass) : State :=
  if s.eng.job = .running ∧ s.eng.phase = .judging ∧ s.eng.judged = some sequence then
    match c with
    | .provisional => s
    | .board =>
      match s.check.field.action with
      | .continue_ => s.complete .fail .advance
      | .halt => s.complete .fail (.halt .faultHalt)
      | .isolate => s.complete .fail .isolate
    | .rack =>
      if s.eng.attempt.toNat < s.check.field.retryLimit.toNat then
        ({ s with eng := { s.eng with judged := none } } : State).enterPhase .recover
          (some { start := s.clock, span := s.line.params.settleDelay })
      else s.complete .rack (.halt .rackUnstable)
  else s

/-- The guard dispatch (R147): only a BOARD class under ISOLATE on a powered board does anything (R115). -/
def State.guardClass (s : State) (action : Option GuardAction) (c : FaultClass) : State :=
  if c = .board ∧ action = some .isolate ∧ s.power.state.unpowered = false then
    (s.powerDown .off).haltActive .isolated
  else s

/-- A classed record is dispatched by its kind and source (R146). -/
def State.dispatchClass (s : State) (r : FaultRecord) (c : FaultClass) : State :=
  match r.info.source, r.info.kind with
  | .guard, _ => s.guardClass r.guardAction c
  | _, .trip => s
  | _, .overdraw => s
  | _, _ => s.engineClass r.sequence c

end Sys2Proof.Machine
end

