-- ==== Sys2Proof/Machine/SampleOps.lean ====
section
/-! DEFINITION. The field path of the Check Unit (R70 to R77) and a SAMPLE's strobe (R55 to R60). -/

namespace Sys2Proof.Machine

/-! ### The field path -/

/-- The low `w` bits set. -/
def widthMask (w : Nat) : BitVec 32 := BitVec.ofNat 32 (2 ^ w - 1)

/-- Extract (R71): line `start + k` gives bit `k`. -/
def extractCode (f : FieldPart) (levels : Levels) : BitVec 32 :=
  (levels >>> f.startLine).setWidth 32 &&& widthMask f.width

/-- Decode of a Gray code whose bits above its width are 0: bit `k` is the exclusive-or of the Gray bits from `k`
up (R72). -/
def grayDecode (g : BitVec 32) : BitVec 32 := (List.range 32).foldl (fun acc k => acc ^^^ (g >>> k)) 0

/-- Extract and decode (R71, R72). -/
def fieldCode (f : FieldPart) (levels : Levels) : BitVec 32 :=
  match f.decode with
  | .binary => extractCode f levels
  | .gray => grayDecode (extractCode f levels)

/-- Interpret (R73). -/
def fieldValue (f : FieldPart) (b : BitVec 32) : Int :=
  match f.signedness with
  | .unsigned => b.toNat
  | .signed => if b.getLsbD (f.width - 1) then (b.toNat : Int) - 2 ^ f.width else b.toNat

/-- The folded difference of two codes of width `w` (R74 steps 1 and 2). -/
def foldedDiff (w : Nat) (b p : BitVec 32) : Int :=
  let d := ((b.toNat : Int) - p.toNat) % 2 ^ w
  if 2 ^ (w - 1) ≤ d then d - 2 ^ w else d

/-- The change limit rejects the code (R74). -/
def changeRejects (c : CheckContext) (b : BitVec 32) : Bool :=
  match c.vprev with
  | none => false
  | some p => decide (c.field.changeLimit ≠ 0 ∧ c.field.changeLimit.toNat < (foldedDiff c.field.width b p).natAbs)

/-- The comparison passes (R76, R77). -/
def comparePasses (c : CheckContext) (b : BitVec 32) : Bool :=
  match c.limits.mode with
  | .none_ => true
  | .equal =>
    let mask := c.limits.b &&& widthMask c.field.width
    decide (b &&& mask = c.limits.a &&& widthMask c.field.width &&& mask)
  | .range =>
    decide (limitValue c.field.signedness c.limits.a ≤ fieldValue c.field b ∧
            fieldValue c.field b ≤ limitValue c.field.signedness c.limits.b)

/-- The field path on captured levels: its result and the check context after it (R70, R74, R75). -/
def fieldPath (c : CheckContext) (levels : Levels) : FieldResult × CheckContext :=
  let b := fieldCode c.field levels
  if changeRejects c b then (.jump, c)
  else (if comparePasses c b then .pass else .mismatch, { c with vprev := some b })

/-- The start line of the FIELD part as a fault's field start (R79, R135). -/
def fieldStart (c : CheckContext) : Option (BitVec 6) := some (BitVec.ofNat 6 c.field.startLine)

/-- The MISMATCH fault of a code, with the context before the path (R79). -/
def mismatchFault (c : CheckContext) (b : BitVec 32) : FaultInfo :=
  { kind := .mismatch, source := .field, channel := fieldStart c, observed := some (int32 (fieldValue c.field b)),
    refA := some c.limits.a, refB := some c.limits.b }

/-- The JUMP fault of a rejected code, with the context before the path (R79). -/
def jumpFault (c : CheckContext) (b : BitVec 32) : FaultInfo :=
  { kind := .jump, source := .field, channel := fieldStart c, observed := some (int32 (fieldValue c.field b)),
    refA := c.vprev.map fun p => int32 (fieldValue c.field p), refB := some (c.field.changeLimit.setWidth 32) }

/-- The STROBE_TIMEOUT fault, with the wait that was in progress (R58, R135, R178). -/
def timeoutFault (c : CheckContext) (qualifierWait : Bool) : FaultInfo :=
  { kind := .strobeTimeout, source := .field, channel := fieldStart c, observed := none,
    refA := some (if qualifierWait then 1 else 0), refB := none }

/-! ### The strobe -/

/-- A SAMPLE starts in SETTLE (R55, R62). -/
def State.startSample (s : State) : State :=
  ({ s with probe := { s.probe with strobe := some { stage := .settle, start := s.clock, levels := 0 } } } : State).enterPhase .settle none

/-- A capture entry of the SAMPLE at F, made now: written, or waiting while the bench holds the port; none under
NOCAPTURE (R58, R60, R63). `completes` is the outcome the record takes on the write. -/
def State.storeCapture (s : State) (entry : Record) (completes : Option StepOutcome) : State :=
  if s.port.owner = .bench then s.wait (.capture entry completes) else s.writeCapture entry

/-- The entry of a strobe that ends now (R63). -/
def State.strobeEntry (s : State) (levels : Levels) (timedOut qualifiedTaken : Bool) (result : FieldResult) : Record :=
  captureEntry s.eng.fetchIndex s.clock levels timedOut qualifiedTaken result (mismatchMask s.probe levels)

/-- What follows the capture entry (R60 steps 2 to 4), for the record `r`. -/
def State.strobeJudged (s : State) (r : Record) (levels : Levels) (qualifiedTaken : Bool) (result : FieldResult)
    (fault : FaultInfo) : State :=
  let entry := s.strobeEntry levels false qualifiedTaken result
  let outcome := passOutcome (if checkFlag r then .pass else .done) s.eng.attempt
  match result with
  | .mismatch | .jump =>
    (if noCaptureFlag r then s else s.storeCapture entry none).stepFault fault
  | .none_ | .pass =>
    if noCaptureFlag r then s.complete outcome .advance
    else if s.port.owner = .bench then s.wait (.capture entry (some outcome))
    else (s.writeCapture entry).complete outcome .advance

/-- The strobe completes with its captured levels (R60). -/
def State.strobeComplete (s : State) (levels : Levels) (qualifiedTaken : Bool) : State :=
  match s.eng.copy with
  | none => s
  | some r =>
    let t : State := { s with eng := { s.eng with phase := .ready }, probe := { s.probe with strobe := none } }
    if checkFlag r then
      let b := fieldCode s.check.field levels
      let p := fieldPath s.check levels
      ({ t with check := p.2 } : State).strobeJudged r levels qualifiedTaken p.1
        (if p.1 = .jump then jumpFault s.check b else mismatchFault s.check b)
    else t.strobeJudged r levels qualifiedTaken .none_ (mismatchFault s.check 0)

/-- The hold-off wait ends (R56): the IMMEDIATE lanes are captured, and the strobe completes, or the qualifier
wait begins, which ends at once when no qualifier line is given (R57). -/
def State.holdOffEnded (s : State) (o : SampleOp) (start : Time) (testPoints : Levels) : State :=
  let sensed := sensedLevels s.probe testPoints
  if s.probe.source = 0 ∨ o.qualifier = none then s.strobeComplete sensed false
  else { s with probe := { s.probe with
    strobe := some { stage := .qualifier, start := start, levels := sensed &&& ~~~(qualifiedLines s.probe) } } }

/-- The hold-off line is inactive, or there is none (R54, R56). -/
def holdOffInactive (o : SampleOp) (sensed : Levels) : Bool :=
  match o.holdOff with
  | none => true
  | some l => !sensed.getLsbD l

/-- SETTLE ends (R55): the strobe timer starts, and the hold-off wait ends at once or goes on. -/
def State.settleEnded (s : State) (o : SampleOp) (testPoints : Levels) : State :=
  let t : State := { s with eng := { s.eng with phase := .strobe } }
  if holdOffInactive o (sensedLevels s.probe testPoints) then t.holdOffEnded o s.clock testPoints
  else { t with probe := { t.probe with strobe := some { stage := .holdOff, start := s.clock, levels := 0 } } }

/-- The qualifier line stands at the level the chosen edge leads to (R54, R57). -/
def edgeReached (o : SampleOp) (sensed : Levels) : Bool :=
  match o.qualifier with
  | none => false
  | some l => sensed.getLsbD l != o.fall

/-- The levels of a strobe whose QUALIFIED lanes are captured now, the IMMEDIATE lanes having been captured. -/
def State.qualifiedCapture (s : State) (b : Strobe) (testPoints : Levels) : Levels :=
  mergeLines (qualifiedLines s.probe) b.levels (sensedLevels s.probe testPoints)

/-- The levels a strobe timeout captures: lanes already captured keep theirs (R58 step 1). -/
def State.timeoutLevels (s : State) (b : Strobe) (testPoints : Levels) : Levels :=
  if b.stage = .qualifier then s.qualifiedCapture b testPoints else sensedLevels s.probe testPoints

/-- The strobe times out (R58). -/
def State.strobeTimedOut (s : State) (b : Strobe) (testPoints : Levels) : State :=
  match s.eng.copy with
  | none => s
  | some r =>
    let levels := s.timeoutLevels b testPoints
    let t : State := { s with probe := { s.probe with strobe := none } }
    (if noCaptureFlag r then t else t.storeCapture (s.strobeEntry levels true false .none_) none).stepFault
      (timeoutFault s.check (decide (b.stage = .qualifier)))

end Sys2Proof.Machine
end

