-- ==== Sys2Proof/Machine/StrobeEvents.lean ====
section
/-! DEFINITION. The events of a SAMPLE's strobe and of the engine's timers: SETTLE_END, HOLD_OFF_RELEASE,
QUALIFIER_EDGE, STROBE_TIMER_EXPIRY, WAIT_EXPIRY, RECOVER_EXPIRY. A command whose condition does not hold
names an event that does not take place (assumption log 4). -/

namespace Sys2Proof.Machine

/-- The SAMPLE in flight in a phase, with its strobe (R55, R56). -/
def State.strobeIn (s : State) (p : StepPhase) : Option (Record × Strobe) :=
  if s.eng.job = .running ∧ s.eng.phase = p then
    match s.eng.copy, s.probe.strobe with
    | some r, some b => some (r, b)
    | _, _ => none
  else none

/-- SETTLE_END (R55, R56). -/
def execSettleEnd (testPoints : Levels) (s : State) : Host.Outcome State Fault Refusal :=
  match s.strobeIn .settle with
  | none => .next s
  | some (r, b) =>
    if settleElapsed b.start s.clock (sampleOp r).settle then .next (s.settleEnded (sampleOp r) testPoints) else .next s

/-- HOLD_OFF_RELEASE (R56): the hold-off line is inactive among the levels given. -/
def execHoldOffRelease (testPoints : Levels) (s : State) : Host.Outcome State Fault Refusal :=
  match s.strobeIn .strobe with
  | none => .next s
  | some (r, b) =>
    if b.stage = .holdOff ∧ holdOffInactive (sampleOp r) (sensedLevels s.probe testPoints) then
      .next (s.holdOffEnded (sampleOp r) b.start testPoints)
    else .next s

/-- QUALIFIER_EDGE (R57): the qualifier line has just changed to the levels given; an edge of the other kind, or
one outside the qualifier wait, is passed over. -/
def execQualifierEdge (testPoints : Levels) (s : State) : Host.Outcome State Fault Refusal :=
  match s.strobeIn .strobe with
  | none => .next s
  | some (r, b) =>
    if b.stage = .qualifier ∧ edgeReached (sampleOp r) (sensedLevels s.probe testPoints) then
      .next (s.strobeComplete (s.qualifiedCapture b testPoints) true)
    else .next s

/-- STROBE_TIMER_EXPIRY (R58). -/
def execStrobeTimerExpiry (testPoints : Levels) (s : State) : Host.Outcome State Fault Refusal :=
  match s.strobeIn .strobe with
  | none => .next s
  | some (r, b) =>
    if ({ start := b.start, span := (sampleOp r).timeout } : Timer).due s.clock then
      .next (s.strobeTimedOut b testPoints)
    else .next s

/-- The engine is in a phase whose timer has run out. -/
def State.timerDue (s : State) (p : StepPhase) : Bool :=
  decide (s.eng.job = .running ∧ s.eng.phase = p) && s.eng.timer.any fun t => t.due s.clock

/-- WAIT_EXPIRY (R35). -/
def execWaitExpiry (s : State) : Host.Outcome State Fault Refusal :=
  if s.timerDue .timing then .next (s.complete .done .advance) else .next s

/-- A RAILCHECK starts in AVERAGE (R96). -/
def State.startAverage (s : State) (o : RailcheckOp) : State :=
  ({ s with rail := { s.rail with
      average := some { channel := o.channel, count := o.count, sum := 0, rounds := 0 } } } : State).enterPhase .average none

/-- RECOVER_EXPIRY (R44, R62): the attempt number rises and the copy is run again from its kind's first phase. -/
def execRecoverExpiry (s : State) : Host.Outcome State Fault Refusal :=
  if s.timerDue .recover then
    let t : State := { s with eng := { s.eng with attempt := s.eng.attempt + 1, timer := none } }
    match s.eng.copy with
    | none => .next s
    | some r =>
      if kindOf r = 3 then .next t.startSample
      else if kindOf r = 6 then .next (t.startAverage (railcheckOp r))
      else if kindOf r = 9 then
        match t.dispatchPower r with
        | some u => .next u
        | none => .fault .powerStateAtDispatch
      else .next s
  else .next s

end Sys2Proof.Machine
end

