-- ==== Sys2Proof/Machine/Steps.lean ====
section
/-! DEFINITION. The step records: each command dispatches the record the engine has fetched (R31). A command
whose kind is not that of a fetched record awaiting its dispatch names an event that does not take place
(assumption log 4). -/

namespace Sys2Proof.Machine

/-- The fetched record that awaits its dispatch (R29, R31): RUNNING at READY with a copy, and no engine access
waiting on the port. -/
def State.awaiting (s : State) : Option Record :=
  if s.eng.job = .running ∧ s.eng.phase = .ready ∧ s.port.waits = [] then s.eng.copy else none

/-- The fetched record awaiting dispatch, when it is of a kind. -/
def State.awaitingKind (s : State) (k : Nat) : Option Record := s.awaiting.filter fun r => decide (kindOf r = k)

/-- LANES (R52). -/
def Probe.setLanes (p : Probe) (o : LanesOp) : Probe :=
  let lane : BitVec 8 := 1#8 <<< o.lane.val
  { p with direction := mergeLines (spread lane) p.direction (o.direction.setWidth 64 <<< (8 * o.lane.val)),
           polarity := mergeLines (spread lane) p.polarity (o.polarity.setWidth 64 <<< (8 * o.lane.val)),
           source := if o.qualified then p.source ||| lane else p.source &&& ~~~lane }

/-- LANES (R52): one lane's directions, polarities and capture source, then DONE. -/
def execStepLanes (s : State) : Host.Outcome State Fault Refusal :=
  match s.awaitingKind 1 with
  | none => .next s
  | some r => .next (({ s with probe := s.probe.setLanes (lanesOp r) } : State).complete .done .advance)

/-- DRIVE (R53): the selected lanes' drive values, then DONE. -/
def execStepDrive (s : State) : Host.Outcome State Fault Refusal :=
  match s.awaitingKind 2 with
  | none => .next s
  | some r =>
    .next (({ s with probe := { s.probe with
      drive := mergeLines (spread (driveSelect r)) s.probe.drive (driveBytes r) } } : State).complete .done .advance)

/-- SAMPLE (R55): SETTLE. -/
def execStepSample (s : State) : Host.Outcome State Fault Refusal :=
  match s.awaitingKind 3 with
  | none => .next s
  | some _ => .next s.startSample

/-- FIELD (R68): the FIELD part replaced and Vprev discarded, or the record refused for its geometry. -/
def execStepField (s : State) : Host.Outcome State Fault Refusal :=
  match s.awaitingKind 4 with
  | none => .next s
  | some r =>
    if fieldRefused (fieldOp r) then .next s.refuseRecord
    else .next (({ s with check := { s.check with field := fieldOp r, vprev := none } } : State).complete .done .advance)

/-- LIMITS (R69): the LIMITS part replaced, or the record refused for its order. -/
def execStepLimits (s : State) : Host.Outcome State Fault Refusal :=
  match s.awaitingKind 5 with
  | none => .next s
  | some r =>
    if limitsRefused s.check.field.signedness (limitsOp r) then .next s.refuseRecord
    else .next (({ s with check := { s.check with limits := limitsOp r } } : State).complete .done .advance)

/-- RAILCHECK (R96): AVERAGE. -/
def execStepRailcheck (s : State) : Host.Outcome State Fault Refusal :=
  match s.awaitingKind 6 with
  | none => .next s
  | some r => .next (s.startAverage (railcheckOp r))

/-- The guard a GUARD record sets (R91). -/
def guardSet (o : GuardOp) (p : PowerState) : Guard :=
  { enabled := o.enabled, low := o.low, high := o.high, debounce := o.debounce, action := o.action, count := 0,
    state := if o.enabled then (if guardActive o.channel p then .armed else .inactive) else .disabled }

/-- GUARD (R91): one channel's guard, then DONE. -/
def execStepGuard (s : State) : Host.Outcome State Fault Refusal :=
  match s.awaitingKind 7 with
  | none => .next s
  | some r => .next ((s.setGuard (guardOp r).channel (guardSet (guardOp r) s.power.state)).complete .done .advance)

/-- SCALE on a channel (R86). -/
def Channel.rescale (c : Channel) (o : ScaleOp) : Channel :=
  { c with gain := o.gain, stepLimit := o.stepLimit, seed := true }

/-- The channel that a SCALE names, rescaled (R86). -/
def State.setScale (s : State) (o : ScaleOp) : State :=
  { s with rail := s.rail.setChannel o.channel ((s.rail.channels.get o.channel).rescale o) }

/-- SCALE (R86): one channel's gain and step limit, its seed pending, then DONE. -/
def execStepScale (s : State) : Host.Outcome State Fault Refusal :=
  match s.awaitingKind 8 with
  | none => .next s
  | some r =>
    .next ((s.setScale (scaleOp r)).complete .done .advance)

/-- POWER (R106). -/
def execStepPower (s : State) : Host.Outcome State Fault Refusal :=
  match s.awaitingKind 9 with
  | none => .next s
  | some r =>
    match s.dispatchPower r with
    | some t => .next t
    | none => .fault .powerStateAtDispatch

/-- WAIT (R35): at once for 0, else TIMING. -/
def execStepWait (s : State) : Host.Outcome State Fault Refusal :=
  match s.awaitingKind 10 with
  | none => .next s
  | some r =>
    if waitOp r = 0 then .next (s.complete .done .advance)
    else .next (s.enterPhase .timing (some { start := s.clock, span := waitOp r }))

/-- The body end of a REPEAT at F (R38). -/
def Engine.bodyEnd (e : Engine) (r : Record) : RingIndex := e.fetchIndex + repeatSpan r

/-- A REPEAT is refused for its structure (R37). -/
def Engine.repeatRefused (e : Engine) (r : Record) : Bool :=
  decide (repeatSpan r = 0) ||
  (match e.loops with
   | [] => false
   | l :: _ => decide ((l.bodyEnd - l.bodyStart).toNat < (e.bodyEnd r - l.bodyStart).toNat)) ||
  decide (repeatCount r ≠ 0 ∧ 4 ≤ e.loops.length)

/-- The body of the REPEAT at F is posted (R38). -/
def Engine.bodyPosted (e : Engine) (r : Record) : Bool :=
  decide ((e.bodyEnd r - e.fetchIndex).toNat < (e.postIndex - e.fetchIndex).toNat)

/-- The REPEAT at F proceeds (R39). -/
def State.runRepeat (s : State) (r : Record) : State :=
  s.complete .done
    (if repeatCount r = 0 then .skip (s.eng.bodyEnd r)
     else .enter { bodyStart := s.eng.fetchIndex + 1, bodyEnd := s.eng.bodyEnd r, remaining := repeatCount r })

/-- REPEAT (R37 to R39): refused, run, or STARVED with its copy kept and the pause latch cleared (R25). -/
def execStepRepeat (s : State) : Host.Outcome State Fault Refusal :=
  match s.awaitingKind 11 with
  | none => .next s
  | some r =>
    if s.eng.repeatRefused r then .next s.refuseRecord
    else if s.eng.bodyPosted r then .next (s.runRepeat r)
    else .next ({ s with eng := { s.eng with job := .starved, latch := false } } : State).releasePort

/-- MARK (R36): DONE. -/
def execStepMark (s : State) : Host.Outcome State Fault Refusal :=
  match s.awaitingKind 12 with
  | none => .next s
  | some _ => .next (s.complete .done .advance)

/-- STOP (R36): DONE, and the job is ENDED. -/
def execStepStop (s : State) : Host.Outcome State Fault Refusal :=
  match s.awaitingKind 13 with
  | none => .next s
  | some _ => .next (s.complete .done .stop)

/-- A kind code that is not one of the thirteen (R34, R179). -/
def unknownKind (r : Record) : Bool := decide (kindOf r = 0 ∨ 13 < kindOf r)

/-- UNKNOWN_STEP_KIND (R34): the record is refused. -/
def execUnknownStepKind (s : State) : Host.Outcome State Fault Refusal :=
  match s.awaiting.filter unknownKind with
  | none => .next s
  | some _ => .next s.refuseRecord

end Sys2Proof.Machine
end

