-- ==== Sys2Proof/Machine/Bench.lean ====
section
/-! DEFINITION. The bench requests: each command makes the checks of the request in service and carries it out
(R169, R170). A command whose request is not in service names an event that does not take place (assumption
log 4). -/

namespace Sys2Proof.Machine

/-! ### LOAD, POST, PEEK and the grant of the port -/

/-- An admitted LOAD or PEEK asks for the port, and its service waits for it (R169 step 3, R19). -/
def State.waitForPort (s : State) : State :=
  ({ s with bench := { s.bench with service := .waitingPort } } : State).askPort

/-- LOAD (R11, R12). -/
def execServeLoad (s : State) : Host.Outcome State Fault Refusal :=
  match s.kindInService .load with
  | none => .next s
  | some q =>
    match loadRefusal s.eng q.payload with
    | some c => .next (s.refuse q c)
    | none => .next s.waitForPort

/-- PEEK (R14). -/
def execServePeek (s : State) : Host.Outcome State Fault Refusal :=
  match s.kindInService .peek with
  | none => .next s
  | some q =>
    match peekRefusal q.payload with
    | some c => .next (s.refuse q c)
    | none => .next s.waitForPort

/-- The re-test of a STARVED job at an accepted POST (R30). -/
def State.retest (s : State) : State :=
  let t : State := { s with eng := { s.eng with job := .running } }
  if s.eng.job = .starved then
    match s.eng.copy with
    | none => if s.eng.fetchIndex = s.eng.postIndex then s else t.fetchTest
    | some r => if s.eng.bodyPosted r then t.runRepeat r else s
  else s

/-- A POST accepted (R10): a move of 0 changes nothing. -/
def State.postTo (s : State) (index : RingIndex) : State :=
  if index = s.eng.postIndex then s
  else ({ s with eng := { s.eng with postIndex := index } } : State).retest

/-- POST (R10, R30). -/
def execServePost (s : State) : Host.Outcome State Fault Refusal :=
  match s.kindInService .post with
  | none => .next s
  | some q =>
    match postRefusal s.eng q.payload with
    | some c => .next (s.refuse q c)
    | none => .next ((s.postTo (BitVec.ofNat 10 (leAt 2 q.payload 0))).reply q (acceptPayload .post []))

/-- The LOAD or PEEK whose access the port is granted for (R19). -/
def State.grantedAccess (s : State) : Option Request :=
  if s.bench.service = .waitingPort ∧ s.port.owner = .bench then s.bench.queue.head? else none

/-- BENCH_ACCESS_GRANT (R19, R172): the whole access, the reply, and the port's return with the engine accesses
that waited for it (R21). An address of 24576 or above does not exist (R3); R11 and R14 let none through. -/
def execBenchAccessGrant (s : State) : Host.Outcome State Fault Refusal :=
  match s.grantedAccess with
  | none => .next s
  | some q =>
    let a := leAt 2 q.payload 0
    match q.kind with
    | .load =>
      if Config.memoryBytes < a + (q.payload.drop 2).length then .fault .absentAddress
      else
        let t : State := { s with mem := Memory.writeBytes s.mem a (q.payload.drop 2) }
        .next (t.reply q (acceptPayload .load [])).returnPort
    | .peek =>
      let m := (byteAt q.payload 2).toNat
      if Config.memoryBytes < a + m then .fault .absentAddress
      else .next (s.reply q (peekPayload a (Memory.readBytes s.mem a m))).returnPort
    | .fail | .claim | .draw | .join | .setup | .post | .control | .query | .faultRead | .faultTrim | .reply
    | .report => .next s

/-! ### CONTROL -/

/-- START accepted (R24). -/
def State.start (s : State) : State :=
  ({ s with eng := { s.eng with job := .running, phase := .ready, attempt := 0, latch := false, haltReason := none,
                                haltIndex := none } } : State).fetchTest

/-- The verdict on START (R24, R173). -/
def State.startVerdict (s : State) (p : List Byte) : Except RefusalCode State :=
  if p.length ≠ 1 then .error .badLength
  else if s.line.isSet = false then .error .notSet
  else if s.eng.job = .idle then .ok s.start
  else .error .badState

/-- START (R24). -/
def execServeStart (s : State) : Host.Outcome State Fault Refusal :=
  match s.controlInService 1 with
  | none => .next s
  | some q => .next (s.controlReply q 1 (s.startVerdict q.payload))

/-- The verdict on PAUSE (R25). A job PAUSED from STARVED gives up a REPEAT copy that waited for its body. -/
def State.pauseVerdict (s : State) (p : List Byte) : Except RefusalCode State :=
  if p.length ≠ 1 then .error .badLength
  else
    match s.eng.job with
    | .running => .ok { s with eng := { s.eng with latch := true } }
    | .starved => .ok { s with eng := { s.eng with job := .paused, copy := none } }
    | .paused => .ok s
    | .idle | .halted | .ended => .error .badState

/-- PAUSE (R25). -/
def execServePause (s : State) : Host.Outcome State Fault Refusal :=
  match s.controlInService 2 with
  | none => .next s
  | some q => .next (s.controlReply q 2 (s.pauseVerdict q.payload))

/-- The verdict on RESUME (R26). -/
def State.resumeVerdict (s : State) (p : List Byte) : Except RefusalCode State :=
  if p.length ≠ 1 then .error .badLength
  else
    match s.eng.job with
    | .paused => .ok ({ s with eng := { s.eng with job := .running, phase := .ready } } : State).fetchTest
    | .running => if s.eng.latch then .ok { s with eng := { s.eng with latch := false } } else .error .badState
    | .starved | .idle | .halted | .ended => .error .badState

/-- RESUME (R26). -/
def execServeResume (s : State) : Host.Outcome State Fault Refusal :=
  match s.controlInService 3 with
  | none => .next s
  | some q => .next (s.controlReply q 3 (s.resumeVerdict q.payload))

/-- ABORT accepted (R27): the record, the Power Path, the job, in that order. -/
def State.abort (s : State) : State := s.abandon.isolateBoard.haltJob .aborted

/-- The verdict on ABORT (R27). -/
def State.abortVerdict (s : State) (p : List Byte) : Except RefusalCode State :=
  if p.length ≠ 1 then .error .badLength
  else if s.eng.job.active then .ok s.abort
  else .error .badState

/-- ABORT (R27). -/
def execServeAbort (s : State) : Host.Outcome State Fault Refusal :=
  match s.controlInService 4 with
  | none => .next s
  | some q => .next (s.controlReply q 4 (s.abortVerdict q.payload))

/-- CLEAR in the Step Engine (R18, R28). -/
def Engine.cleared (e : Engine) : Engine := { Engine.reset with fetchIndex := e.postIndex, postIndex := e.postIndex }

/-- CLEAR in the Probe Lanes (R50, R66): the capture buffer's indices are kept. -/
def Probe.cleared (p : Probe) : Probe := { p with direction := 0, polarity := 0, drive := 0, source := 0 }

/-- CLEAR on a fault record: the held guard action of a PROVISIONAL GUARD record becomes LOG (R150). -/
def FaultRecord.cleared (r : FaultRecord) : FaultRecord := { r with guardAction := r.guardAction.map fun _ => .log }

/-- CLEAR accepted (R28, R113). -/
def State.clear (s : State) : State :=
  let t := ({ s with
    eng := s.eng.cleared, check := CheckContext.reset, probe := s.probe.cleared, rail := s.rail.cleared,
    faults := { s.faults with queue := s.faults.queue.map FaultRecord.cleared } } : State).powerDown .off
  { t with power := { t.power with mainTrip := 32767, standbyTrip := 32767 } }

/-- The verdict on CLEAR (R28). -/
def State.clearVerdict (s : State) (p : List Byte) : Except RefusalCode State :=
  if p.length ≠ 1 then .error .badLength
  else if s.eng.job.active then .error .badState
  else .ok s.clear

/-- CLEAR (R28). -/
def execServeClear (s : State) : Host.Outcome State Fault Refusal :=
  match s.controlInService 5 with
  | none => .next s
  | some q => .next (s.controlReply q 5 (s.clearVerdict q.payload))

/-- The verdict on RING (R17, R170): form first, then the job state. -/
def State.ringVerdict (s : State) (p : List Byte) : Except RefusalCode State :=
  if p.length ≠ 3 then .error .badLength
  else if 1023 < leAt 2 p 1 then .error .range
  else if s.eng.job = .idle then
    .ok { s with eng := { s.eng with fetchIndex := BitVec.ofNat 10 (leAt 2 p 1), postIndex := BitVec.ofNat 10 (leAt 2 p 1) } }
  else .error .badState

/-- RING (R17). -/
def execServeRing (s : State) : Host.Outcome State Fault Refusal :=
  match s.controlInService 6 with
  | none => .next s
  | some q => .next (s.controlReply q 6 (s.ringVerdict q.payload))

/-- The CONTROL in service whose action code is not one of the six, or which carries none (R170). -/
def State.unknownControl (s : State) : Option Request :=
  s.bench.inService.filter fun q =>
    decide (q.kind = .control) && !(q.payload.head?.any fun b => decide (1 ≤ b.toNat ∧ b.toNat ≤ 6))

/-- CONTROL_UNKNOWN_ACTION (R170): RANGE at a length of 1 or 3, BAD_LENGTH at any other. A CONTROL without an
action byte names no action for its REFUSE to carry: that byte is a free value (assumption log 3). -/
def execServeUnknownAction (s : State) : Host.Outcome State Fault Refusal :=
  match s.unknownControl with
  | none => .next s
  | some q =>
    let code := if q.payload.length = 1 ∨ q.payload.length = 3 then RefusalCode.range else RefusalCode.badLength
    match q.payload with
    | [] =>
      .next (({ s with freeNext := s.freeNext + 1 } : State).controlReply q (Config.freeByte s.freeNext) (.error code))
    | b :: _ => .next (s.controlReply q b (.error code))

/-! ### QUERY -/

/-- The QUERY in service that asks for `what`, or the one that asks for nothing known (R170, R178). -/
def State.queryInService (s : State) (known : Option Byte) : Option Request :=
  s.bench.inService.filter fun q =>
    decide (q.kind = .query) &&
    match known with
    | some w => decide (q.payload.head? = some w)
    | none => decide (q.payload.head? ≠ some 1 ∧ q.payload.head? ≠ some 2)

/-- QUERY_STATUS (R174). -/
def execServeQueryStatus (s : State) : Host.Outcome State Fault Refusal :=
  match s.queryInService (some 1) with
  | none => .next s
  | some q =>
    if q.payload.length = 1 then .next (s.reply q (replyHead .query 3 ++ s.statusRecord)) else .next (s.refuse q .badLength)

/-- QUERY_READINGS (R175). -/
def execServeQueryReadings (s : State) : Host.Outcome State Fault Refusal :=
  match s.queryInService (some 2) with
  | none => .next s
  | some q =>
    if q.payload.length = 1 then .next (s.reply q (readingsPayload s.rail)) else .next (s.refuse q .badLength)

/-- QUERY_UNKNOWN (R170). -/
def execServeQueryUnknown (s : State) : Host.Outcome State Fault Refusal :=
  match s.queryInService none with
  | none => .next s
  | some q => if q.payload.length = 1 then .next (s.refuse q .range) else .next (s.refuse q .badLength)

/-! ### FAULT_READ and FAULT_TRIM -/

/-- The reply to a FAULT_READ of a position (R148, R176). -/
def Recorder.readReply (r : Recorder) (position : Byte) : List Byte :=
  match r.queue[position.toNat]? with
  | some f => faultRecordPayload position f
  | none => emptyPayload position

/-- FAULT_READ (R148). -/
def execServeFaultRead (s : State) : Host.Outcome State Fault Refusal :=
  match s.kindInService .faultRead with
  | none => .next s
  | some q =>
    if q.payload.length = 1 then .next (s.reply q (s.faults.readReply (byteAt q.payload 0)))
    else .next (s.refuse q .badLength)

/-- At most `n` records removed from the head, as long as the head is classified (R149). -/
def trimHead : Nat → List FaultRecord → List FaultRecord
  | 0, q => q
  | _ + 1, [] => []
  | n + 1, r :: q => if r.classified then trimHead n q else r :: q

/-- FAULT_TRIM (R149). -/
def execServeFaultTrim (s : State) : Host.Outcome State Fault Refusal :=
  match s.kindInService .faultTrim with
  | none => .next s
  | some q =>
    if q.payload.length = 1 then
      let t : State := { s with faults := { s.faults with queue := trimHead (byteAt q.payload 0).toNat s.faults.queue } }
      .next (t.reply q (acceptPayload .faultTrim []))
    else .next (s.refuse q .badLength)

end Sys2Proof.Machine
end

