-- ==== Sys2Proof/Machine/Clock.lean ====
section
/-! DEFINITION. RESET and STATION_TICK. -/

namespace Sys2Proof.Machine

/-- The state that a reset leaves, with the straps as read (R152, R184). The commands still waiting and the
count of free values are the model's own and are kept. -/
def State.afterReset (s : State) (slot : BitVec 5) (rate : BitVec 2) : State :=
  { State.reset with line := LinePort.reset slot (LineRate.ofStrap rate), freeNext := s.freeNext, pending := s.pending }

/-- RESET (R184): every block takes its reset values (R1, R22, R23, R50, R66, R67, R81, R83, R103, R104, R118,
R134, R150, R151, R166, R167), so both switches open and every probe line is SENSE. -/
def execReset (slot : BitVec 5) (rate : BitVec 2) (s : State) : Host.Outcome State Fault Refusal :=
  .next (s.afterReset slot rate)

/-- Pruning (R142): every notice more than 2W old is removed. -/
def Recorder.prune (r : Recorder) (w : Nat) (now : Time) : Recorder :=
  { r with notices := r.notices.filter fun n => decide ((now - n.arrival).toNat ≤ 2 * w) }

/-- STATION_TICK (R1, R142). -/
def execStationTick (s : State) : Host.Outcome State Fault Refusal :=
  .next { s with clock := s.clock + 1, faults := s.faults.prune s.line.params.coincidence (s.clock + 1) }

end Sys2Proof.Machine
end

