-- ==== Sys2Proof/Machine/LineEvents.lean ====
section
/-! DEFINITION. The Fault Recorder's judgement, the frames taken from the line, the Draw Unit's timers and the
sending of frames. A command whose condition does not hold names an event that does not take place
(assumption log 4). -/

namespace Sys2Proof.Machine

/-- COINCIDENCE_JUDGEMENT (R143 to R147): the oldest PROVISIONAL record, once its window end is reached. -/
def execCoincidenceJudgement (s : State) : Host.Outcome State Fault Refusal :=
  let p := s.line.params
  match judgeOldest p.quorum p.coincidence s.faults.notices s.faults.queue with
  | none => .next s
  | some (r, q) =>
    if reached s.clock (r.stamp + BitVec.ofNat 32 p.coincidence) then
      .next (({ s with faults := { s.faults with queue := q } } : State).dispatchClass r
        (classFor p.quorum (distinctPeers p.coincidence r.stamp s.faults.notices)))
    else .next s

/-- FAIL (R140, R141). -/
def execFrameFail (source dest : BitVec 5) (payload : List Byte) (s : State) : Host.Outcome State Fault Refusal :=
  .next (s.receiveFrame { source := source, dest := dest, kind := FrameKind.fail.code, payload := payload })

/-- CLAIM (R119, R120). -/
def execFrameClaim (source dest : BitVec 5) (payload : List Byte) (s : State) : Host.Outcome State Fault Refusal :=
  .next (s.receiveFrame { source := source, dest := dest, kind := FrameKind.claim.code, payload := payload })

/-- DRAW (R119, R121). -/
def execFrameDraw (source dest : BitVec 5) (payload : List Byte) (s : State) : Host.Outcome State Fault Refusal :=
  .next (s.receiveFrame { source := source, dest := dest, kind := FrameKind.draw.code, payload := payload })

/-- JOIN (R119, R122). -/
def execFrameJoin (source dest : BitVec 5) (payload : List Byte) (s : State) : Host.Outcome State Fault Refusal :=
  .next (s.receiveFrame { source := source, dest := dest, kind := FrameKind.join.code, payload := payload })

/-- SETUP (R164, R165). -/
def execFrameSetup (source dest : BitVec 5) (payload : List Byte) (s : State) : Host.Outcome State Fault Refusal :=
  .next (s.receiveFrame { source := source, dest := dest, kind := FrameKind.setup.code, payload := payload })

/-- BENCH_REQUEST_ARRIVAL (R168). -/
def execBenchRequestArrival (frame : Frame) (s : State) : Host.Outcome State Fault Refusal :=
  .next (s.receiveFrame frame)

/-- DUPLICATE_SLOT_FRAME (R163). -/
def execDuplicateSlotFrame (frame : Frame) (s : State) : Host.Outcome State Fault Refusal :=
  .next (s.receiveFrame frame)

/-- FRAME_PASSED_OVER (R159). -/
def execFramePassedOver (frame : Frame) (s : State) : Host.Outcome State Fault Refusal :=
  .next (s.receiveFrame frame)

/-- FRAME_RECEIVED_BAD (R158). The station that stopped driving a frame does not count its own cut frame (R156);
if that frame does complete with a correct check, it is taken as one this station did not send (R156, R163). -/
def execFrameReceivedBad (frame : Frame) (framing : Framing) (s : State) : Host.Outcome State Fault Refusal :=
  if rawBad { toFrame := frame, toFraming := framing } then .next (if s.line.cutOwn then s.frameEnded else s.frameEnded.countBad)
  else .next (s.receiveFrame frame)

/-! ### Timers of the Draw Unit -/

/-- PENDING_EXPIRY (R123): the asking total becomes the peer's held draw. -/
def execPendingExpiry (slot : Fin 30) (s : State) : Host.Outcome State Fault Refusal :=
  match (s.draw.table.get slot).pending with
  | none => .next s
  | some p =>
    if reached s.clock p.expiry then .next (s.setPeer slot { held := p.asking, pending := none }) else .next s

/-- A peer's share of the sum S (R127). -/
def PeerEntry.share (e : PeerEntry) : Nat :=
  match e.pending with
  | none => e.held.toNat
  | some p => if p.beforeMine then p.asking.toNat else e.held.toNat

/-- The sum S (R127), exact. -/
def DrawUnit.claimSum (d : DrawUnit) (asking : Draw) : Nat :=
  asking.toNat + (d.table.toList.map PeerEntry.share).sum

/-- CLAIM_JUDGEMENT (R127, R128). -/
def execClaimJudgement (s : State) : Host.Outcome State Fault Refusal :=
  match s.draw.windowTimer, s.draw.claim with
  | some t, some c =>
    if s.draw.claimState = .claiming ∧ reached s.clock t then
      if s.draw.claimSum c.asking ≤ s.line.params.budget then .next s.claimGranted else .next s.claimRefused
    else .next s
  | _, _ => .next s

/-- BACKOFF_EXPIRY (R129). -/
def execBackoffExpiry (s : State) : Host.Outcome State Fault Refusal :=
  match s.draw.backoffTimer with
  | none => .next s
  | some t =>
    if s.draw.claimState = .deferred ∧ reached s.clock t then
      .next ({ s with draw := { s.draw with claimState := .queued, backoffTimer := none } } : State).handClaim
    else .next s

/-! ### Sending -/

/-- FRAME_BEGIN (R154): the line is idle, so the last frame has ended, and the head of the queue becomes the frame
in transmission. -/
def execFrameBegin (s : State) : Host.Outcome State Fault Refusal :=
  match s.line.queue with
  | [] => .next s
  | f :: q =>
    if s.line.mute ∨ s.line.inTransmission.isSome then .next s
    else .next { s with line := { s.line with queue := { f with sending := true } :: q, cutOwn := false } }

/-- The frame in transmission changed in its place in the queue, or taken out of it. -/
def mapSending (g : TxFrame → Option TxFrame) : List TxFrame → List TxFrame
  | [] => []
  | f :: q => if f.sending then (g f).toList ++ q else f :: mapSending g q

/-- CONTENTION_LOST (R155): the frame leaves transmission and stays in the queue, its attempts as they were. -/
def execContentionLost (s : State) : Host.Outcome State Fault Refusal :=
  match s.line.inTransmission with
  | none => .next s
  | some _ =>
    .next { s with line := { s.line with queue := mapSending (fun f => some { f with sending := false }) s.line.queue } }

/-- BIT_ERROR (R156): the station stops driving the frame on the line, and the attempt count rises, or the frame is
dropped at its sixteenth error. -/
def execBitError (s : State) : Host.Outcome State Fault Refusal :=
  match s.line.inTransmission with
  | none => .next s
  | some f =>
    if f.attempts < 15 then
      .next { s with line := { s.line with
        queue := mapSending (fun f => some { f with sending := false, attempts := f.attempts + 1 }) s.line.queue,
        cutOwn := true } }
    else
      let t : State := { s with line := { s.line with
        queue := mapSending (fun _ => none) s.line.queue, notSent := satInc s.line.notSent, cutOwn := true } }
      .next (if f.kind = .claim then t.claimDropped else t)

/-- The frame in transmission completes its check (R157): it leaves the queue, and the station takes it. Of its own
frames only a CLAIM changes anything (R119, R125, R139, R165). -/
def State.frameCompleted (s : State) (f : TxFrame) : State :=
  let t : State := { s with line := { s.line with queue := mapSending (fun _ => none) s.line.queue } }
  if f.kind = .claim then t.claimHeard else t

/-- FRAME_SENT (R157). -/
def execFrameSent (s : State) : Host.Outcome State Fault Refusal :=
  match s.line.inTransmission with
  | none => .next s
  | some f => .next (s.frameCompleted f)

/-- OWN_CLAIM_TAKEN (R125, R157): the frame in transmission is a CLAIM and completes its check. It is the same
moment as FRAME_SENT of that frame (assumption log 7). -/
def execOwnClaimTaken (s : State) : Host.Outcome State Fault Refusal :=
  match s.line.inTransmission with
  | none => .next s
  | some f => if f.kind = .claim then .next (s.frameCompleted f) else .next s

end Sys2Proof.Machine
end

