-- ==== Sys2Proof/Machine/RailEvents.lean ====
section
/-! DEFINITION. The Rail Monitor's events and the Power Path's that follow them: UPDATE_ROUND, GUARD_FAULT,
GUARD_REARM, TRIP_DETECTION, OVERDRAW_DETECTION, ZERO_CAPTURE_END, RAMP_EXPIRY, RAILCHECK_AVERAGE_END. A
command whose condition does not hold names an event that does not take place, and changes nothing
(assumption log 4). -/

namespace Sys2Proof.Machine

/-- UPDATE_ROUND (R82 to R88, R92 to R96, R99, R100). -/
def execUpdateRound (codes : Vector (BitVec 12) 8) (s : State) : Host.Outcome State Fault Refusal :=
  .next { s with rail := s.rail.round codes s.power s.draw.held }

/-- A guard fault is due on a channel: its guard is ARMED with its count at the debounce (R93). -/
def Guard.faultDue (g : Guard) : Bool := decide (g.state = .armed ∧ g.debounce ≤ g.count)

/-- A re-arm is due on a channel: its guard is RESTING with its count at the debounce (R94). -/
def Guard.rearmDue (g : Guard) : Bool := decide (g.state = .resting ∧ g.debounce ≤ g.count)

/-- GUARD_FAULT (R93, R95): the guard rests and the fault goes to the Fault Recorder with the guard's action. -/
def execGuardFault (channel : Fin 8) (s : State) : Host.Outcome State Fault Refusal :=
  let c := s.rail.channels.get channel
  if c.guard.faultDue then
    .next ((s.setGuard channel { c.guard with state := .resting, count := 0 }).recordFault
      (windowFault .guard channel c.filtered c.guard.low c.guard.high) (some c.guard.action))
  else .next s

/-- GUARD_REARM (R94). -/
def execGuardRearm (channel : Fin 8) (s : State) : Host.Outcome State Fault Refusal :=
  let c := s.rail.channels.get channel
  if c.guard.rearmDue then .next (s.setGuard channel { c.guard with state := .armed, count := 0 }) else .next s

/-- TRIP_DETECTION (R99, R114): channel 1 first; a switch found open is not acted on (R101). -/
def execTripDetection (s : State) : Host.Outcome State Fault Refusal :=
  if s.power.main ∧ s.rail.tripMain = 2 then
    .next (s.takeTrip (tripFault 1 (s.rail.channels.get 1).scaled s.power.mainTrip))
  else if s.power.standby ∧ s.rail.tripStandby = 2 then
    .next (s.takeTrip (tripFault 3 (s.rail.channels.get 3).scaled s.power.standbyTrip))
  else .next s

/-- OVERDRAW_DETECTION (R100, R115): the count becomes 0; in a state other than STANDBY or ON the detection is
not acted on (R101). -/
def execOverdrawDetection (s : State) : Host.Outcome State Fault Refusal :=
  if s.rail.overdrawCount = 50 then
    let t : State := { s with rail := { s.rail with overdrawCount := 0 } }
    if s.power.state = .standby ∨ s.power.state = .on then .next t.takeOverdraw else .next t
  else .next s

/-- ZERO_CAPTURE_END (R89, R107): after the sixteenth round. -/
def execZeroCaptureEnd (s : State) : Host.Outcome State Fault Refusal :=
  match s.rail.zeroCapture with
  | none => .next s
  | some z =>
    if z.rounds = 16 then
      let t : State := { s with rail := { s.rail with zeroCapture := none } }
      if (z.onMain ∧ 200 < candidateZero z.sumMain) ∨ (z.onStandby ∧ 200 < candidateZero z.sumStandby) then
        let u := t.recordFault (backfeedFault z) none
        .next (if s.faults.hasRoom then u.captureFailed.enterJudging s.faults.nextSequence else u.captureFailed)
      else
        .next ({ t with rail := t.rail.setZeros z (candidateZero z.sumMain) (candidateZero z.sumStandby) } : State).captureDone
    else .next s

/-- RAMP_EXPIRY (R109). -/
def execRampExpiry (s : State) : Host.Outcome State Fault Refusal :=
  match s.power.rampTimer with
  | none => .next s
  | some t => if t.due s.clock then .next s.rampEnded else .next s

/-- RAILCHECK_AVERAGE_END (R96, R97): after the n-th round. -/
def execRailcheckAverageEnd (s : State) : Host.Outcome State Fault Refusal :=
  match s.rail.average, s.eng.copy with
  | some a, some r =>
    if a.rounds = a.count ∧ s.inFlight ∧ s.eng.phase = .average then
      let o := railcheckOp r
      let t : State := { s with rail := { s.rail with average := none } }
      if a.value < o.low ∨ o.high < a.value then
        .next (t.stepFault (windowFault .railcheck a.channel a.value o.low o.high))
      else .next (t.completePassed .pass)
    else .next s
  | _, _ => .next s

end Sys2Proof.Machine
end

