-- ==== Sys2Proof/Machine/Dispatch.lean ====
section
/-! DEFINITION. One arm per command: its meaning, on everything but the queue of pending commands. -/

namespace Sys2Proof.Machine

def exec (i : Instr) (s : State) : Host.Outcome State Fault Refusal :=
  match i with
  | .reset slot rate => Sys2Proof.Machine.execReset slot rate s
  | .stationTick => Sys2Proof.Machine.execStationTick s
  | .updateRound codes => Sys2Proof.Machine.execUpdateRound codes s
  | .guardFault channel => Sys2Proof.Machine.execGuardFault channel s
  | .guardRearm channel => Sys2Proof.Machine.execGuardRearm channel s
  | .tripDetection => Sys2Proof.Machine.execTripDetection s
  | .overdrawDetection => Sys2Proof.Machine.execOverdrawDetection s
  | .zeroCaptureEnd => Sys2Proof.Machine.execZeroCaptureEnd s
  | .rampExpiry => Sys2Proof.Machine.execRampExpiry s
  | .railcheckAverageEnd => Sys2Proof.Machine.execRailcheckAverageEnd s
  | .settleEnd testPoints => Sys2Proof.Machine.execSettleEnd testPoints s
  | .holdOffRelease testPoints => Sys2Proof.Machine.execHoldOffRelease testPoints s
  | .qualifierEdge testPoints => Sys2Proof.Machine.execQualifierEdge testPoints s
  | .strobeTimerExpiry testPoints => Sys2Proof.Machine.execStrobeTimerExpiry testPoints s
  | .waitExpiry => Sys2Proof.Machine.execWaitExpiry s
  | .recoverExpiry => Sys2Proof.Machine.execRecoverExpiry s
  | .stepLanes => Sys2Proof.Machine.execStepLanes s
  | .stepDrive => Sys2Proof.Machine.execStepDrive s
  | .stepSample => Sys2Proof.Machine.execStepSample s
  | .stepField => Sys2Proof.Machine.execStepField s
  | .stepLimits => Sys2Proof.Machine.execStepLimits s
  | .stepRailcheck => Sys2Proof.Machine.execStepRailcheck s
  | .stepGuard => Sys2Proof.Machine.execStepGuard s
  | .stepScale => Sys2Proof.Machine.execStepScale s
  | .stepPower => Sys2Proof.Machine.execStepPower s
  | .stepWait => Sys2Proof.Machine.execStepWait s
  | .stepRepeat => Sys2Proof.Machine.execStepRepeat s
  | .stepMark => Sys2Proof.Machine.execStepMark s
  | .stepStop => Sys2Proof.Machine.execStepStop s
  | .unknownStepKind => Sys2Proof.Machine.execUnknownStepKind s
  | .coincidenceJudgement => Sys2Proof.Machine.execCoincidenceJudgement s
  | .frameFail source dest payload => Sys2Proof.Machine.execFrameFail source dest payload s
  | .frameClaim source dest payload => Sys2Proof.Machine.execFrameClaim source dest payload s
  | .frameDraw source dest payload => Sys2Proof.Machine.execFrameDraw source dest payload s
  | .frameJoin source dest payload => Sys2Proof.Machine.execFrameJoin source dest payload s
  | .frameSetup source dest payload => Sys2Proof.Machine.execFrameSetup source dest payload s
  | .ownClaimTaken => Sys2Proof.Machine.execOwnClaimTaken s
  | .duplicateSlotFrame frame => Sys2Proof.Machine.execDuplicateSlotFrame frame s
  | .frameReceivedBad frame framing => Sys2Proof.Machine.execFrameReceivedBad frame framing s
  | .framePassedOver frame => Sys2Proof.Machine.execFramePassedOver frame s
  | .pendingExpiry slot => Sys2Proof.Machine.execPendingExpiry slot s
  | .claimJudgement => Sys2Proof.Machine.execClaimJudgement s
  | .backoffExpiry => Sys2Proof.Machine.execBackoffExpiry s
  | .frameBegin => Sys2Proof.Machine.execFrameBegin s
  | .contentionLost => Sys2Proof.Machine.execContentionLost s
  | .bitError => Sys2Proof.Machine.execBitError s
  | .frameSent => Sys2Proof.Machine.execFrameSent s
  | .benchRequestArrival frame => Sys2Proof.Machine.execBenchRequestArrival frame s
  | .serveLoad => Sys2Proof.Machine.execServeLoad s
  | .servePost => Sys2Proof.Machine.execServePost s
  | .servePeek => Sys2Proof.Machine.execServePeek s
  | .benchAccessGrant => Sys2Proof.Machine.execBenchAccessGrant s
  | .serveStart => Sys2Proof.Machine.execServeStart s
  | .servePause => Sys2Proof.Machine.execServePause s
  | .serveResume => Sys2Proof.Machine.execServeResume s
  | .serveAbort => Sys2Proof.Machine.execServeAbort s
  | .serveClear => Sys2Proof.Machine.execServeClear s
  | .serveRing => Sys2Proof.Machine.execServeRing s
  | .serveUnknownAction => Sys2Proof.Machine.execServeUnknownAction s
  | .serveQueryStatus => Sys2Proof.Machine.execServeQueryStatus s
  | .serveQueryReadings => Sys2Proof.Machine.execServeQueryReadings s
  | .serveQueryUnknown => Sys2Proof.Machine.execServeQueryUnknown s
  | .serveFaultRead => Sys2Proof.Machine.execServeFaultRead s
  | .serveFaultTrim => Sys2Proof.Machine.execServeFaultTrim s

end Sys2Proof.Machine
end

