-- ==== Sys2Proof/Safety.lean ====
section
/-! DEFINITION. What the claims speak of: the invariants of a sound state, and what a completed, a halted or a
refused record leaves behind, said over the state before and the state after. -/

namespace Sys2Proof.Machine

/-! ### Invariants -/

/-- R105: with a switch closed the station holds draw. The two other clauses are what carries it from step to
step: a move and an own claim never ask for a draw of 0 (R104, R106, R118). -/
def State.SwitchesHeld (s : State) : Prop :=
  (s.power.standby = true ∨ s.power.main = true → s.draw.held ≠ 0) ∧
  (∀ m, s.power.move = some m → m.asked ≠ 0) ∧
  (∀ c, s.draw.claim = some c → c.asking ≠ 0)

/-- R134, R136: at most 32 fault records, every PROVISIONAL one newer than every classified one, each with a
sequence of 1 to 65535, as is the next sequence. -/
def State.FaultQueueOrdered (s : State) : Prop :=
  s.faults.queue.length ≤ 32 ∧
  s.faults.queue.Pairwise (fun older newer => older.cls = .provisional → newer.cls = .provisional) ∧
  (∀ f ∈ s.faults.queue, f.sequence ≠ 0) ∧ s.faults.nextSequence ≠ 0

/-- R134, R151, R160, R167: the bounds of the queues and of the notice list, the class order of the transmit
queue, and at most one frame in transmission. -/
def State.QueuesBounded (s : State) : Prop :=
  s.line.queue.length ≤ 8 ∧ s.line.queue.Pairwise (fun ahead behind => ahead.kind.cls ≤ behind.kind.cls) ∧
  s.line.queue.countP (fun f => f.sending) ≤ 1 ∧ s.bench.queue.length ≤ 4 ∧ s.faults.notices.length ≤ 64

/-- R67, R68: the FIELD part can be read from the 64 lines, and Vprev is a code of its width. -/
def State.ContextReadable (s : State) : Prop :=
  1 ≤ s.check.field.width ∧ s.check.field.width ≤ 32 ∧ s.check.field.startLine + s.check.field.width ≤ 64 ∧
  ∀ p, s.check.vprev = some p → p.toNat < 2 ^ s.check.field.width

/-- R83: the ranges of one rail channel. -/
def Channel.InRange (c : Channel) : Prop :=
  c.gain ≠ 0 ∧ c.stepLimit ≤ 32767 ∧ -32768 ≤ c.scaled ∧ c.scaled ≤ 32767 ∧ -32768 ≤ c.filtered ∧ c.filtered ≤ 32767 ∧
  1 ≤ c.guard.debounce ∧ c.guard.debounce ≤ 15 ∧ c.guard.count ≤ c.guard.debounce

/-- R83, R104: the ranges of the Rail Monitor and of the trip limits. -/
def State.RailsInRange (s : State) : Prop :=
  (∀ i : Fin 8, (s.rail.channels.get i).InRange) ∧ s.rail.tripMain ≤ 2 ∧ s.rail.tripStandby ≤ 2 ∧
  s.rail.overdrawCount ≤ 50 ∧ 1 ≤ s.power.mainTrip ∧ s.power.mainTrip ≤ 32767 ∧ 1 ≤ s.power.standbyTrip ∧
  s.power.standbyTrip ≤ 32767

/-- R19, R167, R169: a request is in service exactly when the request queue is not empty, and a bench access is
asked for or being made exactly when that request waits for the port. -/
def State.ServiceConsistent (s : State) : Prop :=
  (s.bench.service = .idle ↔ s.bench.queue = []) ∧ (s.bench.service = .waitingPort ↔ s.port.owner ≠ .engine)

/-- R23: the halt reason and halt index are present in HALTED, the index alone in ENDED, neither elsewhere. -/
def State.HaltFieldsRight (s : State) : Prop :=
  match s.eng.job with
  | .halted => s.eng.haltReason.isSome = true ∧ s.eng.haltIndex.isSome = true
  | .ended => s.eng.haltReason = none ∧ s.eng.haltIndex.isSome = true
  | .idle | .running | .starved | .paused => s.eng.haltReason = none ∧ s.eng.haltIndex = none

/-- R7: how far a ring index lies past K. -/
def Engine.past (e : Engine) (x : RingIndex) : Nat := (x - e.retain).toNat

/-- R37, R38: a body end after F, posted, and inside every body on the stack. -/
def Engine.bodyAhead (e : Engine) (last : RingIndex) : Prop :=
  1 ≤ (last - e.fetchIndex).toNat ∧ (last - e.fetchIndex).toNat < (e.postIndex - e.fetchIndex).toNat ∧
  ∀ l ∈ e.loops, e.past last ≤ e.past l.bodyEnd

/-- R39: what a completed REPEAT that still waits for the port will push or skip. -/
def AfterStep.InRing (e : Engine) : AfterStep → Prop
  | .enter l => l.bodyStart = e.fetchIndex + 1 ∧ l.remaining ≠ 0 ∧ e.loops.length < 4 ∧ e.bodyAhead l.bodyEnd
  | .skip last => e.bodyAhead last
  | .advance | .stop | .halt _ | .isolate => True

/-- An access at the port's return that moves F or fetches a record. -/
def EngineAccess.goesOn : EngineAccess → Bool
  | .capture _ (some _) | .outcome _ _ _ (some _) | .fetch => true
  | .capture _ none | .outcome _ _ _ none => false

/-- R7, R8, R37: F lies in the live region or at its end, and inside every active loop until a STOP has ended the job; at
most four loops, each posted whole and inside the one beneath it. The last clauses carry it from step to step: a record
held is one before P, a STARVED job's is a REPEAT of sound structure, and what waits for the port goes on from F once. -/
def State.RingInOrder (s : State) : Prop :=
  let e := s.eng
  e.past e.fetchIndex ≤ e.liveCount ∧ e.loops.length ≤ 4 ∧
  e.loops.Pairwise (fun inner outer =>
    e.past outer.bodyStart ≤ e.past inner.bodyStart ∧ e.past inner.bodyEnd ≤ e.past outer.bodyEnd) ∧
  (∀ l ∈ e.loops, e.past l.bodyStart ≤ e.past l.bodyEnd ∧ e.past l.bodyEnd < e.liveCount ∧ l.remaining ≠ 0 ∧
    (e.job ≠ .ended → e.past l.bodyStart ≤ e.past e.fetchIndex ∧ e.past e.fetchIndex ≤ e.past l.bodyEnd)) ∧
  (e.job = .idle → e.loops = []) ∧
  (e.copy ≠ none → e.fetchIndex ≠ e.postIndex ∧ (e.job = .running ∨ e.job = .starved)) ∧
  (∀ r, e.job = .starved → e.copy = some r → e.repeatRefused r = false) ∧
  (s.port.waits ≠ [] → s.port.owner = .bench) ∧ s.port.waits.countP EngineAccess.goesOn ≤ 1 ∧
  (.fetch ∈ s.port.waits → e.fetchIndex ≠ e.postIndex ∧ e.copy = none) ∧
  (∀ index code count c, .outcome index code count (some c) ∈ s.port.waits →
    e.copy = none ∧ (e.job = .running → c.after.InRing e))

/-- The switches, the move and its stage that a power state stands with (R104, the table of power states). -/
def Power.InOrder (p : Power) : Prop :=
  match p.state with
  | .off | .tripped => p.standby = false ∧ p.main = false ∧ p.move = none
  | .zeroing => p.main = false ∧ ∃ m, p.move = some m ∧ m.stage = .zeroing ∧ p.standby = decide (m.start = .standby)
  | .claiming => p.main = false ∧ ∃ m, p.move = some m ∧ m.stage = .claiming ∧ p.standby = decide (m.start = .standby)
  | .ramping => p.standby = true ∧ ∃ m, p.move = some m ∧ m.stage = .ramping ∧ p.main = decide (m.target = .on)
  | .standby => p.standby = true ∧ p.main = false ∧ ∀ m, p.move = some m → m.stage = .setClaim
  | .on => p.standby = true ∧ p.main = true ∧ ∀ m, p.move = some m → m.stage = .setClaim

/-- R118: the own claim, its state, its frame with the port and its timers. -/
def DrawUnit.InOrder (d : DrawUnit) : Prop :=
  (d.claimState = .none_ ↔ d.claim = none) ∧
  (d.claimState = .queued → d.mark ≠ .none_) ∧ (d.claimState = .claiming ∨ d.claimState = .deferred → d.mark = .none_) ∧
  (d.claimState = .none_ → d.mark ≠ .current) ∧
  (d.windowTimer ≠ none ↔ d.claimState = .claiming) ∧ (d.backoffTimer ≠ none ↔ d.claimState = .deferred)

/-- R104, R118: power state, switches and move as the table has them; a zero capture, a ramp timer and an own claim
exactly in the stages that have one; the declared draw in force equal to the held draw outside RAMPING; the move's POWER
record in flight in AWAIT_POWER. The last clauses carry it: what waits for the port goes on at READY, and a job that is
not RUNNING stands at READY (R31). -/
def State.PowerInOrder (s : State) : Prop :=
  s.power.InOrder ∧ s.draw.InOrder ∧
  (∀ m, s.power.move = some m →
    s.eng.job = .running ∧ s.eng.phase = .awaitPower ∧ s.eng.copy ≠ none ∧ (m.target = .standby ∨ m.target = .on) ∧
    (m.stage = .setClaim ∨ m.start = .off ∨ m.start = .standby) ∧
    (m.stage = .claiming ∨ m.stage = .setClaim → s.draw.claimState ≠ .none_) ∧
    (∀ c, s.draw.claim = some c → c.asking = m.asked) ∧
    (m.stage = .ramping → m.asked.toNat ≤ s.draw.held.toNat)) ∧
  (s.draw.claimState ≠ .none_ → ∃ m, s.power.move = some m ∧ (m.stage = .claiming ∨ m.stage = .setClaim)) ∧
  (s.power.state ≠ .ramping → s.power.declared = s.draw.held) ∧
  (s.rail.zeroCapture ≠ none ↔ s.power.state = .zeroing) ∧ (s.power.rampTimer ≠ none ↔ s.power.state = .ramping) ∧
  (∀ w ∈ s.port.waits, w.goesOn = true → s.eng.phase = .ready) ∧ (s.eng.job ≠ .running → s.eng.phase = .ready)

/-- R118: the draw table entry of the station's own slot is not used. -/
def State.OwnEntryUnused (s : State) : Prop :=
  ∀ x : Fin 30, x.val = s.line.slot.toNat → s.draw.table.get x = { held := 0, pending := none }

/-! ### What an event leaves behind -/

/-- Byte `a` of memory after an outcome is written back into the record at `index`, when REPORT is set (R15). -/
def outcomeByte (m : Memory) (index : RingIndex) (r : Record) (o : StepOutcome) (a : Nat) : Byte :=
  if reportFlag r ∧ a = 16 * index.toNat + 14 then o.code
  else if reportFlag r ∧ a = 16 * index.toNat + 15 then failCountAfter o (failCountOf r)
  else Memory.read m a

/-- The owner of the port once the engine has reached a release point (R19). -/
def ownerReleased (s : State) : PortOwner := if s.port.owner = .asked then .bench else s.port.owner

/-- The line after a completion: PROGRESS when NOTIFY is set (R49). -/
def lineAfterCompletion (s : State) (r : Record) (o : StepOutcome) : LinePort :=
  if notifyFlag r then
    (s.line.offer (newFrame .report 30 (progressPayload s.eng.fetchIndex o s.eng.innermostRemaining s.clock))).1
  else s.line

/-- R33: from `s` the record `r` in flight at F has completed with outcome `o`, the job going on, with F and the loop
stack moved to `loops` and `index`: its outcome and PROGRESS are out, the attempt number is 0, and the job is PAUSED by
the latch, STARVED at the end of the posted records, or RUNNING with the next record fetched, or its fetch waiting for
the port. -/
def GoesOn (s t : State) (r : Record) (o : StepOutcome) (loops : List LoopEntry) (index : RingIndex) : Prop :=
  let paused := s.eng.latch
  let starved := paused = false ∧ index = s.eng.postIndex
  let fetches := paused = false ∧ index ≠ s.eng.postIndex
  (∀ a, Memory.read t.mem a = outcomeByte s.mem s.eng.fetchIndex r o a) ∧
  t.line = lineAfterCompletion s r o ∧
  t.port.owner = ownerReleased s ∧
  t.port.waits = (if fetches ∧ ownerReleased s = .bench then s.port.waits ++ [.fetch] else s.port.waits) ∧
  t.eng = { s.eng with
    job := if paused then .paused else if starved then .starved else .running,
    phase := .ready, judged := none, timer := none, attempt := 0, latch := false, loops := loops, fetchIndex := index,
    copy := if fetches ∧ ownerReleased s ≠ .bench then some (Memory.record t.mem (16 * index.toNat)) else none }

/-- The line after the END report of an entry into HALTED or ENDED with the engine as in `e` (R48). -/
def lineAfterEnd (l : LinePort) (e : Engine) (faults : Nat) : LinePort :=
  (l.offer (newFrame .report 30 (endPayload e.job e.haltReason (e.haltIndex.getD 0) faults))).1

/-- The engine after a halt (R46 steps 2 to 4). -/
def haltedEngine (e : Engine) (reason : HaltReason) : Engine :=
  { e with job := .halted, phase := .ready, copy := none, judged := none, attempt := 0, latch := false, timer := none,
           haltReason := some reason, haltIndex := some e.fetchIndex }

/-- R46: from `s` the job has halted with `reason`, the line having stood at `line` when the END report was queued. -/
def HaltsFrom (s t : State) (line : LinePort) (reason : HaltReason) : Prop :=
  t.eng = haltedEngine s.eng reason ∧ t.line = lineAfterEnd line t.eng t.faults.queue.length ∧
  t.port.owner = ownerReleased s

/-- R34: from `s` the record `r` in flight has been refused. -/
def RefusesRecord (s t : State) (r : Record) : Prop :=
  HaltsFrom s t s.line .illegalStep ∧
  (∀ a, Memory.read t.mem a = outcomeByte s.mem s.eng.fetchIndex r .illegal a) ∧
  t = { s with eng := t.eng, line := t.line, port := { s.port with owner := t.port.owner }, mem := t.mem }

/-- A transmit queue with room and a station that may send: a frame handed over joins and none is lost (R160). -/
def LinePort.accepts (l : LinePort) : Prop := l.mute = false ∧ l.queue.length < 8

/-! ### What the statements assume and conclude, over and over -/

/-- R29, R31: the record `r` has been fetched and awaits its dispatch. -/
def State.AwaitsDispatch (s : State) (r : Record) : Prop :=
  s.eng.job = .running ∧ s.eng.phase = .ready ∧ s.port.waits = [] ∧ s.eng.copy = some r

/-- R31: the record `r` is in flight in a step phase. -/
def State.InPhase (s : State) (p : StepPhase) (r : Record) : Prop :=
  s.eng.job = .running ∧ s.eng.phase = p ∧ s.eng.copy = some r

/-- R15, R21: a write-back of `r`, if it asks for one, does not find the bench holding the port. -/
def State.PortFreeFor (s : State) (r : Record) : Prop := reportFlag r = true → s.port.owner ≠ .bench

/-- R21, R32: the state in which the record `r` has completed with outcome `o` while the bench holds the port. Its
write-back joins the accesses that wait, with `after` to follow it, and nothing has moved. (That the copy is discarded
already: assumption log 8.) -/
def writeBackWaiting (s : State) (r : Record) (o : StepOutcome) (after : AfterStep) : State :=
  { s with
    eng := { s.eng with copy := none, phase := .ready, judged := none, timer := none },
    port := { s.port with waits := s.port.waits ++ [.outcome s.eng.fetchIndex o (failCountAfter o (failCountOf r))
      (some { record := r, outcome := o, stamp := s.clock, after := after })] } }

/-- R32, R33: from `s` the record `r` has completed with outcome `o`, F and the loop stack having moved by the loop end
of R40, and nothing else has changed. -/
def Completes (s t : State) (r : Record) (o : StepOutcome) : Prop :=
  GoesOn s t r o (loopEnd s.eng.loops s.eng.fetchIndex).1 (loopEnd s.eng.loops s.eng.fetchIndex).2 ∧
  t = { s with eng := t.eng, port := t.port, line := t.line, mem := t.mem }

/-- R21, R32, R33: the answer of a command that leaves `u` but for the record `r`, which completes with outcome `o`, the job
going on: at once where its write-back finds the port free, with the write-back waiting where the bench holds the port. -/
def EndsRecord (answer : Host.Outcome State Fault Refusal) (u : State) (r : Record) (o : StepOutcome) : Prop :=
  (Memory.wf u.mem → u.PortFreeFor r → ∃ t, answer = .next t ∧ Completes u t r o) ∧
  (reportFlag r = true → u.port.owner = .bench → answer = .next (writeBackWaiting u r o .advance))

/-- R42, R43: from `s` the record `r` has completed with outcome `o` and the job has halted with `reason`; PROGRESS goes
out before END, and nothing else has changed. -/
def HaltsCompleted (s t : State) (r : Record) (o : StepOutcome) (reason : HaltReason) : Prop :=
  HaltsFrom s t (lineAfterCompletion s r o) reason ∧
  (∀ a, Memory.read t.mem a = outcomeByte s.mem s.eng.fetchIndex r o a) ∧
  t = { s with eng := t.eng, line := t.line, port := { s.port with owner := t.port.owner }, mem := t.mem }

/-- R32: DONE or PASS at attempt 0, RETRIED_PASS at attempt 1 or above. -/
def outcomeAt (attempt : BitVec 3) (first : StepOutcome) : StepOutcome := if attempt = 0 then first else .retriedPass

/-- R136: the sequence after one; 65535 is followed by 1. -/
def sequenceAfter (q : BitVec 16) : BitVec 16 := if q = 65535 then 1 else q + 1

/-- R135, R136: the record of a fault that reaches the Fault Recorder now. -/
def freshRecord (s : State) (i : FaultInfo) (action : Option GuardAction) : FaultRecord :=
  { sequence := s.faults.nextSequence, stamp := s.clock, info := i,
    stepIndex := if s.eng.job = .running ∧ s.eng.copy.isSome = true then some s.eng.fetchIndex else none,
    attempt := if s.eng.job = .running ∧ s.eng.copy.isSome = true then s.eng.attempt else 0,
    cls := .provisional, peerCount := 0, guardAction := action }

/-- R136, R139: the fault appended, its sequence used, its notice in the transmit queue. -/
def withFault (s : State) (i : FaultInfo) (action : Option GuardAction) : State :=
  { s with faults := { s.faults with queue := s.faults.queue ++ [freshRecord s i action],
                                     nextSequence := sequenceAfter s.faults.nextSequence },
           line := { s.line with queue := joinQueue (newFrame .fail 31 (failPayload i s.faults.nextSequence)) s.line.queue } }

/-- R41: the fault recorded, and the engine in JUDGING on its sequence. -/
def judgingOn (s : State) (i : FaultInfo) : State :=
  { withFault s i none with
    eng := { s.eng with phase := .judging, judged := some s.faults.nextSequence, timer := none },
    port := { s.port with owner := ownerReleased s } }

/-- Room in the fault queue and a line that takes the notice: the plain case of R136 and R160. -/
def State.RecordsPlainly (s : State) : Prop := s.faults.queue.length < 32 ∧ s.line.accepts

/-- R131: the state after a release to a lower total, and the state as it is at an equal or higher one. -/
def releasedTo (s : State) (total : Draw) : State :=
  if total.toNat < s.draw.held.toNat then
    { s with draw := { s.draw with held := total },
             line := (s.line.offer (newFrame .draw 31 (drawPayload total))).1 }
  else s

/-- R59, R60, R63, R64: from `s` the strobe of the SAMPLE `r` has ended with `levels`, its field result standing in
`check`; the entry is stored unless NOCAPTURE is set. -/
def strobeStored (s : State) (r : Record) (m : Memory) (check : CheckContext) (phase : StepPhase) : State :=
  { s with
    mem := m, check := check, eng := { s.eng with phase := phase },
    probe := { s.probe with
      strobe := none,
      nextIndex := if noCaptureFlag r then s.probe.nextIndex else s.probe.nextIndex + 1,
      validCount := if noCaptureFlag r then s.probe.validCount else min (s.probe.validCount + 1) 512 } }

/-- R64: memory `m` is that of `s` with the entry in the 16 bytes at the capture buffer's next index, or as it is under
NOCAPTURE. -/
def EntryStored (s : State) (r : Record) (entry : Record) (m : Memory) : Prop :=
  let base := Config.captureBase + 16 * s.probe.nextIndex.toNat
  ∀ a, Memory.read m a =
    if noCaptureFlag r = false ∧ base ≤ a ∧ a < base + 16 then byteOf entry (a - base) else Memory.read s.mem a

/-- R78, R79: the MISMATCH fault of the field value that `levels` carry. -/
def mismatchOf (s : State) (levels : Levels) : FaultInfo :=
  { kind := .mismatch, source := .field, channel := some (BitVec.ofNat 6 s.check.field.startLine),
    observed := some (BitVec.ofInt 32 (fieldValue s.check.field (fieldCode s.check.field levels))),
    refA := some s.check.limits.a, refB := some s.check.limits.b }

/-- R74, R79: the JUMP fault of the field value that `levels` carry. -/
def jumpOf (s : State) (levels : Levels) : FaultInfo :=
  { kind := .jump, source := .field, channel := some (BitVec.ofNat 6 s.check.field.startLine),
    observed := some (BitVec.ofInt 32 (fieldValue s.check.field (fieldCode s.check.field levels))),
    refA := s.check.vprev.map (fun p => BitVec.ofInt 32 (fieldValue s.check.field p)),
    refB := some (s.check.field.changeLimit.setWidth 32) }

/-- R144: the distinct slots with a notice within W of a stamp. -/
def peersWithin (s : State) (stamp : Time) : Nat :=
  ((List.finRange 30).filter fun x => s.faults.notices.any fun n =>
    decide (n.slot = x ∧ (n.arrival - stamp).toInt.natAbs ≤ s.line.params.coincidence)).length

/-- R144: a record as judged with `n` peers counted. -/
def judgedRecord (s : State) (r : FaultRecord) : FaultRecord :=
  { r with cls := if s.line.params.quorum ≤ peersWithin s r.stamp then .rack else .board,
           peerCount := min (peersWithin s r.stamp) 29, guardAction := none }

/-- R143: `r` is the oldest PROVISIONAL record of the queue, its window end is reached, and `q` is the queue with it
judged. -/
def State.JudgedNow (s : State) (r : FaultRecord) (q : List FaultRecord) : Prop :=
  r.cls = .provisional ∧ reached s.clock (r.stamp + BitVec.ofNat 32 s.line.params.coincidence) = true ∧
  ∃ before after, s.faults.queue = before ++ r :: after ∧ (∀ f ∈ before, f.cls ≠ .provisional) ∧
    q = before ++ judgedRecord s r :: after

/-- R169: the request `q` is in service with its checks to be made, `rest` waiting behind it. -/
def State.Serves (s : State) (q : Request) (rest : List Request) : Prop :=
  s.bench.service = .checking ∧ s.bench.queue = q :: rest

/-- R169, R171: from `u`, the request answered, unless it is marked to all, and the next one in service. -/
def answered (u : State) (q : Request) (rest : List Request) (payload : List Byte) : State :=
  { u with line := if q.toAll then u.line else (u.line.offer (newFrame .reply 30 payload)).1,
           bench := { u.bench with queue := rest, service := if rest = [] then .idle else .checking } }

/-! ### What the blocks do together, said over the state before and the state after -/

/-- A DRAW carrying `held` handed to the line (R153, R160). -/
def drawSent (l : LinePort) (held : Draw) : LinePort := (l.offer (newFrame .draw 31 (drawPayload held))).1

/-- R130: an own claim abandoned. A CLAIM that stands with the port belongs to no claim any more. -/
def abandoned (d : DrawUnit) : DrawUnit :=
  { d with claim := none, claimState := .none_, windowTimer := none, backoffTimer := none,
           mark := if d.claimState = .queued ∧ d.mark = .current then .stale else d.mark }

/-- R114 steps 1 to 3, and `target` as the power state: the switches, the move with its capture, claim and ramp timer,
the held draw, and the DRAW frames of the abandonment and of the release, in that order. -/
def poweredDown (s : State) (target : PowerState) : State :=
  let ends := s.power.move.isSome && decide (s.draw.claimState ≠ .none_)
  let line := if ends then drawSent s.line s.draw.held else s.line
  { s with
    power := { s.power with state := target, standby := false, main := false, declared := 0, move := none,
                            rampTimer := if s.power.move = none then s.power.rampTimer else none },
    rail := { s.rail with zeroCapture := if s.power.move = none then s.rail.zeroCapture else none },
    draw := { (if ends then abandoned s.draw else s.draw) with held := 0 },
    line := if s.draw.held = 0 then line else drawSent line 0 }

/-- R46, R47: from `s` the block's halt has reached the job. An active job is HALTED with `reason` and its END report is
queued; a record in flight is abandoned, its strobe or average dropped, and ABORTED written back under REPORT, at the port's
return when the bench holds it (the halt does not wait for that: assumption log 27). A job that is not active stays. -/
def HaltsAbandoning (s t : State) (reason : HaltReason) : Prop :=
  (s.eng.job.active = false → t = s) ∧
  (s.eng.job.active = true →
    (s.eng.job ≠ .running ∨ s.eng.copy = none → t = { s with
      eng := haltedEngine s.eng reason, port := { s.port with owner := ownerReleased s },
      line := lineAfterEnd s.line (haltedEngine s.eng reason) s.faults.queue.length }) ∧
    (∀ r, s.eng.job = .running → s.eng.copy = some r →
      t = { s with
        eng := haltedEngine s.eng reason, mem := t.mem,
        port := { owner := ownerReleased s,
                  waits := if reportFlag r = true ∧ s.port.owner = .bench
                    then s.port.waits ++ [.outcome s.eng.fetchIndex .aborted (failCountOf r) none] else s.port.waits },
        line := lineAfterEnd s.line (haltedEngine s.eng reason) s.faults.queue.length,
        probe := { s.probe with strobe := none }, rail := { s.rail with average := none } } ∧
      (Memory.wf s.mem → ∀ a, Memory.read t.mem a =
        if s.port.owner = .bench then Memory.read s.mem a else outcomeByte s.mem s.eng.fetchIndex r .aborted a)))

/-! ### The own claim -/

/-- R108: the draw wait limit of the move has passed. -/
def State.limitPassed (s : State) : Prop :=
  ∃ m t0, s.power.move = some m ∧ m.claimOrder = some t0 ∧ m.waitLimit ≠ 0 ∧
    1000 * m.waitLimit.toNat < (s.clock - t0).toNat

/-- R126, R128: from `s` the own claim `c` has been refused: the withdrawal, then DEFERRED for the backoff, or DRAW_DENIED
when the draw wait limit has passed. (That a denied SET_CLAIM keeps the power state: assumption log 17.) -/
def RefusesClaim (s t : State) (c : OwnClaim) : Prop :=
  (¬ s.limitPassed → t = { s with
    line := drawSent s.line s.draw.held,
    draw := { s.draw with
      claimState := .deferred, claim := some { c with t0 := none }, windowTimer := none,
      backoffTimer := some (s.clock + BitVec.ofNat 32 (s.line.params.claimWindow + 8 * s.line.slot.toNat)) } }) ∧
  (∀ m, s.power.move = some m → s.limitPassed → HaltsAbandoning { s with
    line := drawSent s.line s.draw.held,
    draw := { s.draw with claim := none, claimState := .none_, windowTimer := none, backoffTimer := none },
    power := { s.power with move := none, state := if m.stage = .setClaim then s.power.state else m.start } } t .drawDenied)

/-- R124, R129, R161: from `s` the CLAIM of the own claim `c` has been handed to the port. A line that drops it loses the
claim; a frame of another kind may be shed for it. -/
def HandsClaim (s t : State) (c : OwnClaim) : Prop :=
  let f := newFrame .claim 31 (claimPayload c)
  (s.line.accepts → t = { s with line := { s.line with queue := joinQueue f s.line.queue },
                                 draw := { s.draw with mark := .current } }) ∧
  (∀ l lost, s.line.offer f = (l, some lost) → lost.kind ≠ .claim →
    t = { s with line := l, draw := { s.draw with mark := .current } }) ∧
  (∀ l lost, s.line.offer f = (l, some lost) → lost.kind = .claim →
    RefusesClaim { s with line := l, draw := { s.draw with mark := .none_ } } t c)

/-- R124: from `s`, with no claim outstanding, the Power Path has asked for a claim of `asking`. Behind a stale frame the
CLAIM is held back. -/
def AsksClaim (s t : State) (asking : Draw) : Prop :=
  let c := { heldNow := s.draw.held, asking := asking, t0 := none : OwnClaim }
  let u := { s with draw := { s.draw with claim := some c, claimState := .queued } }
  (s.draw.mark = .none_ → HandsClaim u t c) ∧ (s.draw.mark = .stale → t = u)

/-- R126: from `s` the port has reported the own CLAIM frame dropped. -/
def ReportsClaimDropped (s t : State) : Prop :=
  let u := { s with draw := { s.draw with mark := .none_ } }
  (∀ c, s.draw.mark = .current → s.draw.claimState = .queued → s.draw.claim = some c → RefusesClaim u t c) ∧
  (∀ c, s.draw.mark = .stale → s.draw.claimState = .queued → s.draw.claim = some c → HandsClaim u t c) ∧
  (s.draw.mark = .none_ ∨ s.draw.claimState ≠ .queued → t = u)

/-! ### Recording a fault -/

/-- R139, R161: from `s` the FAIL notice of a fault has been handed to the line. It may shed an own CLAIM. -/
def HandsFail (s t : State) (i : FaultInfo) (sequence : BitVec 16) : Prop :=
  let o := s.line.offer (newFrame .fail 31 (failPayload i sequence))
  ((∀ lost, o.2 = some lost → lost.kind ≠ .claim) → t = { s with line := o.1 }) ∧
  (∀ lost, o.2 = some lost → lost.kind = .claim → ReportsClaimDropped { s with line := o.1 } t)

/-- R116: a move ended by FAULT_FLOOD, by its stage: its claim abandoned with a DRAW, its ramp at its target. -/
def floodEnds (s : State) : State :=
  match s.power.move with
  | none => s
  | some m =>
    let p := { s.power with move := none, rampTimer := none }
    match m.stage with
    | .zeroing => { s with power := { p with state := m.start }, rail := { s.rail with zeroCapture := none } }
    | .claiming =>
      let back := { s with power := { p with state := m.start } }
      if s.draw.claimState = .none_ then back
      else { back with draw := abandoned s.draw, line := drawSent s.line s.draw.held }
    | .ramping => { releasedTo s m.asked with power := { p with state := m.target, declared := m.asked } }
    | .setClaim =>
      if s.draw.claimState = .none_ then { s with power := p }
      else { s with power := p, draw := abandoned s.draw, line := drawSent s.line s.draw.held }

/-- R136, R138: 32 records, every one PROVISIONAL. -/
def Recorder.floods (r : Recorder) : Prop := 32 ≤ r.queue.length ∧ ∀ f ∈ r.queue, f.cls = .provisional

/-- R137, R138: a count that stays at 255. -/
def countUp (b : Byte) : Byte := if b = 255 then 255 else b + 1

/-- R136, R137: the Fault Recorder's state once a fault has reached a queue with room or with a classified record. -/
def recorded (s : State) (i : FaultInfo) (action : Option GuardAction) (q : List FaultRecord) : Recorder :=
  { s.faults with
    queue := q ++ [freshRecord s i action], nextSequence := sequenceAfter s.faults.nextSequence,
    discarded := if s.faults.queue.length < 32 then s.faults.discarded else countUp s.faults.discarded }

/-- R136 to R139: from `s` the fault `i` has reached the Fault Recorder. It joins a queue with room; the oldest classified
record makes room in a full one; a flooded one discards it and halts an active job FAULT_FLOOD, ending a move by its
stage. Its sequence is used and its notice sent in each case. -/
def Records (s t : State) (i : FaultInfo) (action : Option GuardAction) : Prop :=
  let sends := fun (f : Recorder) (u : State) => HandsFail { s with faults := f } u i s.faults.nextSequence
  (s.faults.queue.length < 32 → sends (recorded s i action s.faults.queue) t) ∧
  (∀ before lost after, 32 ≤ s.faults.queue.length → s.faults.queue = before ++ lost :: after →
    (∀ f ∈ before, f.cls = .provisional) → lost.cls ≠ .provisional →
    sends (recorded s i action (before ++ after)) t) ∧
  (s.faults.floods → ∃ u,
    sends { s.faults with nextSequence := sequenceAfter s.faults.nextSequence, discarded := countUp s.faults.discarded } u ∧
    (u.eng.job.active = false → t = u) ∧
    (u.eng.job.active = true → HaltsAbandoning (floodEnds u) t .faultFlood))

/-- R41: from `s` the fault `i` of the record in flight has been recorded, and a record still in flight is in JUDGING on its
sequence. -/
def JudgesFault (s t : State) (i : FaultInfo) : Prop :=
  ∃ u, Records s u i none ∧
    (s.faults.floods ∨ u.eng.job ≠ .running ∨ u.eng.copy = none → t = u) ∧
    (¬ s.faults.floods → u.eng.job = .running → u.eng.copy ≠ none → t = { u with
      eng := { u.eng with phase := .judging, judged := some s.faults.nextSequence, timer := none },
      port := { u.port with owner := ownerReleased u } })

/-- R58, R60, R70: what a fault of a SAMPLE and the halts it may bring leave as they find it: F, the check context, the
probe with its capture counts, the accesses that wait for the port, and memory outside the outcome bytes at F. -/
def SampleStands (s t : State) : Prop :=
  t.eng.fetchIndex = s.eng.fetchIndex ∧ t.check = s.check ∧ t.probe = s.probe ∧ s.port.waits <+: t.port.waits ∧
  (Memory.wf s.mem → Memory.wf t.mem ∧
    ∀ a, a ≠ 16 * s.eng.fetchIndex.toNat + 14 → a ≠ 16 * s.eng.fetchIndex.toNat + 15 →
      Memory.read t.mem a = Memory.read s.mem a)

/-- R41, R136 to R139: from `s` the fault `i` of the SAMPLE in flight has been raised, whatever the fault queue and the line
hold; with room in the one and on the other the engine is in JUDGING on it and nothing else has changed. -/
def RaisesFault (s t : State) (i : FaultInfo) : Prop :=
  JudgesFault s t i ∧ SampleStands s t ∧ (s.RecordsPlainly → t = judgingOn s i)

/-! ### The strobe -/

/-- R60, R32, R79: a strobe that completes with `levels`: field path, capture entry, and the record's completion or its
fault. -/
def StrobeEnds (s t : State) (r : Record) (levels : Levels) (qualifiedTaken : Bool) : Prop :=
  let path := fieldPath s.check levels
  let result := if checkFlag r then path.1 else .none_
  let entry := captureEntry s.eng.fetchIndex s.clock levels false qualifiedTaken result (mismatchMask s.probe levels)
  ∃ m, EntryStored s r entry m ∧
    (let u := strobeStored s r m (if checkFlag r then path.2 else s.check) .ready
     (result = .none_ ∨ result = .pass →
        Completes u t r (outcomeAt s.eng.attempt (if checkFlag r then .pass else .done))) ∧
     (result = .mismatch → RaisesFault u t (mismatchOf s levels)) ∧
     (result = .jump → RaisesFault u t (jumpOf s levels)))

/-- R60, R21: the strobe completes with `levels` while the bench holds the port. The entry, with these levels, joins the
accesses that wait; a record that passes completes on its write, or, under NOCAPTURE, has its write-back wait; a fault is
judged at once. -/
def StrobeWaits (s t : State) (r : Record) (levels : Levels) (qualifiedTaken : Bool) : Prop :=
  let path := fieldPath s.check levels
  let result := if checkFlag r then path.1 else .none_
  let entry := captureEntry s.eng.fetchIndex s.clock levels false qualifiedTaken result (mismatchMask s.probe levels)
  let outcome := outcomeAt s.eng.attempt (if checkFlag r then .pass else .done)
  let u := { s with check := if checkFlag r then path.2 else s.check, eng := { s.eng with phase := .ready },
                    probe := { s.probe with strobe := none } }
  let waits := fun completes => { u with port := { s.port with waits := s.port.waits ++ [.capture entry completes] } }
  (result = .none_ ∨ result = .pass →
    (noCaptureFlag r = false → t = waits (some outcome)) ∧
    (noCaptureFlag r = true → reportFlag r = true → t = writeBackWaiting u r outcome .advance)) ∧
  (result = .mismatch → RaisesFault (if noCaptureFlag r then u else waits none) t (mismatchOf s levels)) ∧
  (result = .jump → RaisesFault (if noCaptureFlag r then u else waits none) t (jumpOf s levels))

/-! ### Frames read and requests admitted -/

/-- The frame with a correct check, not sent by this station, that a command has the port judge (R158, R159; whatever row
names the event: assumption log 5). -/
def frameRead : Instr → Option Frame
  | .frameFail source dest payload => some { source := source, dest := dest, kind := 0, payload := payload }
  | .frameClaim source dest payload => some { source := source, dest := dest, kind := 1, payload := payload }
  | .frameDraw source dest payload => some { source := source, dest := dest, kind := 2, payload := payload }
  | .frameJoin source dest payload => some { source := source, dest := dest, kind := 3, payload := payload }
  | .frameSetup source dest payload => some { source := source, dest := dest, kind := 4, payload := payload }
  | .benchRequestArrival f | .duplicateSlotFrame f | .framePassedOver f => some f
  | .frameReceivedBad frame framing => if rawBad { toFrame := frame, toFraming := framing } then none else some frame
  | .reset _ _ | .stationTick | .updateRound _ | .guardFault _ | .guardRearm _ | .tripDetection | .overdrawDetection
  | .zeroCaptureEnd | .rampExpiry | .railcheckAverageEnd | .settleEnd _ | .holdOffRelease _ | .qualifierEdge _
  | .strobeTimerExpiry _ | .waitExpiry | .recoverExpiry | .stepLanes | .stepDrive | .stepSample | .stepField | .stepLimits
  | .stepRailcheck | .stepGuard | .stepScale | .stepPower | .stepWait | .stepRepeat | .stepMark | .stepStop
  | .unknownStepKind | .coincidenceJudgement | .ownClaimTaken | .pendingExpiry _ | .claimJudgement | .backoffExpiry
  | .frameBegin | .contentionLost | .bitError | .frameSent | .serveLoad | .servePost | .servePeek | .benchAccessGrant
  | .serveStart | .servePause | .serveResume | .serveAbort | .serveClear | .serveRing | .serveUnknownAction
  | .serveQueryStatus | .serveQueryReadings | .serveQueryUnknown | .serveFaultRead | .serveFaultTrim => none

/-- R158, R178: a FAIL, CLAIM, DRAW or JOIN of its kind's length. -/
def isPeerFrame (f : Frame) : Prop :=
  (f.kind = 0 ∧ f.payload.length = 5) ∨ (f.kind = 1 ∧ f.payload.length = 4) ∨ (f.kind = 2 ∧ f.payload.length = 2) ∨
  (f.kind = 3 ∧ f.payload.length = 0)

/-- R159: addressed to all or to the own slot; a silent station has no slot of its own on the line. -/
def LinePort.addressedBy (l : LinePort) (f : Frame) : Prop := f.dest = 31 ∨ (f.dest = l.slot ∧ l.slot.toNat < 30)

/-- R156: the frame on the line has ended, so a frame this station has cut stands on it no more. -/
def afterFrame (s : State) : State := { s with line := { s.line with cutOwn := false } }

/-- R11, R12, R14: a LOAD clear of the capture buffer and of every live record, or a PEEK inside memory. -/
def State.Admits (s : State) (q : Request) : Prop :=
  let a := leAt 2 q.payload 0
  let m := (byteAt q.payload 2).toNat
  (q.kind = .load ∧ 3 ≤ q.payload.length ∧ a + q.payload.length - 3 < 16384 ∧
    ∀ n, a / 16 ≤ n → n ≤ (a + q.payload.length - 3) / 16 →
      ¬ (BitVec.ofNat 10 n - s.eng.retain).toNat < (s.eng.postIndex - s.eng.retain).toNat) ∨
  (q.kind = .peek ∧ q.payload.length = 3 ∧ 1 ≤ m ∧ m ≤ 30 ∧ a + m ≤ 24576)

/-- R21, last sentence: from `s`, where a request may just have entered service, an admitted LOAD or PEEK asks for the
port before the engine's waiting accesses are made (assumption log 28). -/
def AsksNext (s t : State) : Prop :=
  let asks := s.bench.service = .checking ∧ ∃ q ∈ s.bench.queue.head?, s.Admits q
  (asks → t = { s with bench := { s.bench with service := .waitingPort }, port := { s.port with owner := .asked } }) ∧
  (¬ asks → t = s)

/-- R19, R20: a bench access that was asked for is granted when the engine stands at a release point. -/
def grantedAtRelease (s : State) : State :=
  if s.eng.job ≠ .running ∨ s.eng.phase ≠ .ready then { s with port := { s.port with owner := ownerReleased s } } else s

/-- R64: the state with a capture entry counted and `m` as its memory. -/
def withCapture (s : State) (m : Memory) : State :=
  { s with mem := m, probe := { s.probe with nextIndex := s.probe.nextIndex + 1,
                                             validCount := min (s.probe.validCount + 1) 512 } }

/-- R64: memory `m` is that of `s` with `entry` in the 16 bytes at the capture buffer's next index. -/
def CaptureWritten (s : State) (entry : Record) (m : Memory) : Prop :=
  let base := Config.captureBase + 16 * s.probe.nextIndex.toNat
  ∀ a, Memory.read m a = if base ≤ a ∧ a < base + 16 then byteOf entry (a - base) else Memory.read s.mem a

/-- R21, R64: from `s` the capture entries have been written one after the other, and nothing else has changed. -/
def CapturesWritten (s : State) : List Record → State → Prop
  | [], t => t = s
  | entry :: entries, t => ∃ m, CaptureWritten s entry m ∧ CapturesWritten (withCapture s m) entries t

end Sys2Proof.Machine
end

