-- ==== Sys2Proof/WellFormed.lean ====
section
/-! DEFINITION. Which commands the outside can send at all: the checks are those of the frame's form
on the line (R153). Widths are already in the types of `Sys2Proof/Syntax.lean`. -/

namespace Sys2Proof

/-- A frame's payload is 0 to 32 bytes (R153). -/
def payloadWf (p : List Byte) : Bool := decide (p.length ≤ 32)

/-- A good frame as received. -/
def Frame.wf (f : Frame) : Bool := payloadWf f.payload

/-- A frame as its bits were read: with a length field of 32 or below, as many payload bytes as the
field says; above 32 the station stops at the length field and reads no payload (R158). -/
def RawFrame.wf (r : RawFrame) : Bool :=
  if r.length.toNat ≤ 32 then decide (r.payload.length = r.length.toNat) else decide (r.payload = [])

/-- The bench request kinds of R168, by code (R178). -/
def Frame.isBenchKind (f : Frame) : Bool := decide (5 ≤ f.kind.toNat ∧ f.kind.toNat ≤ 11)

/-- Well-formed commands. -/
def Instr.wf : Instr → Bool
  | .frameFail _ _ p | .frameClaim _ _ p | .frameDraw _ _ p | .frameJoin _ _ p | .frameSetup _ _ p => payloadWf p
  | .duplicateSlotFrame f | .framePassedOver f => f.wf
  | .benchRequestArrival f => f.wf && f.isBenchKind
  | .frameReceivedBad f r => RawFrame.wf { toFrame := f, toFraming := r }
  | .reset _ _ | .stationTick | .updateRound _ | .guardFault _ | .guardRearm _ | .tripDetection
  | .overdrawDetection | .zeroCaptureEnd | .rampExpiry | .railcheckAverageEnd | .settleEnd _
  | .holdOffRelease _ | .qualifierEdge _ | .strobeTimerExpiry _ | .waitExpiry | .recoverExpiry
  | .stepLanes | .stepDrive | .stepSample | .stepField | .stepLimits | .stepRailcheck | .stepGuard
  | .stepScale | .stepPower | .stepWait | .stepRepeat | .stepMark | .stepStop | .unknownStepKind
  | .coincidenceJudgement | .ownClaimTaken | .pendingExpiry _ | .claimJudgement | .backoffExpiry
  | .frameBegin | .contentionLost | .bitError | .frameSent | .serveLoad | .servePost | .servePeek
  | .benchAccessGrant | .serveStart | .servePause | .serveResume | .serveAbort | .serveClear
  | .serveRing | .serveUnknownAction | .serveQueryStatus | .serveQueryReadings | .serveQueryUnknown
  | .serveFaultRead | .serveFaultTrim => true

end Sys2Proof
end

