-- ==== Sys2Proof/Certificates/Slice0/Obligations.lean ====
section
/-! DEFINITION. The statements for the provers. Each docstring names the rules of spec/ it speaks of. -/

open Sys2Proof Sys2Proof.Machine

/-! ### The step, the reset state and the invariants -/

/-- The model's own queue (assumption log 1): a step takes the command at the front and runs it on the queue's
rest, and an empty queue leaves the block as it is. -/
def Obligations.StepRunsTheOldestCommand : Prop :=
  (∀ (c : Instr) (cs : List Instr) (s : State),
    step { s with pending := c :: cs } = exec c { s with pending := cs }) ∧
  ∀ s : State, s.pending = [] → step s = .next s

/-- The machine right after reset meets every invariant that the statements below carry from step to step. -/
def Obligations.ResetMeetsTheInvariants : Prop :=
  Memory.wf State.reset.mem ∧ State.reset.SwitchesHeld ∧ State.reset.FaultQueueOrdered ∧ State.reset.QueuesBounded ∧
  State.reset.ContextReadable ∧ State.reset.RailsInRange ∧ State.reset.ServiceConsistent ∧ State.reset.HaltFieldsRight ∧
  State.reset.RingInOrder ∧ State.reset.PowerInOrder ∧ State.reset.OwnEntryUnused

/-- R3, R64, R11: every write falls inside the 24,576 bytes, and step memory keeps its canonical form. -/
def Obligations.StepKeepsMemoryForm : Prop :=
  ∀ s t : State, Memory.wf s.mem → step s = .next t → Memory.wf t.mem

/-- R105, first sentence, as an invariant of every step. -/
def Obligations.StepKeepsSwitchesHeld : Prop :=
  ∀ s t : State, s.SwitchesHeld → step s = .next t → t.SwitchesHeld

/-- R134, R136, R137, R143, R149; R134, R151, R160, R167: the order of the fault queue, and the bounds of the other queues,
each an invariant of every step. -/
def Obligations.StepKeepsTheQueuesInOrderAndBounds : Prop :=
  (∀ s t : State, s.FaultQueueOrdered → step s = .next t → t.FaultQueueOrdered) ∧
  (∀ s t : State, s.QueuesBounded → step s = .next t → t.QueuesBounded)

/-- R67, R68, R72, R75, R83 to R86, R91, R106: the field stays readable and the rails in range, each an invariant of every
step. -/
def Obligations.StepKeepsCheckAndRailRanges : Prop :=
  (∀ s t : State, s.ContextReadable → step s = .next t → t.ContextReadable) ∧
  (∀ s t : State, s.RailsInRange → step s = .next t → t.RailsInRange)

/-- R19, R169; R23, last paragraph: two invariants of every step. -/
def Obligations.StepKeepsServiceAndHaltFields : Prop :=
  (∀ s t : State, s.ServiceConsistent → step s = .next t → t.ServiceConsistent) ∧
  (∀ s t : State, s.HaltFieldsRight → step s = .next t → t.HaltFieldsRight)

/-- R104, R118: the power state with its switches and its move, the own claim with its state, and the draw table's unused
own entry, each an invariant of every step. -/
def Obligations.StepKeepsPowerStatesAndTheOwnClaim : Prop :=
  (∀ s t : State, s.PowerInOrder → step s = .next t → t.PowerInOrder) ∧
  (∀ s t : State, s.OwnEntryUnused → step s = .next t → t.OwnEntryUnused)

/-- R8, R37: F in the live region or at its end and the loop stack nested, posted and at most four deep, an invariant of
every step that has the two other invariants before it. -/
def Obligations.StepKeepsTheRingInOrder : Prop :=
  ∀ s t : State, s.ServiceConsistent → s.PowerInOrder → s.RingInOrder → step s = .next t → t.RingInOrder

/-! ### Rules of the whole machine: what only the named commands change -/

/-- R1, R9, R151, R152, R159, R163, R164, R165: station time changes only at RESET and STATION_TICK, the post index only at
RESET, POST and RING, and no command touches the commands still waiting. But for RESET, the straps stand; SET and its
parameters are set only from UNSET, by a good SETUP frame from the bench addressed to the station, and then stand; and the
duplicate flag is set only by a good frame of a peer kind that carries the own slot, and then stands. (A frame is read by
whatever row names it: log entry 5.) -/
def Obligations.ClockPostIndexStrapsAndSetupMoveOnlyByTheirCommands : Prop :=
  (∀ (i : Instr) (s t : State), exec i s = .next t →
     t.pending = s.pending ∧
     (i ≠ .stationTick → (∀ slot rate, i ≠ .reset slot rate) → t.clock = s.clock) ∧
     (i ≠ .servePost → i ≠ .serveRing → (∀ slot rate, i ≠ .reset slot rate) → t.eng.postIndex = s.eng.postIndex)) ∧
  (∀ (i : Instr) (s t : State), exec i s = .next t → (∀ slot rate, i ≠ .reset slot rate) →
     t.line.slot = s.line.slot ∧ t.line.rate = s.line.rate ∧
     (s.line.isSet = true → t.line.isSet = true ∧ t.line.params = s.line.params) ∧
     (t.line.isSet ≠ s.line.isSet ∨ t.line.params ≠ s.line.params →
       ∃ f, frameRead i = some f ∧ f.kind = 4 ∧ f.payload.length = 8 ∧ f.source = 30 ∧ s.line.addressedBy f) ∧
     (s.line.duplicate = true → t.line.duplicate = true) ∧
     (t.line.duplicate ≠ s.line.duplicate →
       ∃ f, frameRead i = some f ∧ isPeerFrame f ∧ f.source = s.line.slot ∧ s.line.slot.toNat < 30))

/-- R4, R15: a record's kind, flags and operands, bytes 0 to 13, are written by LOAD alone. -/
def Obligations.RecordOperandsWrittenOnlyByLoad : Prop :=
  ∀ (i : Instr) (s t : State), exec i s = .next t → Memory.wf s.mem → (∀ slot rate, i ≠ .reset slot rate) →
    i ≠ .benchAccessGrant → ∀ a, a < 16384 → a % 16 < 14 → Memory.read t.mem a = Memory.read s.mem a

/-- R50, R67, R70, R75, R80, R83, R89, R118, R123: which commands alone change the probe lines, the check context with its
previous code, the gains and zero codes, and the draw table: a peer's entry changes only by that peer's CLAIM, DRAW or JOIN
and by its own PENDING_EXPIRY, and the own entry, with no pending, by nothing. RESET apart. -/
def Obligations.SettingsChangeOnlyByTheirCommands : Prop :=
  ∀ (i : Instr) (s t : State), exec i s = .next t → (∀ slot rate, i ≠ .reset slot rate) →
    (i ≠ .stepLanes → i ≠ .serveClear → t.probe.direction = s.probe.direction ∧
      t.probe.polarity = s.probe.polarity ∧ t.probe.source = s.probe.source) ∧
    (i ≠ .stepDrive → i ≠ .serveClear → t.probe.drive = s.probe.drive) ∧
    (i ≠ .stepField → i ≠ .serveClear → t.check.field = s.check.field) ∧
    (i ≠ .stepLimits → i ≠ .serveClear → t.check.limits = s.check.limits) ∧
    (i ≠ .stepScale → i ≠ .serveClear → ∀ c : Fin 8, (t.rail.channels.get c).gain = (s.rail.channels.get c).gain) ∧
    (∀ c : Fin 8, i ≠ .zeroCaptureEnd ∨ (c ≠ 1 ∧ c ≠ 3) → (t.rail.channels.get c).zero = (s.rail.channels.get c).zero) ∧
    (i ≠ .stepField → i ≠ .serveClear → (∀ l, i ≠ .settleEnd l) → (∀ l, i ≠ .holdOffRelease l) →
      (∀ l, i ≠ .qualifierEdge l) → t.check.vprev = s.check.vprev) ∧
    (∀ x : Fin 30, x.val ≠ s.line.slot.toNat → i ≠ .pendingExpiry x →
      (∀ f, frameRead i = some f → f.source.toNat = x.val → ¬ isPeerFrame f ∨ f.kind = 0) →
      t.draw.table.get x = s.draw.table.get x) ∧
    (∀ x : Fin 30, x.val = s.line.slot.toNat → (s.draw.table.get x).pending = none →
      t.draw.table.get x = s.draw.table.get x)

/-- R105, R118, R127, R131: a switch that was open is closed only on the entry into RAMPING, and the own held draw rises only
by a judged claim. -/
def Obligations.SwitchesCloseAndDrawRisesOnlyWhereTheRulesSay : Prop :=
  (∀ (i : Instr) (s t : State), exec i s = .next t →
     (s.power.standby = false ∧ t.power.standby = true) ∨ (s.power.main = false ∧ t.power.main = true) →
       t.power.state = .ramping ∧ t.power.standby = true ∧ (i = .zeroCaptureEnd ∨ i = .claimJudgement)) ∧
  (∀ (i : Instr) (s t : State), exec i s = .next t → i ≠ .claimJudgement → t.draw.held.toNat ≤ s.draw.held.toNat)

/-! ### The stops -/

/-- R3, R106: the only two stops of the model. A granted access past byte 24575, which R11 and R14 let no request ask for,
names an address that does not exist; a POWER dispatched or run again in a power state other than OFF, STANDBY or ON,
which R106 says cannot stand there, has no effect to take. Every other command in every other state goes on. -/
def Obligations.NoCommandStopsButOnWhatTheSpecExcludes : Prop :=
  ∀ (i : Instr) (s : State),
    (∃ t, exec i s = .next t) ∨
    (exec i s = .fault .absentAddress ∧ i = .benchAccessGrant ∧ s.port.owner = .bench ∧ ∃ q rest,
      s.bench.queue = q :: rest ∧
      24576 < leAt 2 q.payload 0 + (if q.kind = .load then q.payload.length - 2 else (byteAt q.payload 2).toNat)) ∨
    (exec i s = .fault .powerStateAtDispatch ∧ (i = .stepPower ∨ i = .recoverExpiry) ∧
      (s.power.state = .zeroing ∨ s.power.state = .claiming ∨ s.power.state = .ramping ∨ s.power.state = .tripped))

/-! ### The frame on the line -/

/-- R153, R158: a frame of up to 32 payload bytes, sent bit by bit with its check value, is tracked field by field to
the frame that was sent, whatever its class and whatever follows it on the line, and is not received bad for its check. -/
def Obligations.TrackedFrameIsTheFrameSent : Prop :=
  ∀ (cls : BitVec 2) (f : Frame) (after : List Bool), f.wf = true →
    trackFrame (lineBits cls f ++ after) = rawOf f ∧ rawBad (rawOf f) = false ∧
    (lineBits cls f).length = 39 + 8 * f.payload.length

/-! ### Reset and the Station Clock -/

/-- R22, R23, R50, R66, R67, R83, R104, R118, R134, R151, R152, R167, R184: RESET completes in every state and leaves
every block at its reset values, with the straps as read. (What stays of the model's own fields is log entry 1 and 3.)
R1, R142: STATION_TICK completes in every state: the station time rises by 1 modulo 2^32, exactly the notices that are then
more than 2W old leave the list, and nothing else changes. -/
def Obligations.ResetAndTheStationTick : Prop :=
  (∀ (slot : BitVec 5) (rate : BitVec 2) (s : State), ∃ t, exec (.reset slot rate) s = .next t ∧
       t.clock = 0 ∧ (∀ a, Memory.read t.mem a = 0) ∧ t.port = { owner := .engine, waits := [] } ∧
       t.eng = { job := .idle, phase := .ready, fetchIndex := 0, postIndex := 0, loops := [], copy := none, attempt := 0,
                 judged := none, latch := false, haltReason := none, haltIndex := none, timer := none } ∧
       t.probe = { direction := 0, polarity := 0, drive := 0, source := 0, nextIndex := 0, validCount := 0, strobe := none } ∧
       t.check = { field := { startLine := 0, width := 8, decode := .binary, signedness := .unsigned, changeLimit := 0,
                              retryLimit := 0, action := .halt },
                   limits := { mode := .none_, a := 0, b := 0 }, vprev := none } ∧
       (∀ i : Fin 8, t.rail.channels.get i =
         { zero := 0, gain := if i = 0 then 16384 else if i = 1 then 20480 else if i = 2 then 8192 else 4096,
           stepLimit := 0, scaled := 0, filtered := 0, seed := true,
           guard := { enabled := false, low := -32768, high := 32767, debounce := 1, action := .log, state := .disabled,
                      count := 0 } }) ∧
       t.rail.measured = 0 ∧ t.rail.tripMain = 0 ∧ t.rail.tripStandby = 0 ∧ t.rail.overdrawCount = 0 ∧
       t.rail.zeroCapture = none ∧ t.rail.average = none ∧
       t.power = { state := .off, standby := false, main := false, mainTrip := 32767, standbyTrip := 32767, declared := 0,
                   move := none, rampTimer := none } ∧
       (∀ x : Fin 30, t.draw.table.get x = { held := 0, pending := none }) ∧ t.draw.held = 0 ∧
       t.draw.claimState = .none_ ∧ t.draw.claim = none ∧ t.draw.mark = .none_ ∧ t.draw.windowTimer = none ∧
       t.draw.backoffTimer = none ∧
       t.faults = { queue := [], nextSequence := 1, discarded := 0, notices := [], noticeOverflow := 0 } ∧
       t.line.slot = slot ∧
       t.line.rate = (if rate = 0 then .kbit125 else if rate = 1 then .kbit250 else if rate = 2 then .kbit500 else .kbit1000) ∧
       t.line.isSet = false ∧
       t.line.params = { budget := 1, claimWindow := 10, coincidence := 1, quorum := 1, settleDelay := 0 } ∧
       t.line.duplicate = false ∧ t.line.queue = [] ∧ t.line.notSent = 0 ∧ t.line.receivedBad = 0 ∧ t.line.cutOwn = false ∧
       t.bench = { queue := [], service := .idle, discarded := 0 } ∧
       t.freeNext = s.freeNext ∧ t.pending = s.pending) ∧
  (∀ s : State, ∃ t, exec .stationTick s = .next t ∧
       t.clock.toNat = (s.clock.toNat + 1) % 2 ^ 32 ∧
       t.faults.notices.Sublist s.faults.notices ∧
       (∀ n, n ∈ t.faults.notices ↔
         n ∈ s.faults.notices ∧ ¬ (2 * s.line.params.coincidence < (t.clock - n.arrival).toNat)) ∧
       t = { s with clock := t.clock, faults := { s.faults with notices := t.faults.notices } })

/-! ### The Rail Monitor -/

/-- R84, R85, R87: UPDATE_ROUND completes in every state; each channel's scaled and filtered reading and the measured
draw are those of the rules, the zero codes, gains and step limits stay, and nothing outside the Rail Monitor changes. -/
def Obligations.UpdateRoundComputesReadingsAndDraw : Prop :=
  ∀ (codes : Vector (BitVec 12) 8) (s : State), ∃ t, exec (.updateRound codes) s = .next t ∧
    t = { s with rail := t.rail } ∧
    (∀ i : Fin 8,
      let c := s.rail.channels.get i
      let d := t.rail.channels.get i
      let floor : Int := ((((codes.get i).toNat : Int) - c.zero.toNat) * c.gain.toNat + 2048) / 4096
      d.scaled = (if floor < -32768 then -32768 else if 32767 < floor then 32767 else floor) ∧
      d.filtered = (if c.seed = true ∨ c.stepLimit = 0 then d.scaled
                    else if d.scaled - c.filtered < -(c.stepLimit : Int) then c.filtered - c.stepLimit
                    else if (c.stepLimit : Int) < d.scaled - c.filtered then c.filtered + c.stepLimit else d.scaled) ∧
      d.seed = false ∧ d.zero = c.zero ∧ d.gain = c.gain ∧ d.stepLimit = c.stepLimit) ∧
    (let f := fun i : Fin 8 => (t.rail.channels.get i).filtered
     let power : Int := (max 0 (f 0 * f 1) + max 0 (f 2 * f 3) + 50000) / 100000
     (t.rail.measured.toNat : Int) = if 65535 < power then 65535 else power)

/-- R92, R93, R94: what UPDATE_ROUND does to a guard, on the filtered reading of that round. R88, R96, R99, R100: the trip
counts, the overdraw count, the zero capture and the RAILCHECK average at a round. A count that reaches the debounce and a
count or a sum that is complete stand as they are until GUARD_FAULT, GUARD_REARM or their own command takes them (the
model's choice, log entry 9). -/
def Obligations.UpdateRoundJudgesGuardsAndCountsDetections : Prop :=
  ∀ (codes : Vector (BitVec 12) 8) (s : State), ∃ t, exec (.updateRound codes) s = .next t ∧
    (∀ i : Fin 8,
      let g := (s.rail.channels.get i).guard
      let h := (t.rail.channels.get i).guard
      let f := (t.rail.channels.get i).filtered
      let active := s.power.state = .on ∨ ((i = 2 ∨ i = 3) ∧ s.power.state = .standby)
      let outside := f < g.low ∨ g.high < f
      h.enabled = g.enabled ∧ h.low = g.low ∧ h.high = g.high ∧ h.debounce = g.debounce ∧ h.action = g.action ∧
      (g.state = .disabled → h = g) ∧
      (g.state = .inactive ∧ ¬ active → h = g) ∧
      ((g.state = .armed ∨ g.state = .resting) ∧ ¬ active → h.state = .inactive ∧ h.count = 0) ∧
      (g.state = .inactive ∧ active → h.state = .armed ∧ h.count = if outside then min 1 g.debounce else 0) ∧
      (g.state = .armed ∧ active → h.state = .armed ∧ h.count = if outside then min (g.count + 1) g.debounce else 0) ∧
      (g.state = .resting ∧ active → h.state = .resting ∧ h.count = if outside then 0 else min (g.count + 1) g.debounce)) ∧
    t.rail.tripMain = (if s.power.main = true ∧ (s.power.mainTrip : Int) < (t.rail.channels.get 1).scaled
      then min (s.rail.tripMain + 1) 2 else 0) ∧
    t.rail.tripStandby = (if s.power.standby = true ∧ (s.power.standbyTrip : Int) < (t.rail.channels.get 3).scaled
      then min (s.rail.tripStandby + 1) 2 else 0) ∧
    t.rail.overdrawCount = (if (s.power.state = .standby ∨ s.power.state = .on) ∧
        s.draw.held.toNat + s.draw.held.toNat / 8 < t.rail.measured.toNat then min (s.rail.overdrawCount + 1) 50 else 0) ∧
    (s.rail.zeroCapture = none → t.rail.zeroCapture = none) ∧
    (∀ z, s.rail.zeroCapture = some z → z.rounds < 16 → t.rail.zeroCapture = some
      { z with sumMain := if z.onMain = true then z.sumMain + (codes.get 1).toNat else z.sumMain,
               sumStandby := if z.onStandby = true then z.sumStandby + (codes.get 3).toNat else z.sumStandby,
               rounds := z.rounds + 1 }) ∧
    (∀ z, s.rail.zeroCapture = some z → 16 ≤ z.rounds → t.rail.zeroCapture = some z) ∧
    (s.rail.average = none → t.rail.average = none) ∧
    (∀ a, s.rail.average = some a → a.count ≤ a.rounds → t.rail.average = some a) ∧
    (∀ a, s.rail.average = some a → a.rounds < a.count → t.rail.average = some
      { a with sum := a.sum + (t.rail.channels.get a.channel).filtered, rounds := a.rounds + 1 })

/-- R93, R94, R95, R136, R139: a guard fault that is due sends the guard to RESTING and is recorded with the guard's action,
against the record in flight if there is one, its notice sent (R137, R138 and a lost CLAIM included); nothing else changes.
The reading, the limits and the stamp are those at the command, the model's choice where R95 has the round's (log entry 9).
A re-arm that is due returns the guard to ARMED with a count of 0, and nothing else changes. -/
def Obligations.GuardFaultIsRecordedAndGuardRearms : Prop :=
  (∀ (i : Fin 8) (s : State),
     let c := s.rail.channels.get i
     let flying := s.eng.job = .running ∧ s.eng.copy.isSome = true
     let info : FaultInfo :=
       { kind := if c.filtered < c.guard.low then .railLow else .railHigh, source := .guard,
         channel := some (BitVec.ofNat 6 i.val), observed := some (BitVec.ofInt 32 c.filtered),
         refA := some (BitVec.ofInt 32 c.guard.low), refB := some (BitVec.ofInt 32 c.guard.high) }
     let fresh : FaultRecord :=
       { sequence := s.faults.nextSequence, stamp := s.clock, info := info,
         stepIndex := if flying then some s.eng.fetchIndex else none, attempt := if flying then s.eng.attempt else 0,
         cls := .provisional, peerCount := 0, guardAction := some c.guard.action }
     c.guard.state = .armed → c.guard.debounce ≤ c.guard.count →
     ∃ t, exec (.guardFault i) s = .next t ∧
       t.rail.channels.get i = { c with guard := { c.guard with state := .resting, count := 0 } } ∧
       (∀ j, j ≠ i → t.rail.channels.get j = s.rail.channels.get j) ∧
       t.faults.nextSequence = (if s.faults.nextSequence = 65535 then 1 else s.faults.nextSequence + 1) ∧
       (s.faults.queue.length < 32 → t.faults.queue = s.faults.queue ++ [fresh]) ∧
       Records { s with rail := { s.rail with channels := t.rail.channels } } t info (some c.guard.action) ∧
       (s.faults.queue.length < 32 → s.line.accepts →
         t = { s with rail := { s.rail with channels := t.rail.channels },
                      faults := { s.faults with queue := s.faults.queue ++ [fresh], nextSequence := t.faults.nextSequence },
                      line := { s.line with queue := joinQueue (newFrame .fail 31 (failPayload info fresh.sequence)) s.line.queue } })) ∧
  (∀ (i : Fin 8) (s : State),
     let c := s.rail.channels.get i
     c.guard.state = .resting → c.guard.debounce ≤ c.guard.count →
     ∃ t, exec (.guardRearm i) s = .next t ∧
       t.rail.channels.get i = { c with guard := { c.guard with state := .armed, count := 0 } } ∧
       (∀ j, j ≠ i → t.rail.channels.get j = s.rail.channels.get j) ∧
       t = { s with rail := { s.rail with channels := t.rail.channels } })

/-- R101, R114, R47: a trip that is due opens both switches, ends a move, releases the held draw, leaves the power state
TRIPPED, records the TRIP fault and halts an active job TRIPPED, with the DRAW frames, the FAIL notice and END in that order
and ABORTED written back. Where every one of 32 records is PROVISIONAL the job halts FAULT_FLOOD instead, R114 leaving either
order (log entry 10). The reading, the limit and the stamp are those at the command (log entry 9). A trip that finds the
switch of its channel open is not acted on (R101), and one whose count is not 2 is no event (log entry 4): nothing changes. -/
def Obligations.TripPowersDownRecordsAndHalts : Prop :=
  ∀ s : State,
    let byMain := s.power.main = true ∧ s.rail.tripMain = 2
    let flying := s.eng.job = .running ∧ s.eng.copy.isSome = true
    let full := 32 ≤ s.faults.queue.length ∧ ∀ f ∈ s.faults.queue, f.cls = .provisional
    let reading := if byMain then (s.rail.channels.get 1).scaled else (s.rail.channels.get 3).scaled
    let limit := if byMain then s.power.mainTrip else s.power.standbyTrip
    let fresh : FaultRecord :=
      { sequence := s.faults.nextSequence, stamp := s.clock,
        info := { kind := .trip, source := .power, channel := some (if byMain then 1 else 3),
                  observed := some (BitVec.ofInt 32 reading), refA := some (BitVec.ofInt 32 limit), refB := none },
        stepIndex := if flying then some s.eng.fetchIndex else none, attempt := if flying then s.eng.attempt else 0,
        cls := .provisional, peerCount := 0, guardAction := none }
    let due := byMain ∨ (s.power.standby = true ∧ s.rail.tripStandby = 2)
    (¬ due → exec .tripDetection s = .next s) ∧
    (due → ∃ t, exec .tripDetection s = .next t ∧
      t.power.state = .tripped ∧ t.power.standby = false ∧ t.power.main = false ∧ t.power.declared = 0 ∧
      t.power.move = none ∧ t.power.mainTrip = s.power.mainTrip ∧ t.power.standbyTrip = s.power.standbyTrip ∧
      t.draw.held = 0 ∧ t.draw.table = s.draw.table ∧
      (s.power.move ≠ none → t.power.rampTimer = none ∧ t.rail.zeroCapture = none) ∧
      t.rail.channels = s.rail.channels ∧
      (s.faults.queue.length < 32 → t.faults.queue = s.faults.queue ++ [fresh]) ∧
      t.eng = (if s.eng.job.active = true then haltedEngine s.eng (if full then .faultFlood else .tripped) else s.eng) ∧
      (Memory.wf s.mem → ∀ a, a ≠ 16 * s.eng.fetchIndex.toNat + 14 → a ≠ 16 * s.eng.fetchIndex.toNat + 15 →
        Memory.read t.mem a = Memory.read s.mem a) ∧
      t.check = s.check ∧ t.bench = s.bench ∧ t.clock = s.clock ∧
      t.probe = { s.probe with strobe := t.probe.strobe } ∧
      ∃ u, Records (poweredDown s .tripped) u fresh.info none ∧ HaltsAbandoning u t .tripped)

/-- R100, R101, R115, R47: an overdraw that is due isolates a board in STANDBY or ON, records the OVERDRAW fault and
halts an active job OVERDRAWN, with its frames and ABORTED as for a trip; in any other power state only the count returns to
0. A full queue of PROVISIONAL records as for a trip (log entry 10); the measured draw, the held draw and the stamp are
those at the command (log entry 9). -/
def Obligations.OverdrawIsolatesRecordsAndHalts : Prop :=
  ∀ s : State,
    let flying := s.eng.job = .running ∧ s.eng.copy.isSome = true
    let full := 32 ≤ s.faults.queue.length ∧ ∀ f ∈ s.faults.queue, f.cls = .provisional
    let fresh : FaultRecord :=
      { sequence := s.faults.nextSequence, stamp := s.clock,
        info := { kind := .overdraw, source := .power, channel := none,
                  observed := some (BitVec.ofNat 32 s.rail.measured.toNat),
                  refA := some (BitVec.ofNat 32 s.draw.held.toNat), refB := none },
        stepIndex := if flying then some s.eng.fetchIndex else none, attempt := if flying then s.eng.attempt else 0,
        cls := .provisional, peerCount := 0, guardAction := none }
    s.rail.overdrawCount = 50 →
    ∃ t, exec .overdrawDetection s = .next t ∧ t.rail.overdrawCount = 0 ∧
      (s.power.state ≠ .standby → s.power.state ≠ .on → t = { s with rail := { s.rail with overdrawCount := 0 } }) ∧
      (s.power.state = .standby ∨ s.power.state = .on →
        t.power.state = .off ∧ t.power.standby = false ∧ t.power.main = false ∧ t.power.declared = 0 ∧
        t.power.move = none ∧ t.power.mainTrip = s.power.mainTrip ∧ t.power.standbyTrip = s.power.standbyTrip ∧
        t.draw.held = 0 ∧ t.draw.table = s.draw.table ∧ t.rail.channels = s.rail.channels ∧
        (s.faults.queue.length < 32 → t.faults.queue = s.faults.queue ++ [fresh]) ∧
        t.eng = (if s.eng.job.active = true then haltedEngine s.eng (if full then .faultFlood else .overdrawn) else s.eng) ∧
        (Memory.wf s.mem → ∀ a, a ≠ 16 * s.eng.fetchIndex.toNat + 14 → a ≠ 16 * s.eng.fetchIndex.toNat + 15 →
          Memory.read t.mem a = Memory.read s.mem a) ∧
        t.check = s.check ∧ t.bench = s.bench ∧ t.clock = s.clock ∧ t.probe = { s.probe with strobe := t.probe.strobe } ∧
        ∃ u, Records (poweredDown { s with rail := { s.rail with overdrawCount := 0 } } .off) u fresh.info none ∧
          HaltsAbandoning u t .overdrawn)

/-! ### Faults at a full queue -/

/-- R135, R136, R137, R138, R116, R46, R47: a fault that finds 32 records, on a line that takes its notice. The oldest
classified record is discarded and counted and the fault joins the tail. With none classified the fault is discarded and
counted, its sequence used and its notice sent, and an active job halts FAULT_FLOOD, a move ended by its stage. Said of a due
guard fault (whose reading and stamp are those at the command, log entry 9), which changes nothing else, and of the step
fault of a RAILCHECK, which goes into JUDGING only where it is recorded. -/
def Obligations.FaultsAtAFullQueueDiscardOrFlood : Prop :=
  (∀ (i : Fin 8) (s : State),
     let c := s.rail.channels.get i
     let info : FaultInfo :=
       { kind := if c.filtered < c.guard.low then .railLow else .railHigh, source := .guard,
         channel := some (BitVec.ofNat 6 i.val), observed := some (BitVec.ofInt 32 c.filtered),
         refA := some (BitVec.ofInt 32 c.guard.low), refB := some (BitVec.ofInt 32 c.guard.high) }
     let next := if s.faults.nextSequence = 65535 then 1 else s.faults.nextSequence + 1
     let count := if s.faults.discarded = 255 then 255 else s.faults.discarded + 1
     let line := { s.line with
       queue := joinQueue (newFrame .fail 31 (failPayload info s.faults.nextSequence)) s.line.queue }
     c.guard.state = .armed → c.guard.debounce ≤ c.guard.count → 32 ≤ s.faults.queue.length → s.line.accepts →
     ∃ ch : Vector Channel 8,
       ch.get i = { c with guard := { c.guard with state := .resting, count := 0 } } ∧
       (∀ j, j ≠ i → ch.get j = s.rail.channels.get j) ∧
       (∀ before lost after, s.faults.queue = before ++ lost :: after → (∀ f ∈ before, f.cls = .provisional) →
         lost.cls ≠ .provisional → exec (.guardFault i) s = .next { s with
           rail := { s.rail with channels := ch }, line := line,
           faults := { s.faults with queue := before ++ after ++ [freshRecord s info (some c.guard.action)],
                                     nextSequence := next, discarded := count } }) ∧
       ((∀ f ∈ s.faults.queue, f.cls = .provisional) →
         let u := { s with rail := { s.rail with channels := ch }, line := line,
                           faults := { s.faults with nextSequence := next, discarded := count } }
         (s.eng.job.active = false → exec (.guardFault i) s = .next u) ∧
         (s.eng.job.active = true → ∃ t, exec (.guardFault i) s = .next t ∧ HaltsAbandoning (floodEnds u) t .faultFlood))) ∧
  (∀ (s : State) (r : Record) (a : Average), s.InPhase .average r → s.rail.average = some a → a.rounds = a.count →
     1 ≤ a.count → 32 ≤ s.faults.queue.length → s.line.accepts →
     (2 * a.sum + a.count) / (2 * a.count) < (halfOf r 4).toInt →
     ∃ t, exec .railcheckAverageEnd s = .next t ∧
       t.faults.nextSequence = (if s.faults.nextSequence = 65535 then 1 else s.faults.nextSequence + 1) ∧
       t.faults.discarded = (if s.faults.discarded = 255 then 255 else s.faults.discarded + 1) ∧
       ((∀ f ∈ s.faults.queue, f.cls = .provisional) → t.faults.queue = s.faults.queue ∧
         t.eng = haltedEngine s.eng .faultFlood ∧
         (s.power.move = none → t.power = s.power ∧ t.draw = s.draw)) ∧
       ((∃ f ∈ s.faults.queue, f.cls ≠ .provisional) → t.faults.queue.length = s.faults.queue.length ∧
         t.eng = { s.eng with phase := .judging, judged := some s.faults.nextSequence, timer := none } ∧
         t.power = s.power ∧ t.draw = s.draw))

/-! ### Step records -/

/-- R52, R53: LANES sets one lane's directions, polarities and capture source, DRIVE the drive values of the lanes its
mask selects, line by line. Both complete DONE, and nothing else changes. -/
def Obligations.LanesAndDriveSetTheProbeLanes : Prop :=
  ∀ (s : State) (r : Record), s.AwaitsDispatch r → Memory.wf s.mem → s.PortFreeFor r →
    (kindOf r = 1 → ∃ t p, exec .stepLanes s = .next t ∧ Completes { s with probe := p } t r .done ∧
      p = { s.probe with direction := p.direction, polarity := p.polarity, source := p.source } ∧
      (∀ line, line < 64 →
        p.direction.getLsbD line = (if line / 8 = min (byteOf r 2).toNat 7 then (byteOf r 3).getLsbD (line % 8)
          else s.probe.direction.getLsbD line) ∧
        p.polarity.getLsbD line = (if line / 8 = min (byteOf r 2).toNat 7 then (byteOf r 4).getLsbD (line % 8)
          else s.probe.polarity.getLsbD line)) ∧
      (∀ lane, lane < 8 → p.source.getLsbD lane =
        if lane = min (byteOf r 2).toNat 7 then decide (byteOf r 5 = 1) else s.probe.source.getLsbD lane)) ∧
    (kindOf r = 2 → ∃ t p, exec .stepDrive s = .next t ∧ Completes { s with probe := p } t r .done ∧
      p = { s.probe with drive := p.drive } ∧
      (∀ line, line < 64 → p.drive.getLsbD line =
        if (byteOf r 2).getLsbD (line / 8) then (byteOf r (3 + line / 8)).getLsbD (line % 8)
        else s.probe.drive.getLsbD line))

/-- R68, R69: an admitted FIELD replaces the FIELD part and discards Vprev; an admitted LIMITS replaces the LIMITS part
and keeps Vprev. Both complete DONE, and nothing else changes. -/
def Obligations.FieldAndLimitsReplaceTheirPartOfTheContext : Prop :=
  ∀ (s : State) (r : Record), s.AwaitsDispatch r → Memory.wf s.mem → s.PortFreeFor r →
    (kindOf r = 4 → 1 ≤ (byteOf r 3).toNat → (byteOf r 3).toNat ≤ 32 → (byteOf r 2).toNat + (byteOf r 3).toNat ≤ 64 →
      ∃ t, exec .stepField s = .next t ∧
        Completes { s with check := { s.check with
          field := { startLine := (byteOf r 2).toNat, width := (byteOf r 3).toNat,
                     decode := if byteOf r 4 = 1 then .gray else .binary,
                     signedness := if byteOf r 5 = 1 then .signed else .unsigned,
                     changeLimit := halfOf r 6, retryLimit := BitVec.ofNat 3 (min (byteOf r 8).toNat 7),
                     action := if byteOf r 9 = 1 then .continue_ else if byteOf r 9 = 2 then .isolate else .halt },
          vprev := none } } t r .done) ∧
    (kindOf r = 5 →
      ¬ (byteOf r 2 = 2 ∧ (if s.check.field.signedness = .signed then (wordOf r 8).toInt < (wordOf r 4).toInt
                           else (wordOf r 8).toNat < (wordOf r 4).toNat)) →
      ∃ t, exec .stepLimits s = .next t ∧
        Completes { s with check := { s.check with
          limits := { mode := if byteOf r 2 = 1 then .equal else if byteOf r 2 = 2 then .range else .none_,
                      a := wordOf r 4, b := wordOf r 8 } } } t r .done)

/-- R86, R91, R92: GUARD sets one channel's guard, its state by the present power state; SCALE sets one channel's gain
and step limit and makes its seed pending. Both complete DONE, and nothing else changes. -/
def Obligations.GuardAndScaleSetOneChannel : Prop :=
  ∀ (s : State) (r : Record), s.AwaitsDispatch r → Memory.wf s.mem → s.PortFreeFor r →
    let i : Fin 8 := ⟨min (byteOf r 2).toNat 7, by omega⟩
    let c := s.rail.channels.get i
    (kindOf r = 7 → ∃ t ch, exec .stepGuard s = .next t ∧
      Completes { s with rail := { s.rail with channels := ch } } t r .done ∧ (∀ j, j ≠ i → ch.get j = s.rail.channels.get j) ∧
      ch.get i = { c with guard :=
        { enabled := decide (byteOf r 9 = 1), low := (halfOf r 4).toInt, high := (halfOf r 6).toInt,
          debounce := max 1 (min 15 (byteOf r 3).toNat), action := if byteOf r 8 = 1 then .isolate else .log, count := 0,
          state := if byteOf r 9 ≠ 1 then .disabled
                   else if s.power.state = .on ∨ ((i = 2 ∨ i = 3) ∧ s.power.state = .standby) then .armed
                   else .inactive } }) ∧
    (kindOf r = 8 → ∃ t ch, exec .stepScale s = .next t ∧
      Completes { s with rail := { s.rail with channels := ch } } t r .done ∧ (∀ j, j ≠ i → ch.get j = s.rail.channels.get j) ∧
      ch.get i = { c with gain := if halfOf r 4 = 0 then 1 else halfOf r 4, stepLimit := min (halfOf r 6).toNat 32767,
                          seed := true })

/-- R20, R35, R36, R55, R96: MARK and a WAIT of 0 complete DONE at once. A WAIT above 0, a SAMPLE and a RAILCHECK enter their
first phase, start their timer, strobe or average, and reach a release point. Nothing else changes. -/
def Obligations.MarkWaitSampleAndRailcheckAreDispatched : Prop :=
  (∀ (s : State) (r : Record), s.AwaitsDispatch r → Memory.wf s.mem → s.PortFreeFor r →
     (kindOf r = 12 → ∃ t, exec .stepMark s = .next t ∧ Completes s t r .done) ∧
     (kindOf r = 10 → wordOf r 2 = 0 → ∃ t, exec .stepWait s = .next t ∧ Completes s t r .done)) ∧
  (∀ (s : State) (r : Record), s.AwaitsDispatch r →
     let port := { s.port with owner := ownerReleased s }
     (kindOf r = 10 → wordOf r 2 ≠ 0 → exec .stepWait s = .next { s with
       eng := { s.eng with phase := .timing, timer := some { start := s.clock, span := (wordOf r 2).toNat } }, port := port }) ∧
     (kindOf r = 3 → exec .stepSample s = .next { s with
       eng := { s.eng with phase := .settle, timer := none }, port := port,
       probe := { s.probe with strobe := some { stage := .settle, start := s.clock, levels := 0 } } }) ∧
     (kindOf r = 6 → exec .stepRailcheck s = .next { s with
       eng := { s.eng with phase := .average, timer := none }, port := port,
       rail := { s.rail with average := some { channel := ⟨min (byteOf r 2).toNat 7, by omega⟩,
                                               count := max 1 (min 16 (byteOf r 3).toNat), sum := 0, rounds := 0 } } }))

/-- R36, R48, R49: STOP writes DONE back, sends PROGRESS and then END, moves F on without the loop end, keeps the loop
stack, clears the pause latch and ends the job with the halt index at the new F; nothing else changes. -/
def Obligations.StopEndsTheJob : Prop :=
  ∀ (s : State) (r : Record), s.AwaitsDispatch r → Memory.wf s.mem → s.PortFreeFor r → kindOf r = 13 →
    ∃ t, exec .stepStop s = .next t ∧
      t.eng = { s.eng with job := .ended, phase := .ready, copy := none, judged := none, timer := none, latch := false,
                           haltReason := none, fetchIndex := s.eng.fetchIndex + 1,
                           haltIndex := some (s.eng.fetchIndex + 1) } ∧
      t.line = lineAfterEnd (lineAfterCompletion s r .done) t.eng s.faults.queue.length ∧
      (∀ a, Memory.read t.mem a = outcomeByte s.mem s.eng.fetchIndex r .done a) ∧
      t = { s with eng := t.eng, line := t.line, port := { s.port with owner := ownerReleased s }, mem := t.mem }

/-- R25, R38, R39, R40: a REPEAT that passes the structure checks waits STARVED with its copy, the pause latch cleared, while
its body is not posted; with its body posted it completes DONE, pushing its entry, or with a count of 0 skipping past its
body end, where the loop end applies. Nothing else changes. At a loop end the entries whose body end is the record and
whose last pass this was are popped; then either the top entry goes round again or F passes the common end. -/
def Obligations.RepeatRunsOnceItsBodyIsPostedAndLoopsEnd : Prop :=
  (∀ (s : State) (r : Record), s.AwaitsDispatch r → kindOf r = 11 →
       let f := s.eng.fetchIndex
       let span : RingIndex := (byteOf r 4).setWidth 10
       let e := f + span
       span ≠ 0 → (∀ l ls, s.eng.loops = l :: ls → (e - l.bodyStart).toNat ≤ (l.bodyEnd - l.bodyStart).toNat) →
       (halfOf r 2 = 0 ∨ s.eng.loops.length < 4) →
       ((s.eng.postIndex - f).toNat ≤ (e - f).toNat → exec .stepRepeat s = .next { s with
         eng := { s.eng with job := .starved, latch := false }, port := { s.port with owner := ownerReleased s } }) ∧
       ((e - f).toNat < (s.eng.postIndex - f).toNat → Memory.wf s.mem → s.PortFreeFor r →
         ∃ t, exec .stepRepeat s = .next t ∧
           t = { s with eng := t.eng, port := t.port, line := t.line, mem := t.mem } ∧
           (halfOf r 2 ≠ 0 → GoesOn s t r .done
             ({ bodyStart := f + 1, bodyEnd := e, remaining := halfOf r 2 } :: s.eng.loops) (f + 1)) ∧
           (halfOf r 2 = 0 → GoesOn s t r .done (loopEnd s.eng.loops e).1 (loopEnd s.eng.loops e).2))) ∧
  (∀ (stack : List LoopEntry) (index : RingIndex),
       loopEnd stack index =
         match stack.dropWhile (fun l => decide (l.bodyEnd = index ∧ l.remaining.toNat ≤ 1)) with
         | [] => ([], index + 1)
         | l :: ls => if l.bodyEnd = index then ({ l with remaining := l.remaining - 1 } :: ls, l.bodyStart)
                      else (l :: ls, index + 1))

/-- R34, with the refusals of R37, R68, R69, R106 and R179: a record that cannot be run writes ILLEGAL back when REPORT
is set and halts the job ILLEGAL_STEP where it stands, with no PROGRESS, and no block takes anything from it. -/
def Obligations.RecordsThatCannotRunAreRefused : Prop :=
  ∀ (s : State) (r : Record), s.AwaitsDispatch r → Memory.wf s.mem → s.PortFreeFor r →
    let e := s.eng.fetchIndex + (byteOf r 4).setWidth 10
    (kindOf r = 0 ∨ 13 < kindOf r → ∃ t, exec .unknownStepKind s = .next t ∧ RefusesRecord s t r) ∧
    (kindOf r = 4 → byteOf r 3 = 0 ∨ 32 < (byteOf r 3).toNat ∨ 64 < (byteOf r 2).toNat + (byteOf r 3).toNat →
      ∃ t, exec .stepField s = .next t ∧ RefusesRecord s t r) ∧
    (kindOf r = 5 → byteOf r 2 = 2 →
      (if s.check.field.signedness = .signed then (wordOf r 8).toInt < (wordOf r 4).toInt
       else (wordOf r 8).toNat < (wordOf r 4).toNat) →
      ∃ t, exec .stepLimits s = .next t ∧ RefusesRecord s t r) ∧
    (kindOf r = 9 → byteOf r 2 = 1 ∨ byteOf r 2 = 2 → halfOf r 4 = 0 →
      ∃ t, exec .stepPower s = .next t ∧ RefusesRecord s t r) ∧
    (kindOf r = 11 →
      byteOf r 4 = 0 ∨
      (∃ l ls, s.eng.loops = l :: ls ∧ (l.bodyEnd - l.bodyStart).toNat < (e - l.bodyStart).toNat) ∨
      (halfOf r 2 ≠ 0 ∧ 4 ≤ s.eng.loops.length) →
      ∃ t, exec .stepRepeat s = .next t ∧ RefusesRecord s t r)

/-! ### The engine's timers and the memory port -/

/-- R35, R44: a WAIT whose milliseconds have passed completes DONE; one that finds the bench holding the port has its
write-back wait, at phase READY, and moves nothing yet (R21, R32; that the copy is discarded already, where R33 discards it
after the write-back, is the model's choice, log entry 8). A RECOVER whose delay has passed raises the attempt
number and runs the copy again as its dispatch would, with nothing fetched anew; a SAMPLE does so behind an entry of its
last attempt that still waits for the port. -/
def Obligations.WaitAndRecoverTimersRunOut : Prop :=
  ∀ (s : State) (r : Record) (k : Timer), s.eng.timer = some k → k.span ≤ (s.clock - k.start).toNat →
    (s.InPhase .timing r → EndsRecord (exec .waitExpiry s) s r .done) ∧
    (s.InPhase .recover r → kindOf r = 3 → exec .recoverExpiry s = .next { s with
      eng := { s.eng with attempt := s.eng.attempt + 1, timer := none, phase := .settle },
      port := { s.port with owner := ownerReleased s },
      probe := { s.probe with strobe := some { stage := .settle, start := s.clock, levels := 0 } } }) ∧
    (s.InPhase .recover r → s.port.waits = [] →
      let again := { s with eng := { s.eng with attempt := s.eng.attempt + 1, timer := none, phase := .ready } }
      (kindOf r = 3 → exec .recoverExpiry s = exec .stepSample again ∧ ∃ t, exec .recoverExpiry s = .next t ∧
        t.eng.attempt = s.eng.attempt + 1 ∧ t.eng.phase = .settle ∧ t.eng.copy = some r) ∧
      (kindOf r = 6 → exec .recoverExpiry s = exec .stepRailcheck again ∧ ∃ t, exec .recoverExpiry s = .next t ∧
        t.eng.attempt = s.eng.attempt + 1 ∧ t.eng.phase = .average ∧ t.eng.copy = some r) ∧
      (kindOf r = 9 → exec .recoverExpiry s = exec .stepPower again))

/-! ### POWER and its moves -/

/-- R106, R110, R111, R112: the POWER records that complete at dispatch. A powered target takes its trip limits; the move
to OFF opens both switches, releases the held draw and sets the declared draw 0; a lower declared draw is released with
a DRAW; the move from ON to STANDBY opens MAIN first. Nothing else changes. A record run again while the bench holds the
port has its write-back wait (R21; log entry 8). -/
def Obligations.PowerRecordsThatCompleteAtOnce : Prop :=
  ∀ (s : State) (r : Record), s.AwaitsDispatch r → kindOf r = 9 → s.power.move = none →
    let d := halfOf r 4
    let limit := fun x : BitVec 16 => if x = 0 ∨ 32767 < x.toNat then 32767 else x.toNat
    let limited := { s.power with mainTrip := limit (halfOf r 6), standbyTrip := limit (halfOf r 8) }
    let off := { s.power with standby := false, main := false }
    let ends := fun u : State => EndsRecord (exec .stepPower s) u r (outcomeAt s.eng.attempt .done)
    (byteOf r 2 ≠ 1 → byteOf r 2 ≠ 2 →
      (s.power.state = .off → ends s) ∧
      (s.power.state = .standby ∨ s.power.state = .on →
        ends { releasedTo { s with power := off } 0 with power := { off with state := .off, declared := 0 } })) ∧
    ((byteOf r 2 = 1 ∧ s.power.state = .standby) ∨ (byteOf r 2 = 2 ∧ s.power.state = .on) → d ≠ 0 →
      (d = s.power.declared → ends { s with power := limited }) ∧
      (d.toNat < s.power.declared.toNat → ends { releasedTo s d with power := { limited with declared := d } })) ∧
    (byteOf r 2 = 1 → s.power.state = .on → d ≠ 0 →
      (d = s.draw.held → ends { s with power := { limited with main := false, state := .standby } }) ∧
      (d.toNat < s.draw.held.toNat →
        ends { releasedTo s d with power := { limited with main := false, state := .standby, declared := d } }))

/-- R106, R107, R110, R111, R124: the POWER records that start a move. An upward move takes the trip limits, enters
ZEROING with a capture of the channels whose switches it will close, and waits in AWAIT_POWER. A higher declared draw in
the state already held, and a downward move to more than is held, ask for the own claim of the declared draw: its CLAIM is
queued, or held back behind a stale one, or lost to the line. Nothing else changes. -/
def Obligations.PowerRecordsThatStartAMove : Prop :=
  ∀ (s : State) (r : Record), s.AwaitsDispatch r → kindOf r = 9 →
    let d := halfOf r 4
    let limit := fun x : BitVec 16 => if x = 0 ∨ 32767 < x.toNat then 32767 else x.toNat
    let limited := { s.power with mainTrip := limit (halfOf r 6), standbyTrip := limit (halfOf r 8) }
    let target : PowerState := if byteOf r 2 = 1 then .standby else .on
    let move := { start := s.power.state, target := target, asked := d, ramp := max 1 (min 1000 (halfOf r 10).toNat),
                  waitLimit := byteOf r 3, stage := .zeroing, claimOrder := none : Move }
    let waiting := { s.eng with phase := .awaitPower, timer := none }
    let port := { s.port with owner := ownerReleased s }
    let claim := { heldNow := s.draw.held, asking := d, t0 := none : OwnClaim }
    let claims := fun p : Power =>
      let u := { s with
        power := { p with move := some { move with stage := .setClaim, claimOrder := some s.clock } }, eng := waiting,
        port := port }
      (∃ t, exec .stepPower s = .next t ∧ AsksClaim u t d) ∧
      (s.draw.mark = .none_ → s.line.accepts → exec .stepPower s = .next { u with
        draw := { s.draw with claim := some claim, claimState := .queued, mark := .current },
        line := { s.line with queue := joinQueue (newFrame .claim 31 (claimPayload claim)) s.line.queue } })
    d ≠ 0 → byteOf r 2 = 1 ∨ byteOf r 2 = 2 →
    (s.power.state = .off ∨ (s.power.state = .standby ∧ byteOf r 2 = 2) → exec .stepPower s = .next { s with
      power := { limited with state := .zeroing, move := some move }, eng := waiting, port := port,
      rail := { s.rail with zeroCapture := some { onMain := decide (byteOf r 2 = 2),
                                                  onStandby := decide (s.power.state = .off), sumMain := 0,
                                                  sumStandby := 0, rounds := 0 } } }) ∧
    ((byteOf r 2 = 1 ∧ s.power.state = .standby) ∨ (byteOf r 2 = 2 ∧ s.power.state = .on) →
      s.power.declared.toNat < d.toNat → claims limited) ∧
    (byteOf r 2 = 1 → s.power.state = .on → s.draw.held.toNat < d.toNat →
      claims { limited with main := false, state := .standby })

/-- R89, R105, R107, R108, R109, R124: a capture of sixteen rounds whose candidates are all 200 or below sets the zero codes
of the channels it names; the move goes on to CLAIMING with its claim asked for when it asks for more than is held, and else
to RAMPING, with STANDBY closed, MAIN closed for a target of ON, and the ramp timer started. A candidate above 200
changes no zero code, returns the Power Path to the start state with its switches as they stood, and raises BACKFEED
against the POWER record in flight, which goes into JUDGING where the fault is recorded (R41, R136 to R138). The end and
its stamp are those of the command, the model's choice where R89 has the sixteenth round's (log entry 9). -/
def Obligations.ZeroCaptureEndsDoneOrInBackfeed : Prop :=
  (∀ (s : State) (z : ZeroCapture) (m : Move), s.rail.zeroCapture = some z → z.rounds = 16 → s.power.move = some m →
     let one := (z.sumMain + 8) / 16
     let three := (z.sumStandby + 8) / 16
     let claim := { heldNow := s.draw.held, asking := m.asked, t0 := none : OwnClaim }
     (z.onMain = true → one ≤ 200) → (z.onStandby = true → three ≤ 200) →
     ∃ ch : Vector Channel 8,
       let rail := { s.rail with zeroCapture := none, channels := ch }
       ch.get 1 = { s.rail.channels.get 1 with
         zero := if z.onMain then BitVec.ofNat 12 one else (s.rail.channels.get 1).zero } ∧
       ch.get 3 = { s.rail.channels.get 3 with
         zero := if z.onStandby then BitVec.ofNat 12 three else (s.rail.channels.get 3).zero } ∧
       (∀ i, i ≠ 1 → i ≠ 3 → ch.get i = s.rail.channels.get i) ∧
       (m.asked.toNat ≤ s.draw.held.toNat → exec .zeroCaptureEnd s = .next { s with
         rail := rail,
         power := { s.power with
           state := .ramping, standby := true, main := s.power.main || decide (m.target = .on),
           move := some { m with stage := .ramping }, rampTimer := some { start := s.clock, span := m.ramp } } }) ∧
       (s.draw.held.toNat < m.asked.toNat →
         let u := { s with
           rail := rail,
           power := { s.power with state := .claiming, move := some { m with stage := .claiming, claimOrder := some s.clock } } }
         (∃ t, exec .zeroCaptureEnd s = .next t ∧ AsksClaim u t m.asked) ∧
         (s.draw.mark = .none_ → s.line.accepts → exec .zeroCaptureEnd s = .next { u with
           draw := { s.draw with claim := some claim, claimState := .queued, mark := .current },
           line := { s.line with queue := joinQueue (newFrame .claim 31 (claimPayload claim)) s.line.queue } }))) ∧
  (∀ (s : State) (r : Record) (z : ZeroCapture) (m : Move),
     s.rail.zeroCapture = some z → z.rounds = 16 → s.power.move = some m → s.eng.job = .running → s.eng.copy = some r →
     let one := (z.sumMain + 8) / 16
     let three := (z.sumStandby + 8) / 16
     let byOne := z.onMain = true ∧ 200 < one
     let info : FaultInfo :=
       { kind := .backfeed, source := .power, channel := some (if byOne then 1 else 3),
         observed := some (BitVec.ofNat 32 (if byOne then one else three)), refA := some 200, refB := none }
     let dropped := { s with rail := { s.rail with zeroCapture := none } }
     byOne ∨ (z.onStandby = true ∧ 200 < three) →
     (s.RecordsPlainly → exec .zeroCaptureEnd s = .next (judgingOn
       { dropped with power := { s.power with state := m.start, move := none } } info)) ∧
     (s.draw.claimState = .none_ → ∃ u t, Records dropped u info none ∧ exec .zeroCaptureEnd s = .next t ∧
       (s.faults.floods → t = u) ∧
       (¬ s.faults.floods → t = { u with
         power := { s.power with state := m.start, move := none },
         eng := { s.eng with phase := .judging, judged := some s.faults.nextSequence, timer := none },
         port := { s.port with owner := ownerReleased s } })))

/-- R109, R131, R32: a ramp timer that has run out leaves the target state and the declared draw of the move, releases
down to it, and completes the POWER record that waits in AWAIT_POWER, its write-back waiting while the bench holds the port
(R21; log entry 8); nothing else changes. -/
def Obligations.RampExpiryReachesTheTarget : Prop :=
  ∀ (s : State) (r : Record) (m : Move) (k : Timer), s.power.move = some m → s.power.rampTimer = some k →
    k.span ≤ (s.clock - k.start).toNat → s.InPhase .awaitPower r →
    let u := { releasedTo s m.asked with
      power := { s.power with state := m.target, declared := m.asked, move := none, rampTimer := none } }
    EndsRecord (exec .rampExpiry s) u r (outcomeAt s.eng.attempt .done)

/-! ### SAMPLE and RAILCHECK to their end -/

/-- R55, R56, R57, R60: the strobe completes at the end of SETTLE or of the hold-off wait when no qualified edge is waited
for, on the sensed levels of that instant, and at the chosen edge of the qualifier line otherwise, the QUALIFIED lanes
taking the levels just after it and the IMMEDIATE lanes keeping theirs. (Whether a settle delay in microseconds can have
passed on a clock of milliseconds is the model's reading, log entry 6.) R21: while the bench holds the port, the capture
entry or the write-back joins the accesses that wait (for the copy of a waiting write-back: log entry 8). R41, R70, R79,
R136, R137, R138, R139: a MISMATCH or JUMP is raised whatever the fault queue and the line hold, the entry and Vprev standing. -/
def Obligations.StrobeCompletesOnItsCapturedLevels : Prop :=
  ∀ (s : State) (r : Record) (b : Strobe) (points : Levels), s.probe.strobe = some b →
    let ends := fun (t : State) (levels : Levels) (qualifiedTaken : Bool) =>
      (Memory.wf s.mem → (reportFlag r = true ∨ noCaptureFlag r = false → s.port.owner ≠ .bench) →
        StrobeEnds s t r levels qualifiedTaken) ∧
      (s.port.owner = .bench → StrobeWaits s t r levels qualifiedTaken)
    let sensed := points ^^^ s.probe.polarity
    let holdOff := byteOf r 7
    let qualifier := byteOf r 5
    let released := 63 < holdOff.toNat ∨ sensed.getLsbD holdOff.toNat = false
    let immediate := s.probe.source = 0 ∨ 63 < qualifier.toNat
    (s.InPhase .settle r → settleElapsed b.start s.clock (halfOf r 2).toNat = true → released → immediate →
      ∃ t, exec (.settleEnd points) s = .next t ∧ ends t sensed false) ∧
    (s.InPhase .strobe r → b.stage = .holdOff → released → immediate →
      ∃ t, exec (.holdOffRelease points) s = .next t ∧ ends t sensed false) ∧
    (s.InPhase .strobe r → b.stage = .qualifier → qualifier.toNat ≤ 63 →
      sensed.getLsbD qualifier.toNat = decide (byteOf r 6 ≠ 1) →
      ∃ t levels, exec (.qualifierEdge points) s = .next t ∧ ends t levels true ∧
        ∀ line, line < 64 → levels.getLsbD line =
          if s.probe.source.getLsbD (line / 8) then sensed.getLsbD line else b.levels.getLsbD line)

/-- R55, R56, R57: SETTLE goes over into a hold-off wait while the hold-off line is active, and the end of the hold-off
wait into a qualifier wait, which keeps the levels of the IMMEDIATE lanes; the strobe timer runs from the end of SETTLE.
Nothing else changes. (Whether a settle delay in microseconds can have passed on a clock of milliseconds is the model's
reading, log entry 6.) -/
def Obligations.StrobeWaitsForHoldOffAndQualifier : Prop :=
  ∀ (s : State) (r : Record) (b : Strobe) (points : Levels), s.probe.strobe = some b →
    let sensed := points ^^^ s.probe.polarity
    let holdOff := byteOf r 7
    let released := 63 < holdOff.toNat ∨ sensed.getLsbD holdOff.toNat = false
    let qualified := s.probe.source ≠ 0 ∧ (byteOf r 5).toNat ≤ 63
    let into := fun stage start levels => { s with
      eng := { s.eng with phase := .strobe },
      probe := { s.probe with strobe := some { stage := stage, start := start, levels := levels } } }
    (s.InPhase .settle r → settleElapsed b.start s.clock (halfOf r 2).toNat = true →
      (¬ released → exec (.settleEnd points) s = .next (into .holdOff s.clock 0)) ∧
      (released → qualified → ∃ levels, exec (.settleEnd points) s = .next (into .qualifier s.clock levels) ∧
        ∀ line, line < 64 → s.probe.source.getLsbD (line / 8) = false → levels.getLsbD line = sensed.getLsbD line)) ∧
    (s.InPhase .strobe r → b.stage = .holdOff → released → qualified →
      ∃ levels, exec (.holdOffRelease points) s = .next (into .qualifier b.start levels) ∧
        ∀ line, line < 64 → s.probe.source.getLsbD (line / 8) = false → levels.getLsbD line = sensed.getLsbD line)

/-- R58, R59, R63, R64, R41: a strobe timer that has run out stores an entry marked TIMED_OUT with field result NONE,
lanes already captured keeping their levels, leaves the check context as it is, and raises STROBE_TIMEOUT against the
SAMPLE, which goes into JUDGING. While the bench holds the port the entry joins the accesses that wait (R21). Where the
fault cannot be recorded the job halts FAULT_FLOOD, and the entry stands in any case (R136, R137, R138,
R139). -/
def Obligations.StrobeTimeoutStoresAnEntryAndIsJudged : Prop :=
  ∀ (s : State) (r : Record) (b : Strobe) (points : Levels), s.InPhase .strobe r → s.probe.strobe = some b →
    max 1 (byteOf r 4).toNat ≤ (s.clock - b.start).toNat →
    let info : FaultInfo :=
      { kind := .strobeTimeout, source := .field, channel := some (BitVec.ofNat 6 s.check.field.startLine),
        observed := none, refA := some (if b.stage = .qualifier then 1 else 0), refB := none }
    ∃ levels t, exec (.strobeTimerExpiry points) s = .next t ∧
      (∀ line, line < 64 → levels.getLsbD line =
        if b.stage = .qualifier ∧ s.probe.source.getLsbD (line / 8) = false then b.levels.getLsbD line
        else (points ^^^ s.probe.polarity).getLsbD line) ∧
      (let entry := captureEntry s.eng.fetchIndex s.clock levels true false .none_ (mismatchMask s.probe levels)
       (Memory.wf s.mem → (noCaptureFlag r = false → s.port.owner ≠ .bench) → ∃ m, EntryStored s r entry m ∧
         RaisesFault (strobeStored s r m s.check .strobe) t info) ∧
       (noCaptureFlag r = false → s.port.owner = .bench → RaisesFault { s with
         probe := { s.probe with strobe := none },
         port := { s.port with waits := s.port.waits ++ [.capture entry none] } } t info))

/-- R96, R97, R32, R41: a RAILCHECK whose rounds are complete takes the mean rounded to the nearest with halves upward.
Inside the window the record completes PASS, or RETRIED_PASS on a retry, its write-back waiting while the bench holds the
port (R21; log entry 8); outside it the fault is recorded and the record
goes into JUDGING, where it is recorded (R136 to R138). The average is gone either way, and nothing else changes. The average is
judged and the fault stamped at the command, the model's choice where R97 has the n-th round (log entry 9). -/
def Obligations.RailcheckAverageIsJudged : Prop :=
  ∀ (s : State) (r : Record) (a : Average), s.InPhase .average r → s.rail.average = some a → a.rounds = a.count →
    1 ≤ a.count →
    let u := { s with rail := { s.rail with average := none } }
    let low := (halfOf r 4).toInt
    let high := (halfOf r 6).toInt
    ∃ mean : Int, 2 * a.count * mean ≤ 2 * a.sum + a.count ∧ 2 * a.sum + a.count < 2 * a.count * (mean + 1) ∧
      (low ≤ mean → mean ≤ high →
        EndsRecord (exec .railcheckAverageEnd s) u r (outcomeAt s.eng.attempt .pass)) ∧
      (mean < low ∨ high < mean →
        let info : FaultInfo :=
          { kind := if mean < low then .railLow else .railHigh, source := .railcheck,
            channel := some (BitVec.ofNat 6 a.channel.val), observed := some (BitVec.ofInt 32 mean),
            refA := some (BitVec.ofInt 32 low), refB := some (BitVec.ofInt 32 high) }
        (∃ t, exec .railcheckAverageEnd s = .next t ∧ JudgesFault u t info) ∧
        (s.RecordsPlainly → exec .railcheckAverageEnd s = .next (judgingOn u info)))

/-! ### The field path and the capture entry -/

/-- R71, R72, R73: a field that lies in the 64 lines is read from its start line up, a Gray code is decoded from its top
bit down, and the code is read as unsigned or as two's complement. -/
def Obligations.FieldIsExtractedDecodedAndInterpreted : Prop :=
  ∀ (f : FieldPart) (levels : Levels), 1 ≤ f.width → f.width ≤ 32 → f.startLine + f.width ≤ 64 →
    let g := extractCode f levels
    let b := fieldCode f levels
    (∀ k, k < 32 → g.getLsbD k = (decide (k < f.width) && levels.getLsbD (f.startLine + k))) ∧
    b.toNat < 2 ^ f.width ∧
    (f.decode = .binary → b = g) ∧
    (f.decode = .gray → b.getLsbD (f.width - 1) = g.getLsbD (f.width - 1) ∧
      ∀ k, k + 1 < f.width → b.getLsbD k = (g.getLsbD k ^^ b.getLsbD (k + 1))) ∧
    (f.signedness = .unsigned → fieldValue f b = b.toNat) ∧
    (f.signedness = .signed → fieldValue f b = if b.getLsbD (f.width - 1) then (b.toNat : Int) - 2 ^ f.width else b.toNat) ∧
    (f.signedness = .signed → -(2 ^ (f.width - 1) : Int) ≤ fieldValue f b ∧ fieldValue f b < 2 ^ (f.width - 1))

/-- R70, R74, R75, R76, R77: the change limit rejects on the folded difference alone and leaves the context as it is; an
accepted code becomes Vprev whatever the comparison gives, which NONE passes, EQUAL judges under the mask, and RANGE
judges with A, B and the value read alike. -/
def Obligations.FieldPathRejectsAcceptsAndCompares : Prop :=
  ∀ (c : CheckContext) (levels : Levels), 1 ≤ c.field.width → c.field.width ≤ 32 →
    let w := c.field.width
    let b := fieldCode c.field levels
    let v := fieldValue c.field b
    let read := fun x : BitVec 32 => if c.field.signedness = .signed then x.toInt else (x.toNat : Int)
    let mask := c.limits.b &&& BitVec.ofNat 32 (2 ^ w - 1)
    let passes := match c.limits.mode with
      | .none_ => True
      | .equal => b &&& mask = c.limits.a &&& mask
      | .range => read c.limits.a ≤ v ∧ v ≤ read c.limits.b
    let accepted := (fieldPath c levels).2 = { c with vprev := some b } ∧
      (passes → (fieldPath c levels).1 = .pass) ∧ (¬ passes → (fieldPath c levels).1 = .mismatch)
    (c.vprev = none ∨ c.field.changeLimit = 0 → accepted) ∧
    (∀ p, c.vprev = some p → c.field.changeLimit ≠ 0 →
      ∃ d : Int, (2 ^ w : Int) ∣ ((b.toNat : Int) - p.toNat - d) ∧ -(2 ^ (w - 1) : Int) ≤ d ∧ d < 2 ^ (w - 1) ∧
        (c.field.changeLimit.toNat < d.natAbs → fieldPath c levels = (.jump, c)) ∧
        (d.natAbs ≤ c.field.changeLimit.toNat → accepted))

/-- R59, R63, R181: the sixteen bytes of a capture entry, byte by byte, its mismatch mask lane by lane. -/
def Obligations.CaptureEntryIsLaidOutByteByByte : Prop :=
  ∀ (p : Probe) (step : RingIndex) (stamp : Time) (levels : Levels) (timedOut taken : Bool) (result : FieldResult),
    let e := captureEntry step stamp levels timedOut taken result (mismatchMask p levels)
    halfOf e 0 = step.setWidth 16 ∧ wordOf e 2 = stamp ∧
    (∀ lane, lane < 8 → byteOf e (6 + lane) = laneOf levels lane) ∧
    (byteOf e 14).toNat = timedOut.toNat + 2 * taken.toNat + 4 * result.code ∧
    (∀ lane, lane < 8 → ((byteOf e 15).getLsbD lane = true ↔
      ∃ k, k < 8 ∧ p.direction.getLsbD (8 * lane + k) = true ∧
        levels.getLsbD (8 * lane + k) ≠ p.drive.getLsbD (8 * lane + k)))

/-! ### The Fault Recorder's judgement -/

/-- R42, R43, R44, R146: a step fault's class acts on an engine in JUDGING on its sequence, by the action and the retry
limit of the check context, and on no other. R21, R32: a completion that finds the bench holding the port has its write-back
wait, with what the class brings to follow it, and moves nothing yet (the copy is discarded at once: log entry 8). -/
def Obligations.JudgementReachesTheJudgingEngine : Prop :=
  ∀ (s : State) (r : FaultRecord) (q : List FaultRecord) (x : Record), s.JudgedNow r q → r.info.source ≠ .guard →
    r.info.kind ≠ .trip → r.info.kind ≠ .overdraw →
    let u := { s with faults := { s.faults with queue := q } }
    let board := (judgedRecord s r).cls = .board
    (¬ (s.eng.job = .running ∧ s.eng.phase = .judging ∧ s.eng.judged = some r.sequence) →
      exec .coincidenceJudgement s = .next u) ∧
    (s.InPhase .judging x → s.eng.judged = some r.sequence → ¬ board →
      s.eng.attempt.toNat < s.check.field.retryLimit.toNat → exec .coincidenceJudgement s = .next { u with
        eng := { s.eng with phase := .recover, judged := none,
                            timer := some { start := s.clock, span := s.line.params.settleDelay } },
        port := { s.port with owner := ownerReleased s } }) ∧
    (s.InPhase .judging x → s.eng.judged = some r.sequence → reportFlag x = true → s.port.owner = .bench →
      (board → s.check.field.action = .continue_ →
        exec .coincidenceJudgement s = .next (writeBackWaiting u x .fail .advance)) ∧
      (board → s.check.field.action = .halt →
        exec .coincidenceJudgement s = .next (writeBackWaiting u x .fail (.halt .faultHalt))) ∧
      (board → s.check.field.action = .isolate →
        exec .coincidenceJudgement s = .next (writeBackWaiting u x .fail .isolate)) ∧
      (¬ board → s.check.field.retryLimit.toNat ≤ s.eng.attempt.toNat →
        exec .coincidenceJudgement s = .next (writeBackWaiting u x .rack (.halt .rackUnstable)))) ∧
    (s.InPhase .judging x → s.eng.judged = some r.sequence → Memory.wf s.mem → s.PortFreeFor x →
      ∃ t, exec .coincidenceJudgement s = .next t ∧
        (board → s.check.field.action = .continue_ → Completes u t x .fail) ∧
        (board → s.check.field.action = .halt → HaltsCompleted u t x .fail .faultHalt) ∧
        (board → s.check.field.action = .isolate → s.power.state = .off ∨ s.power.state = .tripped →
          HaltsCompleted u t x .fail .isolated) ∧
        (board → s.check.field.action = .isolate → s.power.state ≠ .off → s.power.state ≠ .tripped →
          t.eng = haltedEngine s.eng .isolated ∧ t.power.state = .off ∧ t.power.standby = false ∧ t.power.main = false ∧
          t.power.declared = 0 ∧ t.power.move = none ∧ t.draw.held = 0 ∧
          (∀ a, Memory.read t.mem a = outcomeByte s.mem s.eng.fetchIndex x .fail a) ∧
          (let off := poweredDown { u with line := lineAfterCompletion s x .fail } .off
           t = { off with eng := t.eng, mem := t.mem, port := { s.port with owner := ownerReleased s },
                          line := lineAfterEnd off.line t.eng s.faults.queue.length })) ∧
        (¬ board → s.check.field.retryLimit.toNat ≤ s.eng.attempt.toNat → HaltsCompleted u t x .rack .rackUnstable))

/-- R143, R144: once its window end is reached the oldest PROVISIONAL record is classed by the distinct peers with a
notice within W on either side of its stamp; no other record, count or notice changes. R115, R146, R147: a guard record
classed BOARD under ISOLATE powers a powered board down, with its DRAW frames, and halts an active job ISOLATED, with its END
report and ABORTED written back; a guard record classed RACK, held as LOG or finding the board unpowered, and the class of a
TRIP or an OVERDRAW, change nothing further. -/
def Obligations.JudgementClassesTheOldestRecordAndIsolatesForGuards : Prop :=
  (∀ (s : State) (r : FaultRecord) (q : List FaultRecord), s.JudgedNow r q →
       ∃ t, exec .coincidenceJudgement s = .next t ∧ t.faults = { s.faults with queue := q } ∧
         t.clock = s.clock ∧ t.check = s.check ∧ t.bench = s.bench ∧ t.rail.channels = s.rail.channels ∧
         t.draw.table = s.draw.table ∧ t.probe = { s.probe with strobe := t.probe.strobe }) ∧
  (∀ (s : State) (r : FaultRecord) (q : List FaultRecord), s.JudgedNow r q →
       let u := { s with faults := { s.faults with queue := q } }
       let isolates := (judgedRecord s r).cls = .board ∧ r.guardAction = some .isolate ∧ s.power.state ≠ .off ∧
         s.power.state ≠ .tripped
       (r.info.source ≠ .guard → r.info.kind = .trip ∨ r.info.kind = .overdraw → exec .coincidenceJudgement s = .next u) ∧
       (r.info.source = .guard → ¬ isolates → exec .coincidenceJudgement s = .next u) ∧
       (r.info.source = .guard → isolates → ∃ t, exec .coincidenceJudgement s = .next t ∧
         t.power.state = .off ∧ t.power.standby = false ∧ t.power.main = false ∧ t.power.declared = 0 ∧ t.power.move = none ∧
         t.power.mainTrip = s.power.mainTrip ∧ t.power.standbyTrip = s.power.standbyTrip ∧ t.draw.held = 0 ∧
         t.draw.table = s.draw.table ∧ t.faults = u.faults ∧ t.rail.channels = s.rail.channels ∧
         t.eng = (if s.eng.job.active = true then haltedEngine s.eng .isolated else s.eng) ∧
         (Memory.wf s.mem → ∀ a, a ≠ 16 * s.eng.fetchIndex.toNat + 14 → a ≠ 16 * s.eng.fetchIndex.toNat + 15 →
           Memory.read t.mem a = Memory.read s.mem a) ∧ HaltsAbandoning (poweredDown u .off) t .isolated))

/-! ### Frames from the line -/

/-- R119, R120, R121, R122, R140, R141: after SETUP a peer's FAIL joins the notice list, the oldest of 64 entries making
room, and its CLAIM, DRAW and JOIN set its draw table entry; a JOIN is answered with a DRAW while draw is held. Nothing
else changes, and before SETUP nothing at all, but for the frame on the line having ended (R156, log entry 22). -/
def Obligations.PeerFramesReachTheListAndTheTable : Prop :=
  ∀ (s : State) (x : Fin 30) (dest : BitVec 5) (b0 b1 b2 b3 b4 : Byte), x.val ≠ s.line.slot.toNat →
    let source := BitVec.ofNat 5 x.val
    let notice := { slot := x, arrival := s.clock : Notice }
    let u := afterFrame s
    let sets := fun (o : Host.Outcome State Fault Refusal) (e : PeerEntry) (l : LinePort) => ∃ table, o = .next { s with
      draw := { s.draw with table := table }, line := l } ∧ table.get x = e ∧ ∀ y, y ≠ x → table.get y = s.draw.table.get y
    (s.line.isSet = false →
      exec (.frameFail source dest [b0, b1, b2, b3, b4]) s = .next u ∧ exec (.frameClaim source dest [b0, b1, b2, b3]) s = .next u ∧
      exec (.frameDraw source dest [b0, b1]) s = .next u ∧ exec (.frameJoin source dest []) s = .next u) ∧
    (s.line.isSet = true →
      (s.faults.notices.length < 64 → exec (.frameFail source dest [b0, b1, b2, b3, b4]) s = .next { u with
        faults := { s.faults with notices := s.faults.notices ++ [notice] } }) ∧
      (64 ≤ s.faults.notices.length → exec (.frameFail source dest [b0, b1, b2, b3, b4]) s = .next { u with
        faults := { s.faults with
          notices := s.faults.notices.tail ++ [notice],
          noticeOverflow := if s.faults.noticeOverflow = 255 then 255 else s.faults.noticeOverflow + 1 } }) ∧
      sets (exec (.frameClaim source dest [b0, b1, b2, b3]) s)
        { held := b1 ++ b0, pending := some { asking := b3 ++ b2,
                                              expiry := s.clock + BitVec.ofNat 32 s.line.params.claimWindow,
                                              beforeMine := decide (s.draw.claimState ≠ .claiming) } } u.line ∧
      sets (exec (.frameDraw source dest [b0, b1]) s) { held := b1 ++ b0, pending := none } u.line ∧
      sets (exec (.frameJoin source dest []) s) { held := 0, pending := none }
        (if s.draw.held = 0 then u.line else (u.line.offer (newFrame .draw 31 (drawPayload s.draw.held))).1))

/-- R159, R164, R165: a SETUP from the bench, addressed to all or to the own slot, sets the five parameters within their
ranges and queues a JOIN when the station is UNSET, and changes nothing when it is SET, but for the frame on the line
having ended either way (R156, log entry 22). -/
def Obligations.SetupIsTakenOnce : Prop :=
  ∀ (s : State) (dest : BitVec 5) (b0 b1 b2 b3 b4 b5 b6 b7 : Byte),
    dest = 31 ∨ (dest = s.line.slot ∧ s.line.slot.toNat < 30) →
    let half := fun hi lo : Byte => (hi ++ lo : BitVec 16).toNat
    (s.line.isSet = true → exec (.frameSetup 30 dest [b0, b1, b2, b3, b4, b5, b6, b7]) s =
      .next (afterFrame s)) ∧
    (s.line.isSet = false → exec (.frameSetup 30 dest [b0, b1, b2, b3, b4, b5, b6, b7]) s = .next { s with
      line := ({ s.line with
        cutOwn := false, isSet := true,
        params := { budget := max 1 (half b1 b0), claimWindow := max 10 (min 1000 (half b3 b2)),
                    coincidence := max 1 b4.toNat, quorum := max 1 (min 29 b5.toNat), settleDelay := half b7 b6 } }
        |>.offer (newFrame .join 31 [])).1 })

/-- R126, R156, R158, R159, R163: a frame read with a length above 32 or a wrong check counts as received bad, but not at the
station that cut it; a good frame of an unassigned kind or of a wrong length for its kind counts as received bad; a good
frame of a peer kind that carries the own slot sets the duplicate flag and drops the whole transmit queue, an own CLAIM in
it reported; good frames that no rule takes, by their kind, their source or their destination, are passed over. (A frame is
judged alike by whatever row names it, log entry 5; that the own cut frame is over at the next frame's end, log entry 22.) -/
def Obligations.BadDuplicateAndPassedOverFrames : Prop :=
  ∀ s : State,
    let bad := { afterFrame s with line := { (afterFrame s).line with
      receivedBad := if s.line.receivedBad = 255 then 255 else s.line.receivedBad + 1 } }
    (∀ raw : RawFrame, raw.wf = true →
      32 < raw.length.toNat ∨ raw.check ≠ checkValue (checkedBits raw.dest raw.kind raw.length raw.payload) →
      (s.line.cutOwn = false → exec (.frameReceivedBad raw.toFrame raw.toFraming) s = .next bad) ∧
      (s.line.cutOwn = true → exec (.frameReceivedBad raw.toFrame raw.toFraming) s = .next (afterFrame s))) ∧
    (∀ (i : Instr) (f : Frame), frameRead i = some f → f.wf = true →
      (f.kind.toNat = 14 ∨ f.kind.toNat = 15 ∨ (f.kind.toNat = 0 ∧ f.payload.length ≠ 5) ∨
       (f.kind.toNat = 1 ∧ f.payload.length ≠ 4) ∨ (f.kind.toNat = 2 ∧ f.payload.length ≠ 2) ∨
       (f.kind.toNat = 3 ∧ f.payload.length ≠ 0) ∨ (f.kind.toNat = 4 ∧ f.payload.length ≠ 8) → exec i s = .next bad) ∧
      (isPeerFrame f → f.source = s.line.slot → s.line.slot.toNat < 30 →
        ∃ t n, exec i s = .next t ∧ n.toNat = min 255 (s.line.notSent.toNat + s.line.queue.length) ∧
          (let u := { s with line := { s.line with duplicate := true, queue := [], notSent := n, cutOwn := false } }
           ((∀ g ∈ s.line.queue, g.kind ≠ .claim) → t = u) ∧
           ((∃ g ∈ s.line.queue, g.kind = .claim) → ReportsClaimDropped u t))) ∧
      (f.kind.toNat = 12 ∨ f.kind.toNat = 13 ∨ (isPeerFrame f ∧ 30 ≤ f.source.toNat) ∨
       ((5 ≤ f.kind.toNat ∧ f.kind.toNat ≤ 11 ∨ f.kind.toNat = 4 ∧ f.payload.length = 8) ∧
        (f.source ≠ 30 ∨ ¬ s.line.addressedBy f)) → exec i s = .next (afterFrame s)))

/-- R159, R168: a bench request from source 30 to all or to the own slot joins the tail of the request queue, marked to
all for destination 31, and enters service when none is in service; a fifth one is discarded and counted. (The frame on the
line has ended either way: R156, log entry 22.) -/
def Obligations.BenchRequestsJoinTheQueueOfFour : Prop :=
  ∀ (s : State) (k : FrameKind) (dest : BitVec 5) (p : List Byte), p.length ≤ 32 →
    k = .load ∨ k = .post ∨ k = .peek ∨ k = .control ∨ k = .query ∨ k = .faultRead ∨ k = .faultTrim →
    dest = 31 ∨ (dest = s.line.slot ∧ s.line.slot.toNat < 30) →
    let frame := { source := 30, dest := dest, kind := k.code, payload := p : Frame }
    (s.bench.queue.length < 4 → exec (.benchRequestArrival frame) s = .next { afterFrame s with
      bench := { s.bench with
        queue := s.bench.queue ++ [{ kind := k, payload := p, toAll := decide (dest = 31) }],
        service := if s.bench.service = .idle then .checking else s.bench.service } }) ∧
    (4 ≤ s.bench.queue.length → exec (.benchRequestArrival frame) s = .next { afterFrame s with
      bench := { s.bench with discarded := if s.bench.discarded = 255 then 255 else s.bench.discarded + 1 } })

/-! ### The Draw Unit's timers and the own claim -/

/-- R123, R129: a peer's pending record that has expired puts its asking total into the peer's held draw; a backoff that
has run out hands the kept claim's CLAIM to the port anew, where the line may lose it (R126). Nothing else changes. -/
def Obligations.PendingAndBackoffTimersRunOut : Prop :=
  ∀ s : State,
    (∀ (x : Fin 30) (p : PendingClaim), (s.draw.table.get x).pending = some p → reached s.clock p.expiry = true →
      ∃ table, exec (.pendingExpiry x) s = .next { s with draw := { s.draw with table := table } } ∧
        table.get x = { held := p.asking, pending := none } ∧ ∀ y, y ≠ x → table.get y = s.draw.table.get y) ∧
    (∀ (at' : Time) (c : OwnClaim), s.draw.claimState = .deferred → s.draw.backoffTimer = some at' →
      reached s.clock at' = true → s.draw.claim = some c →
      let u := { s with draw := { s.draw with claimState := .queued, backoffTimer := none } }
      (∃ t, exec .backoffExpiry s = .next t ∧ HandsClaim u t c) ∧
      (s.line.accepts → exec .backoffExpiry s = .next { u with
        draw := { u.draw with mark := .current },
        line := { s.line with queue := joinQueue (newFrame .claim 31 (claimPayload c)) s.line.queue } }))

/-- R127, R128, R108, R109, R110: when its window runs out the own claim is judged on the exact sum of its asking total
and the peers' shares. A sum within the budget grants it and the move goes on; a sum above it sends the withdrawal, and
the claim is deferred for its backoff, or ended DRAW_DENIED when the draw wait limit has passed, with END and ABORTED.
(That a denied SET_CLAIM leaves the power state as it stands, where R108 names the start state, is deduced from R110 and
R111: log entry 17.) A granted SET_CLAIM completes its POWER, the write-back waiting while the bench holds the port (R21;
log entry 8). -/
def Obligations.ClaimIsJudgedAgainstTheBudget : Prop :=
  ∀ (s : State) (c : OwnClaim) (m : Move) (at' : Time), s.draw.claimState = .claiming → s.draw.claim = some c →
    s.draw.windowTimer = some at' → reached s.clock at' = true → s.power.move = some m →
    let share := fun e : PeerEntry => match e.pending with
      | some p => if p.beforeMine = true then p.asking.toNat else e.held.toNat
      | none => e.held.toNat
    let sum := c.asking.toNat + (s.draw.table.toList.map share).sum
    let granted := { s.draw with held := c.asking, claim := none, claimState := .none_, windowTimer := none }
    let withdrawn := (s.line.offer (newFrame .draw 31 (drawPayload s.draw.held))).1
    let denied := ∃ t0, m.claimOrder = some t0 ∧ m.waitLimit ≠ 0 ∧ 1000 * m.waitLimit.toNat < (s.clock - t0).toNat
    (sum ≤ s.line.params.budget → m.stage ≠ .setClaim → exec .claimJudgement s = .next { s with
      draw := granted,
      power := { s.power with
        state := .ramping, standby := true, main := s.power.main || decide (m.target = .on),
        move := some { m with stage := .ramping }, rampTimer := some { start := s.clock, span := m.ramp } } }) ∧
    (sum ≤ s.line.params.budget → m.stage = .setClaim → ∀ r, s.InPhase .awaitPower r →
      EndsRecord (exec .claimJudgement s)
        { s with draw := granted, power := { s.power with declared := m.asked, move := none } } r
        (outcomeAt s.eng.attempt .done)) ∧
    (s.line.params.budget < sum → ¬ denied → exec .claimJudgement s = .next { s with
      line := withdrawn,
      draw := { s.draw with
        claimState := .deferred, claim := some { c with t0 := none }, windowTimer := none,
        backoffTimer := some (s.clock + BitVec.ofNat 32 (s.line.params.claimWindow + 8 * s.line.slot.toNat)) } }) ∧
    (s.line.params.budget < sum → denied → ∃ t, exec .claimJudgement s = .next t ∧
      t.draw = { s.draw with claim := none, claimState := .none_, windowTimer := none, backoffTimer := none } ∧
      t.power = { s.power with move := none, state := if m.stage = .setClaim then s.power.state else m.start } ∧
      t.eng = (if s.eng.job.active = true then haltedEngine s.eng .drawDenied else s.eng) ∧
      t.line = (if s.eng.job.active = true then lineAfterEnd withdrawn t.eng s.faults.queue.length else withdrawn) ∧
      (Memory.wf s.mem → ∀ a, a ≠ 16 * s.eng.fetchIndex.toNat + 14 → a ≠ 16 * s.eng.fetchIndex.toNat + 15 →
        Memory.read t.mem a = Memory.read s.mem a)) ∧
    (s.line.params.budget < sum → ∃ t, exec .claimJudgement s = .next t ∧ RefusesClaim s t c)

/-! ### Sending -/

/-- R154, R155, R156, R157, R125: the head of the queue enters transmission; a lost contention puts the frame back where
it stands; a bit error counts an attempt, the sixteenth drops the frame, and the frame cut stands on the line as the station's
own (log entry 22); a sent frame leaves the queue, and the own
CLAIM, when taken, starts its window. -/
def Obligations.FramesAreSentFromTheQueue : Prop :=
  ∀ (s : State) (f : TxFrame) (ahead behind : List TxFrame),
    let with' := fun q => { s with line := { s.line with queue := q } }
    (s.line.mute = false → (∀ g ∈ f :: behind, g.sending = false) → s.line.queue = f :: behind →
      exec .frameBegin s = .next { s with
        line := { s.line with queue := { f with sending := true } :: behind, cutOwn := false } }) ∧
    (s.line.queue = ahead ++ f :: behind → (∀ g ∈ ahead, g.sending = false) → f.sending = true →
      exec .contentionLost s = .next (with' (ahead ++ { f with sending := false } :: behind)) ∧
      (f.attempts < 15 →
        exec .bitError s = .next { s with line := { s.line with
          queue := ahead ++ { f with sending := false, attempts := f.attempts + 1 } :: behind, cutOwn := true } }) ∧
      (15 ≤ f.attempts → f.kind ≠ .claim → exec .bitError s = .next { s with line := { s.line with
        queue := ahead ++ behind, notSent := if s.line.notSent = 255 then 255 else s.line.notSent + 1, cutOwn := true } }) ∧
      (f.kind ≠ .claim → exec .frameSent s = .next (with' (ahead ++ behind))) ∧
      (f.kind = .claim → exec .frameSent s = exec .ownClaimTaken s) ∧
      (f.kind = .claim → s.draw.mark = .current → s.draw.claimState = .queued → ∀ c, s.draw.claim = some c →
        exec .ownClaimTaken s = .next { with' (ahead ++ behind) with
          draw := { s.draw with
            mark := .none_, claimState := .claiming, claim := some { c with t0 := some s.clock },
            windowTimer := some (s.clock + BitVec.ofNat 32 s.line.params.claimWindow) } }) ∧
      (f.kind = .claim → s.draw.mark = .stale → s.draw.claimState = .none_ →
        exec .ownClaimTaken s = .next { with' (ahead ++ behind) with draw := { s.draw with mark := .none_ } }))

/-- R126, R125, R129, R161, R156: an own CLAIM that leaves the port without being taken, dropped at its sixteenth bit error or
shed for a fault's FAIL notice, is reported: the present claim's is lost and refused, an abandoned claim's leaves no mark,
and a claim held back behind it is handed over. A stale frame that is taken lets the held-back claim go the same way. A
station that may send nothing loses the claim it hands over at once. (The mark of the frame cut at the bit error: log
entry 22.) -/
def Obligations.OwnClaimFramesAreLostOrLetTheNextOneGo : Prop :=
  ∀ (s : State) (f : TxFrame) (ahead behind : List TxFrame),
    let more := if s.line.notSent = 255 then 255 else s.line.notSent + 1
    (s.line.queue = ahead ++ f :: behind → (∀ g ∈ ahead, g.sending = false) → f.sending = true → f.kind = .claim →
      (15 ≤ f.attempts → ∃ t, exec .bitError s = .next t ∧ ReportsClaimDropped
        { s with line := { s.line with queue := ahead ++ behind, notSent := more, cutOwn := true } } t) ∧
      (∀ c, s.draw.mark = .stale → s.draw.claimState = .queued → s.draw.claim = some c →
        ∃ t, exec .ownClaimTaken s = .next t ∧ HandsClaim { s with
          line := { s.line with queue := ahead ++ behind }, draw := { s.draw with mark := .none_ } } t c)) ∧
    (∀ i : Fin 8,
      let c := s.rail.channels.get i
      let info : FaultInfo :=
        { kind := if c.filtered < c.guard.low then .railLow else .railHigh, source := .guard,
          channel := some (BitVec.ofNat 6 i.val), observed := some (BitVec.ofInt 32 c.filtered),
          refA := some (BitVec.ofInt 32 c.guard.low), refB := some (BitVec.ofInt 32 c.guard.high) }
      ∀ (l : LinePort) (lost : TxFrame), c.guard.state = .armed → c.guard.debounce ≤ c.guard.count →
        s.faults.queue.length < 32 → lost.kind = .claim →
        s.line.offer (newFrame .fail 31 (failPayload info s.faults.nextSequence)) = (l, some lost) →
        ∃ t, exec (.guardFault i) s = .next t ∧ ReportsClaimDropped { s with
          rail := { s.rail with channels := t.rail.channels }, line := l,
          faults := { s.faults with queue := s.faults.queue ++ [freshRecord s info (some c.guard.action)],
                                    nextSequence := sequenceAfter s.faults.nextSequence } } t) ∧
    (∀ (at' : Time) (c : OwnClaim), 30 ≤ s.line.slot.toNat ∨ s.line.duplicate = true → s.draw.claimState = .deferred →
      s.draw.backoffTimer = some at' → reached s.clock at' = true → s.draw.claim = some c →
      ∃ t, exec .backoffExpiry s = .next t ∧ RefusesClaim { s with
        line := { s.line with notSent := more },
        draw := { s.draw with claimState := .queued, backoffTimer := none, mark := .none_ } } t c)

/-- R160, R161, R162: a station that transmits nothing drops a frame handed to it; a queue with room takes it behind the
frames of its own class; a queue of eight loses the newest idle frame of its least urgent class when that class is less
urgent than the new frame's, and the new frame otherwise. Each loss is counted. -/
def Obligations.TransmitQueueTakesShedsAndDrops : Prop :=
  ∀ (l : LinePort) (f : TxFrame),
    let counted := { l with notSent := if l.notSent = 255 then 255 else l.notSent + 1 }
    (30 ≤ l.slot.toNat ∨ l.duplicate = true → l.offer f = (counted, some f)) ∧
    (l.slot.toNat < 30 → l.duplicate = false → l.queue.Pairwise (fun ahead behind => ahead.kind.cls ≤ behind.kind.cls) →
      l.queue.countP (fun g => g.sending) ≤ 1 →
      (l.queue.length < 8 → ∃ ahead behind, l.queue = ahead ++ behind ∧
        l.offer f = ({ l with queue := ahead ++ f :: behind }, none) ∧
        (∀ g ∈ ahead, g.kind.cls ≤ f.kind.cls) ∧ (∀ g ∈ behind, f.kind.cls < g.kind.cls)) ∧
      (8 ≤ l.queue.length → ∃ ahead lost behind, l.queue = ahead ++ lost :: behind ∧ lost.sending = false ∧
        (∀ g ∈ behind, g.sending = true) ∧
        (f.kind.cls < lost.kind.cls → l.offer f = ({ counted with queue := joinQueue f (ahead ++ behind) }, some lost)) ∧
        (lost.kind.cls ≤ f.kind.cls → l.offer f = (counted, some f))))

/-! ### Bench requests -/

/-- R10, R11, R12, R14, R30, R19, R169: the admitted LOAD, PEEK and POST. A LOAD clear of the capture buffer and of every
live record, and a PEEK inside memory, ask for the port, which passes at once at a release point, and wait for it. A POST
within the free count moves P and is answered; a job STARVED at F equal to P then runs again and fetches, and one STARVED on a
REPEAT goes on with it once its body is posted. -/
def Obligations.LoadPeekAndPostAreAdmitted : Prop :=
  ∀ (s : State) (q : Request) (rest : List Request), s.Serves q rest →
    let p := q.payload
    let a := leAt 2 p 0
    let asks := { s with
      bench := { s.bench with service := .waitingPort },
      port := { s.port with owner := if s.eng.job ≠ .running ∨ s.eng.phase ≠ .ready then .bench else .asked } }
    let live := fun record : RingIndex => (record - s.eng.retain).toNat < (s.eng.postIndex - s.eng.retain).toNat
    let index : RingIndex := BitVec.ofNat 10 a
    let moved := (index - s.eng.postIndex).toNat
    let posted := { s with eng := { s.eng with postIndex := index } }
    (q.kind = .load → 3 ≤ p.length → a + p.length - 3 < 16384 →
      (∀ n, a / 16 ≤ n → n ≤ (a + p.length - 3) / 16 → ¬ live (BitVec.ofNat 10 n)) → exec .serveLoad s = .next asks) ∧
    (q.kind = .peek → p.length = 3 → 1 ≤ (byteAt p 2).toNat → (byteAt p 2).toNat ≤ 30 →
      a + (byteAt p 2).toNat ≤ 24576 → exec .servePeek s = .next asks) ∧
    (q.kind = .post → p.length = 2 → a ≤ 1023 → moved ≤ 1023 - (s.eng.postIndex - s.eng.retain).toNat →
      (moved = 0 ∨ s.eng.job ≠ .starved → exec .servePost s = .next (answered posted q rest [6, 0])) ∧
      (moved ≠ 0 → s.eng.job = .starved → s.eng.copy = none → s.eng.fetchIndex = s.eng.postIndex →
        s.port.owner = .engine → exec .servePost s = .next (answered { posted with eng := { posted.eng with
          job := .running, copy := some (Memory.record s.mem (16 * s.eng.fetchIndex.toNat)) } } q rest [6, 0])) ∧
      (∀ r, moved ≠ 0 → s.eng.job = .starved → s.eng.copy = some r →
        let f := s.eng.fetchIndex
        let e := f + (byteOf r 4).setWidth 10
        ((index - f).toNat ≤ (e - f).toNat → exec .servePost s = .next (answered posted q rest [6, 0])) ∧
        ((e - f).toNat < (index - f).toNat → s.port.owner = .engine → Memory.wf s.mem →
          let u := { posted with eng := { posted.eng with job := .running } }
          ∃ t, exec .servePost s = .next (answered t q rest [6, 0]) ∧
            t = { u with eng := t.eng, port := t.port, line := t.line, mem := t.mem } ∧
            (halfOf r 2 ≠ 0 → GoesOn u t r .done
              ({ bodyStart := f + 1, bodyEnd := e, remaining := halfOf r 2 } :: s.eng.loops) (f + 1)) ∧
            (halfOf r 2 = 0 → GoesOn u t r .done (loopEnd s.eng.loops e).1 (loopEnd s.eng.loops e).2))))

/-- R10, R11, R14, R17, R24 to R28, R170, R171, R173: the refusals, by the first check that fails, with the code in the
reply and nothing else changed. -/
def Obligations.RequestsAreRefusedByTheFirstFailedCheck : Prop :=
  ∀ (s : State) (q : Request) (rest : List Request), s.Serves q rest →
    let p := q.payload
    let a := leAt 2 p 0
    let m := (byteAt p 2).toNat
    let refused := fun kind code : Byte => Host.Outcome.next (answered s q rest [kind, 1, code])
    let deny := fun action code : Byte => Host.Outcome.next (answered s q rest [8, 1, code, action])
    (q.kind = .load →
      (p.length < 3 → exec .serveLoad s = refused 5 7) ∧
      (3 ≤ p.length → 24575 < a + p.length - 3 → exec .serveLoad s = refused 5 6) ∧
      (3 ≤ p.length → 16384 ≤ a + p.length - 3 → a + p.length - 3 ≤ 24575 → exec .serveLoad s = refused 5 5) ∧
      (3 ≤ p.length → a + p.length - 3 < 16384 → ∀ n, a / 16 ≤ n → n ≤ (a + p.length - 3) / 16 →
        (BitVec.ofNat 10 n - s.eng.retain).toNat < (s.eng.postIndex - s.eng.retain).toNat →
        exec .serveLoad s = refused 5 3)) ∧
    (q.kind = .peek →
      (p.length ≠ 3 ∨ m = 0 ∨ 30 < m → exec .servePeek s = refused 7 7) ∧
      (p.length = 3 → m ≠ 0 → m ≤ 30 → 24576 < a + m → exec .servePeek s = refused 7 6)) ∧
    (q.kind = .post →
      (p.length ≠ 2 → exec .servePost s = refused 6 7) ∧
      (p.length = 2 → 1023 < a → exec .servePost s = refused 6 6) ∧
      (p.length = 2 → a ≤ 1023 → 1023 - (s.eng.postIndex - s.eng.retain).toNat < (BitVec.ofNat 10 a - s.eng.postIndex).toNat →
        exec .servePost s = refused 6 4)) ∧
    (q.kind = .query →
      (p.head? = some 1 → p.length ≠ 1 → exec .serveQueryStatus s = refused 9 7) ∧
      (p.head? = some 2 → p.length ≠ 1 → exec .serveQueryReadings s = refused 9 7) ∧
      (p.head? ≠ some 1 → p.head? ≠ some 2 → p.length ≠ 1 → exec .serveQueryUnknown s = refused 9 7)) ∧
    (q.kind = .faultRead → p.length ≠ 1 → exec .serveFaultRead s = refused 10 7) ∧
    (q.kind = .faultTrim → p.length ≠ 1 → exec .serveFaultTrim s = refused 11 7) ∧
    (q.kind = .control →
      (p.head? = some 1 → p.length ≠ 1 → exec .serveStart s = deny 1 7) ∧
      (p.head? = some 2 → p.length ≠ 1 → exec .servePause s = deny 2 7) ∧
      (p.head? = some 3 → p.length ≠ 1 → exec .serveResume s = deny 3 7) ∧
      (p.head? = some 4 → p.length ≠ 1 → exec .serveAbort s = deny 4 7) ∧
      (p.head? = some 5 → p.length ≠ 1 → exec .serveClear s = deny 5 7) ∧
      (p = [1] → s.line.isSet = false → exec .serveStart s = deny 1 1) ∧
      (p = [1] → s.line.isSet = true → s.eng.job ≠ .idle → exec .serveStart s = deny 1 2) ∧
      (p = [2] → s.eng.job = .idle ∨ s.eng.job = .halted ∨ s.eng.job = .ended → exec .servePause s = deny 2 2) ∧
      (p = [3] → s.eng.job ≠ .paused → s.eng.job ≠ .running ∨ s.eng.latch = false → exec .serveResume s = deny 3 2) ∧
      (p = [4] → s.eng.job.active = false → exec .serveAbort s = deny 4 2) ∧
      (p = [5] → s.eng.job.active = true → exec .serveClear s = deny 5 2) ∧
      (p.head? = some 6 → p.length ≠ 3 → exec .serveRing s = deny 6 7) ∧
      (p.head? = some 6 → p.length = 3 → 1023 < leAt 2 p 1 → exec .serveRing s = deny 6 6) ∧
      (p.head? = some 6 → p.length = 3 → leAt 2 p 1 ≤ 1023 → s.eng.job ≠ .idle → exec .serveRing s = deny 6 2))

/-- R13, R19, R21, R171, R172, R183: at the grant the whole LOAD is written or the whole PEEK read, the port returns, the
reply goes out, and a fetch that waited for the port is made, by a job that still runs. A LOAD or PEEK that enters service
at such a return asks before the fetch (R21, last sentence; log entry 28), and an engine at a release point grants it; a
request of another kind is in CHECKING after the fetch (log entry 29). -/
def Obligations.GrantedAccessIsMadeWhole : Prop :=
  ∀ (s : State) (q : Request) (rest : List Request), s.bench.service = .waitingPort → s.port.owner = .bench →
    s.bench.queue = q :: rest →
    let data := q.payload.drop 2
    let a := leAt 2 q.payload 0
    let m := (byteAt q.payload 2).toNat
    let back := { s with port := { owner := .engine, waits := [] } }
    let fetches := fun u : State => { u with eng := { u.eng with
      copy := some (Memory.record u.mem (16 * s.eng.fetchIndex.toNat)) } }
    (q.kind = .load → a + data.length ≤ 24576 → Memory.wf s.mem →
      ∃ mem, (∀ x, Memory.read mem x = if a ≤ x ∧ x < a + data.length then data.getD (x - a) 0 else Memory.read s.mem x) ∧
        let t := answered { back with mem := mem } q rest [5, 0]
        (s.port.waits = [] → exec .benchAccessGrant s = .next t) ∧
        (s.port.waits = [.fetch] → ∃ v, AsksNext t v ∧
          (s.eng.job = .running → exec .benchAccessGrant s = .next (grantedAtRelease (fetches v))) ∧
          (s.eng.job ≠ .running → exec .benchAccessGrant s = .next (grantedAtRelease v)))) ∧
    (q.kind = .peek → a + m ≤ 24576 →
      let t := answered back q rest (leBytes 2 (32768 + a) ++ (List.range m).map (fun i => Memory.read s.mem (a + i)))
      (s.port.waits = [] → exec .benchAccessGrant s = .next t) ∧
      (s.port.waits = [.fetch] → ∃ v, AsksNext t v ∧
          (s.eng.job = .running → exec .benchAccessGrant s = .next (grantedAtRelease (fetches v))) ∧
          (s.eng.job ≠ .running → exec .benchAccessGrant s = .next (grantedAtRelease v))))

/-- R21, R20, R33, R42, R43, R46, R49, R64, R115: the engine accesses that waited for the port are made at its return, in
order, after the bench's access, its reply (log entry 13) and the ask of a LOAD or PEEK that enters service then (log entry
28), so that this one is granted at the step boundary; a request of another kind is in CHECKING after them (log entry 29).
Capture entries are written; a SAMPLE's last one completes its record; a fetch is made by a job that still runs. An outcome
goes on to PROGRESS, with the stamp of the completion, and to its step boundary, the end of the job, its halt or its
isolation. A halt that came meanwhile keeps F and the loop stack, but not from PROGRESS and not from an isolation (log
entry 8); a record it abandoned stores its entry, has ABORTED written and does not complete. -/
def Obligations.WaitingAccessesAreMadeAtTheReturn : Prop :=
  ∀ s b : State, s.bench.service = .waitingPort → s.port.owner = .bench →
    exec .benchAccessGrant { s with port := { s.port with waits := [] } } = .next b → b.port.owner = .engine →
    Memory.wf b.mem →
    ∃ v, AsksNext b v ∧ ∀ entries : List Record, ∃ w, CapturesWritten v entries w ∧
      let captures := entries.map fun entry => EngineAccess.capture entry none
      let f := s.eng.fetchIndex
      let goes := fun t => exec .benchAccessGrant s = .next t
      let aborted := fun (u : State) (count : Byte) (m : Memory) => ∀ a, Memory.read m a =
        if a = 16 * f.toNat + 14 then StepOutcome.aborted.code else if a = 16 * f.toNat + 15 then count else Memory.read u.mem a
      (entries ≠ [] → s.port.waits = captures → goes (grantedAtRelease w)) ∧
      (s.port.waits = captures ++ [.fetch] →
        (s.eng.job = .running → goes (grantedAtRelease { w with
          eng := { w.eng with copy := some (Memory.record w.mem (16 * f.toNat)) } })) ∧
        (s.eng.job ≠ .running → goes (grantedAtRelease w))) ∧
      (∀ count, s.port.waits = captures ++ [.outcome f .aborted count none] →
        ∃ m, aborted w count m ∧ goes (grantedAtRelease { w with mem := m })) ∧
      (∀ entry o, ∃ m, CaptureWritten w entry m ∧
        (∀ r, s.port.waits = captures ++ [.capture entry (some o)] → s.InPhase .ready r →
          ∃ t, goes t ∧ Completes (withCapture w m) t r o) ∧
        (s.port.waits = captures ++ [.capture entry (some o)] → s.eng.job = .halted →
          goes (grantedAtRelease (withCapture w m))) ∧
        (∀ count, s.port.waits = captures ++ [.capture entry (some o), .outcome f .aborted count none] →
          s.eng.job = .halted → ∃ m', aborted { w with mem := m } count m' ∧ goes (grantedAtRelease (withCapture w m')))) ∧
      (∀ c : Completion, s.port.waits = captures ++
          [.outcome f c.outcome (failCountAfter c.outcome (failCountOf c.record)) (some c)] →
        reportFlag c.record = true → s.eng.phase = .ready → s.eng.copy = none → s.eng.judged = none → s.eng.timer = none →
        let at' := { w with clock := c.stamp }
        let line := lineAfterCompletion at' c.record c.outcome
        let sent := { w with line := line }
        let unpowered := s.power.state = .off ∨ s.power.state = .tripped
        let written := fun m => ∀ a, Memory.read m a = outcomeByte w.mem f c.record c.outcome a
        let onward := fun (loops : List LoopEntry) (index : RingIndex) => ∃ t, goes t ∧
          GoesOn at' t c.record c.outcome loops index ∧ t = { w with eng := t.eng, port := t.port, line := t.line, mem := t.mem }
        let halts := fun reason => ∃ t, goes t ∧ HaltsFrom w t line reason ∧ written t.mem ∧
          t = { w with eng := t.eng, line := t.line, port := { w.port with owner := t.port.owner }, mem := t.mem }
        (s.eng.job = .running →
          (c.after = .advance → onward (loopEnd s.eng.loops f).1 (loopEnd s.eng.loops f).2) ∧
          (∀ l, c.after = .enter l → onward (l :: s.eng.loops) l.bodyStart) ∧
          (∀ e, c.after = .skip e → onward (loopEnd s.eng.loops e).1 (loopEnd s.eng.loops e).2) ∧
          (c.after = .stop → ∃ t, goes t ∧ written t.mem ∧
            t.eng = { s.eng with job := .ended, phase := .ready, copy := none, judged := none, timer := none, latch := false,
                                 haltReason := none, fetchIndex := f + 1, haltIndex := some (f + 1) } ∧
            t = { w with eng := t.eng, mem := t.mem, port := { w.port with owner := ownerReleased w },
                         line := lineAfterEnd line t.eng w.faults.queue.length }) ∧
          (∀ reason, c.after = .halt reason → halts reason) ∧
          (c.after = .isolate → unpowered → halts .isolated) ∧
          (c.after = .isolate → ¬ unpowered → ∃ t, goes t ∧ written t.mem ∧ t.eng = haltedEngine s.eng .isolated ∧
            t.power.state = .off ∧ t.power.standby = false ∧ t.power.main = false ∧ t.draw.held = 0 ∧
            (let off := poweredDown sent .off
             t = { off with eng := t.eng, mem := t.mem, port := { w.port with owner := ownerReleased w },
                            line := lineAfterEnd off.line t.eng w.faults.queue.length }))) ∧
        (s.eng.job = .halted → ∃ m, written m ∧
          (c.after ≠ .isolate ∨ unpowered → goes (grantedAtRelease { sent with mem := m })) ∧
          (c.after = .isolate → ¬ unpowered → goes (grantedAtRelease (poweredDown { sent with mem := m } .off)))))

/-- R17, R24, R25, R26, R29: the accepted START, PAUSE, RESUME and RING, each answered ACCEPT after its effect. The fetch
test at START and RESUME leaves the job STARVED at F equal to P and fetches record F otherwise. -/
def Obligations.StartPauseResumeAndRing : Prop :=
  ∀ (s : State) (q : Request) (rest : List Request), s.Serves q rest → q.kind = .control → s.port.owner = .engine →
    let runs := fun e : Engine => if s.eng.fetchIndex = s.eng.postIndex then { e with job := .starved, latch := false }
      else { e with job := .running, copy := some (Memory.record s.mem (16 * s.eng.fetchIndex.toNat)) }
    let accepts := fun (e : Engine) (action : Byte) => Host.Outcome.next (answered { s with eng := e } q rest [8, 0, action])
    (q.payload = [1] → s.line.isSet = true → s.eng.job = .idle → exec .serveStart s =
      accepts (runs { s.eng with phase := .ready, attempt := 0, latch := false, haltReason := none, haltIndex := none }) 1) ∧
    (q.payload = [2] → s.eng.job = .running → exec .servePause s = accepts { s.eng with latch := true } 2) ∧
    (q.payload = [2] → s.eng.job = .starved → exec .servePause s = accepts { s.eng with job := .paused, copy := none } 2) ∧
    (q.payload = [2] → s.eng.job = .paused → exec .servePause s = accepts s.eng 2) ∧
    (q.payload = [3] → s.eng.job = .paused → exec .serveResume s = accepts (runs { s.eng with phase := .ready }) 3) ∧
    (q.payload = [3] → s.eng.job = .running → s.eng.latch = true → exec .serveResume s = accepts { s.eng with latch := false } 3) ∧
    (∀ b1 b2 : Byte, q.payload = [6, b1, b2] → (b2 ++ b1 : BitVec 16).toNat ≤ 1023 → s.eng.job = .idle →
      exec .serveRing s = accepts { s.eng with fetchIndex := (b2 ++ b1 : BitVec 16).setWidth 10,
                                               postIndex := (b2 ++ b1 : BitVec 16).setWidth 10 } 6)

/-- R27, R46, R116, R130, R173: ABORT writes ABORTED back, powers a powered board down with the DRAW frames of its claim and
of its held draw in that order, halts an active job ABORTED where it stands with its END report, and is answered ACCEPT
last. R28, R18, R81, R103, R113, R150: CLEAR returns the job to IDLE with F at P, takes the Power Path to OFF, releasing its
draw, resets the context, the lanes, the gains, the guards and the held guard actions, and is answered ACCEPT last. -/
def Obligations.AbortAndClear : Prop :=
  ∀ (s : State) (q : Request) (rest : List Request), s.Serves q rest → q.kind = .control →
    (q.payload = [4] → s.eng.job.active = true → ∃ u, exec .serveAbort s = .next (answered u q rest [8, 0, 4]) ∧
      (s.power.state = .off ∨ s.power.state = .tripped → HaltsAbandoning s u .aborted ∧ u.power = s.power ∧ u.draw = s.draw) ∧
      (s.power.state ≠ .off → s.power.state ≠ .tripped → HaltsAbandoning (poweredDown s .off) u .aborted ∧
        u.power.state = .off ∧ u.power.standby = false ∧ u.power.main = false ∧ u.power.declared = 0 ∧ u.power.move = none ∧
        u.power.mainTrip = s.power.mainTrip ∧ u.power.standbyTrip = s.power.standbyTrip ∧ u.draw.held = 0 ∧
        u.draw.table = s.draw.table ∧
        (s.power.move = none → u.line = lineAfterEnd (if s.draw.held = 0 then s.line else drawSent s.line 0) u.eng
          s.faults.queue.length) ∧
        (s.power.move ≠ none → s.draw.claimState ≠ .none_ → u.draw.claim = none ∧ u.draw.claimState = .none_ ∧
          u.draw.windowTimer = none ∧ u.draw.backoffTimer = none ∧
          u.draw.mark = (if s.draw.claimState = .queued ∧ s.draw.mark = .current then .stale else s.draw.mark) ∧
          u.line = lineAfterEnd (if s.draw.held = 0 then drawSent s.line 0 else drawSent (drawSent s.line s.draw.held) 0)
            u.eng s.faults.queue.length)) ∧
      u.eng = haltedEngine s.eng .aborted ∧
      (Memory.wf s.mem → ∀ r, s.eng.job = .running → s.eng.copy = some r → s.PortFreeFor r →
        ∀ a, Memory.read u.mem a = outcomeByte s.mem s.eng.fetchIndex r .aborted a) ∧
      u.check = s.check ∧ u.faults = s.faults ∧ u.rail.channels = s.rail.channels ∧ u.clock = s.clock ∧ u.bench = s.bench) ∧
    (q.payload = [5] → s.eng.job.active = false → s.power.move = none →
      ∃ u, exec .serveClear s = .next (answered u q rest [8, 0, 5]) ∧
        u.line = (if s.draw.held = 0 then s.line else drawSent s.line 0) ∧
        u.eng = { Engine.reset with fetchIndex := s.eng.postIndex, postIndex := s.eng.postIndex } ∧
        u.mem = s.mem ∧ u.port = s.port ∧ u.clock = s.clock ∧ u.check = CheckContext.reset ∧
        u.probe = { s.probe with direction := 0, polarity := 0, drive := 0, source := 0 } ∧
        u.power = { s.power with state := .off, standby := false, main := false, mainTrip := 32767, standbyTrip := 32767,
                                 declared := 0 } ∧
        u.draw = { s.draw with held := 0 } ∧
        (∀ i : Fin 8, u.rail.channels.get i = { s.rail.channels.get i with
          gain := if i = 0 then 16384 else if i = 1 then 20480 else if i = 2 then 8192 else 4096, stepLimit := 0,
          seed := true, guard := Guard.reset }) ∧
        u.rail.measured = s.rail.measured ∧ u.rail.tripMain = 0 ∧ u.rail.tripStandby = 0 ∧ u.rail.overdrawCount = 0 ∧
        u.faults = { s.faults with queue := s.faults.queue.map fun f =>
          { f with guardAction := if f.guardAction = none then none else some .log } } ∧
        u.bench = s.bench)

/-- R170, R171, R174, R175, R182, R183: QUERY STATUS and QUERY READINGS are answered with their records as the blocks hold
them, and an unknown QUERY or CONTROL action is refused RANGE, or BAD_LENGTH by its length. A CONTROL with no byte at all
names no action for its reply to carry: that byte is free (log entry 3), and the reply is stated for every other. -/
def Obligations.QueriesAndUnknownCodesAreAnswered : Prop :=
  ∀ (s : State) (q : Request) (rest : List Request), s.Serves q rest →
    let p := q.payload
    let half := fun x : Nat => [BitVec.ofNat 8 x, BitVec.ofNat 8 (x / 256)]
    let peers := (s.draw.table.toList.map fun e => e.held.toNat).sum
    let status : List Byte :=
      [BitVec.ofNat 8 (s.eng.job.code + 8 * s.eng.phase.code + 64 * s.line.isSet.toNat + 128 * s.line.duplicate.toNat),
       BitVec.ofNat 8 (haltCode s.eng.haltReason)] ++
      half (match s.eng.haltIndex with | some i => i.toNat | none => 65535) ++ half s.eng.fetchIndex.toNat ++
      half s.eng.postIndex.toNat ++ half s.eng.retain.toNat ++
      [BitVec.ofNat 8 (s.power.state.code + 8 * s.draw.claimState.code + 32 * s.eng.loops.length)] ++
      half s.draw.held.toNat ++ half s.rail.measured.toNat ++ half peers ++ [BitVec.ofNat 8 (peers / 65536)] ++
      [BitVec.ofNat 8 s.faults.queue.length,
       BitVec.ofNat 8 (s.faults.queue.filter fun f => decide (f.cls = .provisional)).length] ++
      half s.probe.nextIndex.toNat ++ half s.probe.validCount ++
      [s.line.notSent, s.line.receivedBad, s.bench.discarded, s.faults.noticeOverflow, s.faults.discarded]
    let reading := fun i : Fin 8 => half (BitVec.ofInt 16 (s.rail.channels.get i).filtered).toNat
    (q.kind = .query →
      (p = [1] → exec .serveQueryStatus s = .next (answered s q rest ([9, 3] ++ status)) ∧ status.length = 29) ∧
      (p = [2] → exec .serveQueryReadings s = .next (answered s q rest
        ([9, 4] ++ reading 0 ++ reading 1 ++ reading 2 ++ reading 3 ++ reading 4 ++ reading 5 ++ reading 6 ++ reading 7))) ∧
      (∀ b : Byte, p = [b] → b ≠ 1 → b ≠ 2 → exec .serveQueryUnknown s = .next (answered s q rest [9, 1, 6])) ∧
      (p = [] → exec .serveQueryUnknown s = .next (answered s q rest [9, 1, 7]))) ∧
    (q.kind = .control → ∀ (b : Byte) (more : List Byte), p = b :: more → b = 0 ∨ 6 < b.toNat →
      exec .serveUnknownAction s = .next (answered s q rest
        [8, 1, if more.length = 0 ∨ more.length = 2 then 6 else 7, b])) ∧
    (q.kind = .control → p = [] → ∃ free : Byte, exec .serveUnknownAction s =
      .next (answered { s with freeNext := s.freeNext + 1 } q rest [8, 1, 7, free]))

/-- R148, R149, R176, R181: FAULT_READ answers with the record at a position as its 24 bytes, or EMPTY; FAULT_TRIM removes
at most n records from the head, stopping at the first PROVISIONAL one, and changes nothing else. -/
def Obligations.FaultsAreReadAndTrimmed : Prop :=
  ∀ (s : State) (q : Request) (rest : List Request) (b : Byte), s.Serves q rest → q.payload = [b] →
    let half := fun x : Nat => [BitVec.ofNat 8 x, BitVec.ofNat 8 (x / 256)]
    let word := fun x : Option (BitVec 32) => match x with
      | some w => half w.toNat ++ half (w.toNat / 65536)
      | none => [0, 0, 0, 0]
    (q.kind = .faultRead →
      (∀ f, s.faults.queue[b.toNat]? = some f → exec .serveFaultRead s = .next (answered s q rest ([10, 5, b] ++
        (half f.sequence.toNat ++ half f.stamp.toNat ++ half (f.stamp.toNat / 65536) ++
         [BitVec.ofNat 8 (f.info.kind.code + 8 * f.info.source.code + 32 * f.cls.code),
          match f.info.channel with | some c => c.setWidth 8 | none => 255] ++
         half (match f.stepIndex with | some i => i.toNat | none => 65535) ++
         [BitVec.ofNat 8 (f.attempt.toNat + 8 * f.peerCount),
          BitVec.ofNat 8 (f.info.observed.isSome.toNat + 2 * f.info.refA.isSome.toNat + 4 * f.info.refB.isSome.toNat)] ++
         word f.info.observed ++ word f.info.refA ++ word f.info.refB)))) ∧
      (s.faults.queue.length ≤ b.toNat → exec .serveFaultRead s = .next (answered s q rest [10, 6, b]))) ∧
    (q.kind = .faultTrim → ∃ removed kept, s.faults.queue = removed ++ kept ∧ removed.length ≤ b.toNat ∧
      (∀ f ∈ removed, f.cls ≠ .provisional) ∧
      (removed.length < b.toNat → ∀ f ∈ kept.head?, f.cls = .provisional) ∧
      exec .serveFaultTrim s = .next (answered { s with faults := { s.faults with queue := kept } } q rest [11, 0]))
end

