-- ==== Sys2Proof/Laws/State.lean ====
section
/-! SUPPORT. The frame of each shared operation: what it leaves as it was, one lemma per operation, which `simp`
splits into one rewriting per field. -/

namespace Sys2Proof.Machine

/-- A frame offered touches the transmit queue and the count of frames not sent, nothing else of the port. -/
@[simp] theorem LinePort.offer_frame (l : LinePort) (f : TxFrame) :
    (l.offer f).1.slot = l.slot ∧ (l.offer f).1.rate = l.rate ∧ (l.offer f).1.isSet = l.isSet ∧
    (l.offer f).1.params = l.params ∧ (l.offer f).1.duplicate = l.duplicate ∧
    (l.offer f).1.receivedBad = l.receivedBad ∧ (l.offer f).1.cutOwn = l.cutOwn := by
  unfold LinePort.offer; repeat' split
  all_goals simp

/-- A frame handed over touches the transmit queue and the count of frames not sent, nothing else. -/
@[simp] theorem State.hand_frame (s : State) (k : FrameKind) (d : BitVec 5) (p : List Byte) :
    (s.hand k d p).clock = s.clock ∧
    (s.hand k d p).mem = s.mem ∧
    (s.hand k d p).port = s.port ∧
    (s.hand k d p).eng = s.eng ∧
    (s.hand k d p).probe = s.probe ∧
    (s.hand k d p).check = s.check ∧
    (s.hand k d p).rail = s.rail ∧
    (s.hand k d p).power = s.power ∧
    (s.hand k d p).draw = s.draw ∧
    (s.hand k d p).faults = s.faults ∧
    (s.hand k d p).line.slot = s.line.slot ∧
    (s.hand k d p).line.rate = s.line.rate ∧
    (s.hand k d p).line.isSet = s.line.isSet ∧
    (s.hand k d p).line.params = s.line.params ∧
    (s.hand k d p).line.duplicate = s.line.duplicate ∧
    (s.hand k d p).line.receivedBad = s.line.receivedBad ∧
    (s.hand k d p).line.cutOwn = s.line.cutOwn ∧
    (s.hand k d p).bench = s.bench ∧
    (s.hand k d p).freeNext = s.freeNext ∧
    (s.hand k d p).pending = s.pending := by
  simp [State.hand]

/-- A DRAW handed over touches the line alone. -/
@[simp] theorem State.handDraw_frame (s : State) :
    (s.handDraw).clock = s.clock ∧
    (s.handDraw).mem = s.mem ∧
    (s.handDraw).port = s.port ∧
    (s.handDraw).eng = s.eng ∧
    (s.handDraw).probe = s.probe ∧
    (s.handDraw).check = s.check ∧
    (s.handDraw).rail = s.rail ∧
    (s.handDraw).power = s.power ∧
    (s.handDraw).draw = s.draw ∧
    (s.handDraw).faults = s.faults ∧
    (s.handDraw).line.slot = s.line.slot ∧
    (s.handDraw).line.rate = s.line.rate ∧
    (s.handDraw).line.isSet = s.line.isSet ∧
    (s.handDraw).line.params = s.line.params ∧
    (s.handDraw).line.duplicate = s.line.duplicate ∧
    (s.handDraw).line.receivedBad = s.line.receivedBad ∧
    (s.handDraw).line.cutOwn = s.line.cutOwn ∧
    (s.handDraw).bench = s.bench ∧
    (s.handDraw).freeNext = s.freeNext ∧
    (s.handDraw).pending = s.pending := by
  simp [State.handDraw]

/-- A release point touches the port's owner alone. -/
@[simp] theorem State.releasePort_frame (s : State) :
    (s.releasePort).clock = s.clock ∧
    (s.releasePort).mem = s.mem ∧
    (s.releasePort).port.waits = s.port.waits ∧
    (s.releasePort).eng = s.eng ∧
    (s.releasePort).probe = s.probe ∧
    (s.releasePort).check = s.check ∧
    (s.releasePort).rail = s.rail ∧
    (s.releasePort).power = s.power ∧
    (s.releasePort).draw = s.draw ∧
    (s.releasePort).faults = s.faults ∧
    (s.releasePort).line = s.line ∧
    (s.releasePort).bench = s.bench ∧
    (s.releasePort).freeNext = s.freeNext ∧
    (s.releasePort).pending = s.pending := by
  unfold State.releasePort; split <;> simp

/-- An ask touches the port's owner alone. -/
@[simp] theorem State.askPort_frame (s : State) :
    (s.askPort).clock = s.clock ∧
    (s.askPort).mem = s.mem ∧
    (s.askPort).port.waits = s.port.waits ∧
    (s.askPort).eng = s.eng ∧
    (s.askPort).probe = s.probe ∧
    (s.askPort).check = s.check ∧
    (s.askPort).rail = s.rail ∧
    (s.askPort).power = s.power ∧
    (s.askPort).draw = s.draw ∧
    (s.askPort).faults = s.faults ∧
    (s.askPort).line = s.line ∧
    (s.askPort).bench = s.bench ∧
    (s.askPort).freeNext = s.freeNext ∧
    (s.askPort).pending = s.pending := by
  simp [State.askPort]

/-- A waiting access touches the list of those waiting alone. -/
@[simp] theorem State.wait_frame (s : State) (a : EngineAccess) :
    (s.wait a).clock = s.clock ∧
    (s.wait a).mem = s.mem ∧
    (s.wait a).port.owner = s.port.owner ∧
    (s.wait a).eng = s.eng ∧
    (s.wait a).probe = s.probe ∧
    (s.wait a).check = s.check ∧
    (s.wait a).rail = s.rail ∧
    (s.wait a).power = s.power ∧
    (s.wait a).draw = s.draw ∧
    (s.wait a).faults = s.faults ∧
    (s.wait a).line = s.line ∧
    (s.wait a).bench = s.bench ∧
    (s.wait a).freeNext = s.freeNext ∧
    (s.wait a).pending = s.pending := by
  simp [State.wait]

/-- An outcome write-back touches memory alone. -/
@[simp] theorem State.writeOutcome_frame (s : State) (i : RingIndex) (o : StepOutcome) (c : Byte) :
    (s.writeOutcome i o c).clock = s.clock ∧
    (s.writeOutcome i o c).port = s.port ∧
    (s.writeOutcome i o c).eng = s.eng ∧
    (s.writeOutcome i o c).probe = s.probe ∧
    (s.writeOutcome i o c).check = s.check ∧
    (s.writeOutcome i o c).rail = s.rail ∧
    (s.writeOutcome i o c).power = s.power ∧
    (s.writeOutcome i o c).draw = s.draw ∧
    (s.writeOutcome i o c).faults = s.faults ∧
    (s.writeOutcome i o c).line = s.line ∧
    (s.writeOutcome i o c).bench = s.bench ∧
    (s.writeOutcome i o c).freeNext = s.freeNext ∧
    (s.writeOutcome i o c).pending = s.pending := by
  simp [State.writeOutcome]

/-- The write-back of an abandoned or refused record touches memory, or waits. -/
@[simp] theorem State.writeBack_frame (s : State) (r : Record) (o : StepOutcome) :
    (s.writeBack r o).clock = s.clock ∧
    (s.writeBack r o).port.owner = s.port.owner ∧
    (s.writeBack r o).eng = s.eng ∧
    (s.writeBack r o).probe = s.probe ∧
    (s.writeBack r o).check = s.check ∧
    (s.writeBack r o).rail = s.rail ∧
    (s.writeBack r o).power = s.power ∧
    (s.writeBack r o).draw = s.draw ∧
    (s.writeBack r o).faults = s.faults ∧
    (s.writeBack r o).line = s.line ∧
    (s.writeBack r o).bench = s.bench ∧
    (s.writeBack r o).freeNext = s.freeNext ∧
    (s.writeBack r o).pending = s.pending := by
  unfold State.writeBack; repeat' split
  all_goals simp

/-- A fetch touches the copy, or waits. -/
@[simp] theorem State.fetch_frame (s : State) :
    (s.fetch).clock = s.clock ∧
    (s.fetch).mem = s.mem ∧
    (s.fetch).port.owner = s.port.owner ∧
    (s.fetch).eng.job = s.eng.job ∧
    (s.fetch).eng.phase = s.eng.phase ∧
    (s.fetch).eng.fetchIndex = s.eng.fetchIndex ∧
    (s.fetch).eng.postIndex = s.eng.postIndex ∧
    (s.fetch).eng.loops = s.eng.loops ∧
    (s.fetch).eng.attempt = s.eng.attempt ∧
    (s.fetch).eng.judged = s.eng.judged ∧
    (s.fetch).eng.latch = s.eng.latch ∧
    (s.fetch).eng.haltReason = s.eng.haltReason ∧
    (s.fetch).eng.haltIndex = s.eng.haltIndex ∧
    (s.fetch).eng.timer = s.eng.timer ∧
    (s.fetch).probe = s.probe ∧
    (s.fetch).check = s.check ∧
    (s.fetch).rail = s.rail ∧
    (s.fetch).power = s.power ∧
    (s.fetch).draw = s.draw ∧
    (s.fetch).faults = s.faults ∧
    (s.fetch).line = s.line ∧
    (s.fetch).bench = s.bench ∧
    (s.fetch).freeNext = s.freeNext ∧
    (s.fetch).pending = s.pending := by
  unfold State.fetch; split <;> simp

/-- The fetch test touches the job state, the copy and the port. -/
@[simp] theorem State.fetchTest_frame (s : State) :
    (s.fetchTest).clock = s.clock ∧
    (s.fetchTest).mem = s.mem ∧
    (s.fetchTest).eng.phase = s.eng.phase ∧
    (s.fetchTest).eng.fetchIndex = s.eng.fetchIndex ∧
    (s.fetchTest).eng.postIndex = s.eng.postIndex ∧
    (s.fetchTest).eng.loops = s.eng.loops ∧
    (s.fetchTest).eng.attempt = s.eng.attempt ∧
    (s.fetchTest).eng.judged = s.eng.judged ∧
    (s.fetchTest).eng.haltReason = s.eng.haltReason ∧
    (s.fetchTest).eng.haltIndex = s.eng.haltIndex ∧
    (s.fetchTest).eng.timer = s.eng.timer ∧
    (s.fetchTest).probe = s.probe ∧
    (s.fetchTest).check = s.check ∧
    (s.fetchTest).rail = s.rail ∧
    (s.fetchTest).power = s.power ∧
    (s.fetchTest).draw = s.draw ∧
    (s.fetchTest).faults = s.faults ∧
    (s.fetchTest).line = s.line ∧
    (s.fetchTest).bench = s.bench ∧
    (s.fetchTest).freeNext = s.freeNext ∧
    (s.fetchTest).pending = s.pending := by
  unfold State.fetchTest; split <;> simp

/-- The step boundary touches the engine and the port. -/
@[simp] theorem State.boundary_frame (s : State) (a : AfterStep) :
    (s.boundary a).clock = s.clock ∧
    (s.boundary a).mem = s.mem ∧
    (s.boundary a).eng.phase = s.eng.phase ∧
    (s.boundary a).eng.postIndex = s.eng.postIndex ∧
    (s.boundary a).eng.judged = s.eng.judged ∧
    (s.boundary a).eng.haltReason = s.eng.haltReason ∧
    (s.boundary a).eng.haltIndex = s.eng.haltIndex ∧
    (s.boundary a).eng.timer = s.eng.timer ∧
    (s.boundary a).probe = s.probe ∧
    (s.boundary a).check = s.check ∧
    (s.boundary a).rail = s.rail ∧
    (s.boundary a).power = s.power ∧
    (s.boundary a).draw = s.draw ∧
    (s.boundary a).faults = s.faults ∧
    (s.boundary a).line = s.line ∧
    (s.boundary a).bench = s.bench ∧
    (s.boundary a).freeNext = s.freeNext ∧
    (s.boundary a).pending = s.pending := by
  unfold State.boundary; simp only []; split <;> simp

/-- PROGRESS touches the line alone. -/
@[simp] theorem State.progress_frame (s : State) (c : Completion) :
    (s.progress c).clock = s.clock ∧
    (s.progress c).mem = s.mem ∧
    (s.progress c).port = s.port ∧
    (s.progress c).eng = s.eng ∧
    (s.progress c).probe = s.probe ∧
    (s.progress c).check = s.check ∧
    (s.progress c).rail = s.rail ∧
    (s.progress c).power = s.power ∧
    (s.progress c).draw = s.draw ∧
    (s.progress c).faults = s.faults ∧
    (s.progress c).line.slot = s.line.slot ∧
    (s.progress c).line.rate = s.line.rate ∧
    (s.progress c).line.isSet = s.line.isSet ∧
    (s.progress c).line.params = s.line.params ∧
    (s.progress c).line.duplicate = s.line.duplicate ∧
    (s.progress c).line.receivedBad = s.line.receivedBad ∧
    (s.progress c).line.cutOwn = s.line.cutOwn ∧
    (s.progress c).bench = s.bench ∧
    (s.progress c).freeNext = s.freeNext ∧
    (s.progress c).pending = s.pending := by
  unfold State.progress; split <;> simp

/-- END touches the line alone. -/
@[simp] theorem State.reportEnd_frame (s : State) :
    (s.reportEnd).clock = s.clock ∧
    (s.reportEnd).mem = s.mem ∧
    (s.reportEnd).port = s.port ∧
    (s.reportEnd).eng = s.eng ∧
    (s.reportEnd).probe = s.probe ∧
    (s.reportEnd).check = s.check ∧
    (s.reportEnd).rail = s.rail ∧
    (s.reportEnd).power = s.power ∧
    (s.reportEnd).draw = s.draw ∧
    (s.reportEnd).faults = s.faults ∧
    (s.reportEnd).line.slot = s.line.slot ∧
    (s.reportEnd).line.rate = s.line.rate ∧
    (s.reportEnd).line.isSet = s.line.isSet ∧
    (s.reportEnd).line.params = s.line.params ∧
    (s.reportEnd).line.duplicate = s.line.duplicate ∧
    (s.reportEnd).line.receivedBad = s.line.receivedBad ∧
    (s.reportEnd).line.cutOwn = s.line.cutOwn ∧
    (s.reportEnd).bench = s.bench ∧
    (s.reportEnd).freeNext = s.freeNext ∧
    (s.reportEnd).pending = s.pending := by
  simp [State.reportEnd]

/-- Steps 2 to 5 of a halt touch the engine, the line and the port. -/
@[simp] theorem State.haltJob_frame (s : State) (r : HaltReason) :
    (s.haltJob r).clock = s.clock ∧
    (s.haltJob r).mem = s.mem ∧
    (s.haltJob r).port.waits = s.port.waits ∧
    (s.haltJob r).eng.fetchIndex = s.eng.fetchIndex ∧
    (s.haltJob r).eng.postIndex = s.eng.postIndex ∧
    (s.haltJob r).eng.loops = s.eng.loops ∧
    (s.haltJob r).probe = s.probe ∧
    (s.haltJob r).check = s.check ∧
    (s.haltJob r).rail = s.rail ∧
    (s.haltJob r).power = s.power ∧
    (s.haltJob r).draw = s.draw ∧
    (s.haltJob r).faults = s.faults ∧
    (s.haltJob r).line.slot = s.line.slot ∧
    (s.haltJob r).line.rate = s.line.rate ∧
    (s.haltJob r).line.isSet = s.line.isSet ∧
    (s.haltJob r).line.params = s.line.params ∧
    (s.haltJob r).line.duplicate = s.line.duplicate ∧
    (s.haltJob r).line.receivedBad = s.line.receivedBad ∧
    (s.haltJob r).line.cutOwn = s.line.cutOwn ∧
    (s.haltJob r).bench = s.bench ∧
    (s.haltJob r).freeNext = s.freeNext ∧
    (s.haltJob r).pending = s.pending := by
  simp [State.haltJob]

/-- Abandoning a record touches its strobe, its average and its outcome bytes. -/
@[simp] theorem State.abandon_frame (s : State) :
    (s.abandon).clock = s.clock ∧
    (s.abandon).port.owner = s.port.owner ∧
    (s.abandon).eng = s.eng ∧
    (s.abandon).probe.direction = s.probe.direction ∧
    (s.abandon).probe.polarity = s.probe.polarity ∧
    (s.abandon).probe.drive = s.probe.drive ∧
    (s.abandon).probe.source = s.probe.source ∧
    (s.abandon).probe.nextIndex = s.probe.nextIndex ∧
    (s.abandon).probe.validCount = s.probe.validCount ∧
    (s.abandon).check = s.check ∧
    (s.abandon).rail.channels = s.rail.channels ∧
    (s.abandon).rail.measured = s.rail.measured ∧
    (s.abandon).rail.tripMain = s.rail.tripMain ∧
    (s.abandon).rail.tripStandby = s.rail.tripStandby ∧
    (s.abandon).rail.overdrawCount = s.rail.overdrawCount ∧
    (s.abandon).rail.zeroCapture = s.rail.zeroCapture ∧
    (s.abandon).power = s.power ∧
    (s.abandon).draw = s.draw ∧
    (s.abandon).faults = s.faults ∧
    (s.abandon).line = s.line ∧
    (s.abandon).bench = s.bench ∧
    (s.abandon).freeNext = s.freeNext ∧
    (s.abandon).pending = s.pending := by
  unfold State.abandon; repeat' split
  all_goals simp

/-- A halt touches the engine, the record's work and outcome, the line and the port. -/
@[simp] theorem State.haltActive_frame (s : State) (r : HaltReason) :
    (s.haltActive r).clock = s.clock ∧
    (s.haltActive r).eng.fetchIndex = s.eng.fetchIndex ∧
    (s.haltActive r).eng.postIndex = s.eng.postIndex ∧
    (s.haltActive r).eng.loops = s.eng.loops ∧
    (s.haltActive r).probe.direction = s.probe.direction ∧
    (s.haltActive r).probe.polarity = s.probe.polarity ∧
    (s.haltActive r).probe.drive = s.probe.drive ∧
    (s.haltActive r).probe.source = s.probe.source ∧
    (s.haltActive r).probe.nextIndex = s.probe.nextIndex ∧
    (s.haltActive r).probe.validCount = s.probe.validCount ∧
    (s.haltActive r).check = s.check ∧
    (s.haltActive r).rail.channels = s.rail.channels ∧
    (s.haltActive r).rail.measured = s.rail.measured ∧
    (s.haltActive r).rail.tripMain = s.rail.tripMain ∧
    (s.haltActive r).rail.tripStandby = s.rail.tripStandby ∧
    (s.haltActive r).rail.overdrawCount = s.rail.overdrawCount ∧
    (s.haltActive r).rail.zeroCapture = s.rail.zeroCapture ∧
    (s.haltActive r).power = s.power ∧
    (s.haltActive r).draw = s.draw ∧
    (s.haltActive r).faults = s.faults ∧
    (s.haltActive r).line.slot = s.line.slot ∧
    (s.haltActive r).line.rate = s.line.rate ∧
    (s.haltActive r).line.isSet = s.line.isSet ∧
    (s.haltActive r).line.params = s.line.params ∧
    (s.haltActive r).line.duplicate = s.line.duplicate ∧
    (s.haltActive r).line.receivedBad = s.line.receivedBad ∧
    (s.haltActive r).line.cutOwn = s.line.cutOwn ∧
    (s.haltActive r).bench = s.bench ∧
    (s.haltActive r).freeNext = s.freeNext ∧
    (s.haltActive r).pending = s.pending := by
  unfold State.haltActive; split <;> simp

/-- A refusal touches the engine, the record's outcome, the line and the port. -/
@[simp] theorem State.refuseRecord_frame (s : State) :
    (s.refuseRecord).clock = s.clock ∧
    (s.refuseRecord).eng.fetchIndex = s.eng.fetchIndex ∧
    (s.refuseRecord).eng.postIndex = s.eng.postIndex ∧
    (s.refuseRecord).eng.loops = s.eng.loops ∧
    (s.refuseRecord).probe = s.probe ∧
    (s.refuseRecord).check = s.check ∧
    (s.refuseRecord).rail = s.rail ∧
    (s.refuseRecord).power = s.power ∧
    (s.refuseRecord).draw = s.draw ∧
    (s.refuseRecord).faults = s.faults ∧
    (s.refuseRecord).line.slot = s.line.slot ∧
    (s.refuseRecord).line.rate = s.line.rate ∧
    (s.refuseRecord).line.isSet = s.line.isSet ∧
    (s.refuseRecord).line.params = s.line.params ∧
    (s.refuseRecord).line.duplicate = s.line.duplicate ∧
    (s.refuseRecord).line.receivedBad = s.line.receivedBad ∧
    (s.refuseRecord).line.cutOwn = s.line.cutOwn ∧
    (s.refuseRecord).bench = s.bench ∧
    (s.refuseRecord).freeNext = s.freeNext ∧
    (s.refuseRecord).pending = s.pending := by
  unfold State.refuseRecord; split <;> simp

/-- The end of the job touches the engine, the line and the port. -/
@[simp] theorem State.endJob_frame (s : State) :
    (s.endJob).clock = s.clock ∧
    (s.endJob).mem = s.mem ∧
    (s.endJob).port.waits = s.port.waits ∧
    (s.endJob).eng.postIndex = s.eng.postIndex ∧
    (s.endJob).eng.loops = s.eng.loops ∧
    (s.endJob).eng.attempt = s.eng.attempt ∧
    (s.endJob).eng.judged = s.eng.judged ∧
    (s.endJob).eng.timer = s.eng.timer ∧
    (s.endJob).probe = s.probe ∧
    (s.endJob).check = s.check ∧
    (s.endJob).rail = s.rail ∧
    (s.endJob).power = s.power ∧
    (s.endJob).draw = s.draw ∧
    (s.endJob).faults = s.faults ∧
    (s.endJob).line.slot = s.line.slot ∧
    (s.endJob).line.rate = s.line.rate ∧
    (s.endJob).line.isSet = s.line.isSet ∧
    (s.endJob).line.params = s.line.params ∧
    (s.endJob).line.duplicate = s.line.duplicate ∧
    (s.endJob).line.receivedBad = s.line.receivedBad ∧
    (s.endJob).line.cutOwn = s.line.cutOwn ∧
    (s.endJob).bench = s.bench ∧
    (s.endJob).freeNext = s.freeNext ∧
    (s.endJob).pending = s.pending := by
  simp [State.endJob]

/-- A phase entered touches the phase, the timer and the port. -/
@[simp] theorem State.enterPhase_frame (s : State) (p : StepPhase) (t : Option Timer) :
    (s.enterPhase p t).clock = s.clock ∧
    (s.enterPhase p t).mem = s.mem ∧
    (s.enterPhase p t).port.waits = s.port.waits ∧
    (s.enterPhase p t).eng.job = s.eng.job ∧
    (s.enterPhase p t).eng.fetchIndex = s.eng.fetchIndex ∧
    (s.enterPhase p t).eng.postIndex = s.eng.postIndex ∧
    (s.enterPhase p t).eng.loops = s.eng.loops ∧
    (s.enterPhase p t).eng.copy = s.eng.copy ∧
    (s.enterPhase p t).eng.attempt = s.eng.attempt ∧
    (s.enterPhase p t).eng.judged = s.eng.judged ∧
    (s.enterPhase p t).eng.latch = s.eng.latch ∧
    (s.enterPhase p t).eng.haltReason = s.eng.haltReason ∧
    (s.enterPhase p t).eng.haltIndex = s.eng.haltIndex ∧
    (s.enterPhase p t).probe = s.probe ∧
    (s.enterPhase p t).check = s.check ∧
    (s.enterPhase p t).rail = s.rail ∧
    (s.enterPhase p t).power = s.power ∧
    (s.enterPhase p t).draw = s.draw ∧
    (s.enterPhase p t).faults = s.faults ∧
    (s.enterPhase p t).line = s.line ∧
    (s.enterPhase p t).bench = s.bench ∧
    (s.enterPhase p t).freeNext = s.freeNext ∧
    (s.enterPhase p t).pending = s.pending := by
  simp [State.enterPhase]

/-- A release touches the held draw and the line. -/
@[simp] theorem State.release_frame (s : State) (d : Draw) :
    (s.release d).clock = s.clock ∧
    (s.release d).mem = s.mem ∧
    (s.release d).port = s.port ∧
    (s.release d).eng = s.eng ∧
    (s.release d).probe = s.probe ∧
    (s.release d).check = s.check ∧
    (s.release d).rail = s.rail ∧
    (s.release d).power = s.power ∧
    (s.release d).draw.table = s.draw.table ∧
    (s.release d).draw.claimState = s.draw.claimState ∧
    (s.release d).draw.claim = s.draw.claim ∧
    (s.release d).draw.mark = s.draw.mark ∧
    (s.release d).draw.windowTimer = s.draw.windowTimer ∧
    (s.release d).draw.backoffTimer = s.draw.backoffTimer ∧
    (s.release d).faults = s.faults ∧
    (s.release d).line.slot = s.line.slot ∧
    (s.release d).line.rate = s.line.rate ∧
    (s.release d).line.isSet = s.line.isSet ∧
    (s.release d).line.params = s.line.params ∧
    (s.release d).line.duplicate = s.line.duplicate ∧
    (s.release d).line.receivedBad = s.line.receivedBad ∧
    (s.release d).line.cutOwn = s.line.cutOwn ∧
    (s.release d).bench = s.bench ∧
    (s.release d).freeNext = s.freeNext ∧
    (s.release d).pending = s.pending := by
  unfold State.release; split <;> simp

/-- An abandoned claim touches the own claim and the line; the held draw and the draw table stay. -/
@[simp] theorem State.abandonClaim_frame (s : State) :
    (s.abandonClaim).clock = s.clock ∧
    (s.abandonClaim).mem = s.mem ∧
    (s.abandonClaim).port = s.port ∧
    (s.abandonClaim).eng = s.eng ∧
    (s.abandonClaim).probe = s.probe ∧
    (s.abandonClaim).check = s.check ∧
    (s.abandonClaim).rail = s.rail ∧
    (s.abandonClaim).power = s.power ∧
    (s.abandonClaim).draw.table = s.draw.table ∧
    (s.abandonClaim).draw.held = s.draw.held ∧
    (s.abandonClaim).faults = s.faults ∧
    (s.abandonClaim).line.slot = s.line.slot ∧
    (s.abandonClaim).line.rate = s.line.rate ∧
    (s.abandonClaim).line.isSet = s.line.isSet ∧
    (s.abandonClaim).line.params = s.line.params ∧
    (s.abandonClaim).line.duplicate = s.line.duplicate ∧
    (s.abandonClaim).line.receivedBad = s.line.receivedBad ∧
    (s.abandonClaim).line.cutOwn = s.line.cutOwn ∧
    (s.abandonClaim).bench = s.bench ∧
    (s.abandonClaim).freeNext = s.freeNext ∧
    (s.abandonClaim).pending = s.pending := by
  unfold State.abandonClaim; split <;> simp

/-- Opening the switches touches nothing else. -/
@[simp] theorem State.openSwitches_frame (s : State) :
    (s.openSwitches).clock = s.clock ∧
    (s.openSwitches).mem = s.mem ∧
    (s.openSwitches).port = s.port ∧
    (s.openSwitches).eng = s.eng ∧
    (s.openSwitches).probe = s.probe ∧
    (s.openSwitches).check = s.check ∧
    (s.openSwitches).rail = s.rail ∧
    (s.openSwitches).power.state = s.power.state ∧
    (s.openSwitches).power.mainTrip = s.power.mainTrip ∧
    (s.openSwitches).power.standbyTrip = s.power.standbyTrip ∧
    (s.openSwitches).power.declared = s.power.declared ∧
    (s.openSwitches).power.move = s.power.move ∧
    (s.openSwitches).power.rampTimer = s.power.rampTimer ∧
    (s.openSwitches).draw = s.draw ∧
    (s.openSwitches).faults = s.faults ∧
    (s.openSwitches).line = s.line ∧
    (s.openSwitches).bench = s.bench ∧
    (s.openSwitches).freeNext = s.freeNext ∧
    (s.openSwitches).pending = s.pending := by
  simp [State.openSwitches]

/-- An ended move touches the move, its capture and its claim. -/
@[simp] theorem State.endMove_frame (s : State) :
    (s.endMove).clock = s.clock ∧
    (s.endMove).mem = s.mem ∧
    (s.endMove).port = s.port ∧
    (s.endMove).eng = s.eng ∧
    (s.endMove).probe = s.probe ∧
    (s.endMove).check = s.check ∧
    (s.endMove).rail.channels = s.rail.channels ∧
    (s.endMove).rail.measured = s.rail.measured ∧
    (s.endMove).rail.tripMain = s.rail.tripMain ∧
    (s.endMove).rail.tripStandby = s.rail.tripStandby ∧
    (s.endMove).rail.overdrawCount = s.rail.overdrawCount ∧
    (s.endMove).rail.average = s.rail.average ∧
    (s.endMove).power.state = s.power.state ∧
    (s.endMove).power.standby = s.power.standby ∧
    (s.endMove).power.main = s.power.main ∧
    (s.endMove).power.mainTrip = s.power.mainTrip ∧
    (s.endMove).power.standbyTrip = s.power.standbyTrip ∧
    (s.endMove).power.declared = s.power.declared ∧
    (s.endMove).draw.table = s.draw.table ∧
    (s.endMove).draw.held = s.draw.held ∧
    (s.endMove).faults = s.faults ∧
    (s.endMove).line.slot = s.line.slot ∧
    (s.endMove).line.rate = s.line.rate ∧
    (s.endMove).line.isSet = s.line.isSet ∧
    (s.endMove).line.params = s.line.params ∧
    (s.endMove).line.duplicate = s.line.duplicate ∧
    (s.endMove).line.receivedBad = s.line.receivedBad ∧
    (s.endMove).line.cutOwn = s.line.cutOwn ∧
    (s.endMove).bench = s.bench ∧
    (s.endMove).freeNext = s.freeNext ∧
    (s.endMove).pending = s.pending := by
  unfold State.endMove; split <;> simp

/-- Powering down touches the Power Path, the held draw and own claim, the capture and the line. -/
@[simp] theorem State.powerDown_frame (s : State) (p : PowerState) :
    (s.powerDown p).clock = s.clock ∧
    (s.powerDown p).mem = s.mem ∧
    (s.powerDown p).port = s.port ∧
    (s.powerDown p).eng = s.eng ∧
    (s.powerDown p).probe = s.probe ∧
    (s.powerDown p).check = s.check ∧
    (s.powerDown p).rail.channels = s.rail.channels ∧
    (s.powerDown p).rail.measured = s.rail.measured ∧
    (s.powerDown p).rail.tripMain = s.rail.tripMain ∧
    (s.powerDown p).rail.tripStandby = s.rail.tripStandby ∧
    (s.powerDown p).rail.overdrawCount = s.rail.overdrawCount ∧
    (s.powerDown p).rail.average = s.rail.average ∧
    (s.powerDown p).power.mainTrip = s.power.mainTrip ∧
    (s.powerDown p).power.standbyTrip = s.power.standbyTrip ∧
    (s.powerDown p).draw.table = s.draw.table ∧
    (s.powerDown p).faults = s.faults ∧
    (s.powerDown p).line.slot = s.line.slot ∧
    (s.powerDown p).line.rate = s.line.rate ∧
    (s.powerDown p).line.isSet = s.line.isSet ∧
    (s.powerDown p).line.params = s.line.params ∧
    (s.powerDown p).line.duplicate = s.line.duplicate ∧
    (s.powerDown p).line.receivedBad = s.line.receivedBad ∧
    (s.powerDown p).line.cutOwn = s.line.cutOwn ∧
    (s.powerDown p).bench = s.bench ∧
    (s.powerDown p).freeNext = s.freeNext ∧
    (s.powerDown p).pending = s.pending := by
  simp [State.powerDown]

/-- An isolation touches what powering down touches. -/
@[simp] theorem State.isolateBoard_frame (s : State) :
    (s.isolateBoard).clock = s.clock ∧
    (s.isolateBoard).mem = s.mem ∧
    (s.isolateBoard).port = s.port ∧
    (s.isolateBoard).eng = s.eng ∧
    (s.isolateBoard).probe = s.probe ∧
    (s.isolateBoard).check = s.check ∧
    (s.isolateBoard).rail.channels = s.rail.channels ∧
    (s.isolateBoard).rail.measured = s.rail.measured ∧
    (s.isolateBoard).rail.tripMain = s.rail.tripMain ∧
    (s.isolateBoard).rail.tripStandby = s.rail.tripStandby ∧
    (s.isolateBoard).rail.overdrawCount = s.rail.overdrawCount ∧
    (s.isolateBoard).rail.average = s.rail.average ∧
    (s.isolateBoard).power.mainTrip = s.power.mainTrip ∧
    (s.isolateBoard).power.standbyTrip = s.power.standbyTrip ∧
    (s.isolateBoard).draw.table = s.draw.table ∧
    (s.isolateBoard).faults = s.faults ∧
    (s.isolateBoard).line.slot = s.line.slot ∧
    (s.isolateBoard).line.rate = s.line.rate ∧
    (s.isolateBoard).line.isSet = s.line.isSet ∧
    (s.isolateBoard).line.params = s.line.params ∧
    (s.isolateBoard).line.duplicate = s.line.duplicate ∧
    (s.isolateBoard).line.receivedBad = s.line.receivedBad ∧
    (s.isolateBoard).line.cutOwn = s.line.cutOwn ∧
    (s.isolateBoard).bench = s.bench ∧
    (s.isolateBoard).freeNext = s.freeNext ∧
    (s.isolateBoard).pending = s.pending := by
  unfold State.isolateBoard; split <;> simp

/-- The job's way on after a completion. -/
@[simp] theorem State.goOn_frame (s : State) (a : AfterStep) :
    (s.goOn a).clock = s.clock ∧
    (s.goOn a).mem = s.mem ∧
    (s.goOn a).eng.postIndex = s.eng.postIndex ∧
    (s.goOn a).probe = s.probe ∧
    (s.goOn a).check = s.check ∧
    (s.goOn a).rail.channels = s.rail.channels ∧
    (s.goOn a).rail.measured = s.rail.measured ∧
    (s.goOn a).rail.tripMain = s.rail.tripMain ∧
    (s.goOn a).rail.tripStandby = s.rail.tripStandby ∧
    (s.goOn a).rail.overdrawCount = s.rail.overdrawCount ∧
    (s.goOn a).rail.average = s.rail.average ∧
    (s.goOn a).power.mainTrip = s.power.mainTrip ∧
    (s.goOn a).power.standbyTrip = s.power.standbyTrip ∧
    (s.goOn a).draw.table = s.draw.table ∧
    (s.goOn a).faults = s.faults ∧
    (s.goOn a).line.slot = s.line.slot ∧
    (s.goOn a).line.rate = s.line.rate ∧
    (s.goOn a).line.isSet = s.line.isSet ∧
    (s.goOn a).line.params = s.line.params ∧
    (s.goOn a).line.duplicate = s.line.duplicate ∧
    (s.goOn a).line.receivedBad = s.line.receivedBad ∧
    (s.goOn a).line.cutOwn = s.line.cutOwn ∧
    (s.goOn a).bench = s.bench ∧
    (s.goOn a).freeNext = s.freeNext ∧
    (s.goOn a).pending = s.pending := by
  cases a <;> simp [State.goOn]

/-- What a completion still does after a halt came. -/
@[simp] theorem State.goOnHalted_frame (s : State) (a : AfterStep) :
    (s.goOnHalted a).clock = s.clock ∧
    (s.goOnHalted a).mem = s.mem ∧
    (s.goOnHalted a).port = s.port ∧
    (s.goOnHalted a).eng = s.eng ∧
    (s.goOnHalted a).probe = s.probe ∧
    (s.goOnHalted a).check = s.check ∧
    (s.goOnHalted a).rail.channels = s.rail.channels ∧
    (s.goOnHalted a).rail.measured = s.rail.measured ∧
    (s.goOnHalted a).rail.tripMain = s.rail.tripMain ∧
    (s.goOnHalted a).rail.tripStandby = s.rail.tripStandby ∧
    (s.goOnHalted a).rail.overdrawCount = s.rail.overdrawCount ∧
    (s.goOnHalted a).rail.average = s.rail.average ∧
    (s.goOnHalted a).power.mainTrip = s.power.mainTrip ∧
    (s.goOnHalted a).power.standbyTrip = s.power.standbyTrip ∧
    (s.goOnHalted a).draw.table = s.draw.table ∧
    (s.goOnHalted a).faults = s.faults ∧
    (s.goOnHalted a).line.slot = s.line.slot ∧
    (s.goOnHalted a).line.rate = s.line.rate ∧
    (s.goOnHalted a).line.isSet = s.line.isSet ∧
    (s.goOnHalted a).line.params = s.line.params ∧
    (s.goOnHalted a).line.duplicate = s.line.duplicate ∧
    (s.goOnHalted a).line.receivedBad = s.line.receivedBad ∧
    (s.goOnHalted a).line.cutOwn = s.line.cutOwn ∧
    (s.goOnHalted a).bench = s.bench ∧
    (s.goOnHalted a).freeNext = s.freeNext ∧
    (s.goOnHalted a).pending = s.pending := by
  cases a <;> simp [State.goOnHalted]

/-- What follows a completion. -/
@[simp] theorem State.finish_frame (s : State) (c : Completion) :
    (s.finish c).clock = s.clock ∧
    (s.finish c).mem = s.mem ∧
    (s.finish c).eng.postIndex = s.eng.postIndex ∧
    (s.finish c).probe = s.probe ∧
    (s.finish c).check = s.check ∧
    (s.finish c).rail.channels = s.rail.channels ∧
    (s.finish c).rail.measured = s.rail.measured ∧
    (s.finish c).rail.tripMain = s.rail.tripMain ∧
    (s.finish c).rail.tripStandby = s.rail.tripStandby ∧
    (s.finish c).rail.overdrawCount = s.rail.overdrawCount ∧
    (s.finish c).rail.average = s.rail.average ∧
    (s.finish c).power.mainTrip = s.power.mainTrip ∧
    (s.finish c).power.standbyTrip = s.power.standbyTrip ∧
    (s.finish c).draw.table = s.draw.table ∧
    (s.finish c).faults = s.faults ∧
    (s.finish c).line.slot = s.line.slot ∧
    (s.finish c).line.rate = s.line.rate ∧
    (s.finish c).line.isSet = s.line.isSet ∧
    (s.finish c).line.params = s.line.params ∧
    (s.finish c).line.duplicate = s.line.duplicate ∧
    (s.finish c).line.receivedBad = s.line.receivedBad ∧
    (s.finish c).line.cutOwn = s.line.cutOwn ∧
    (s.finish c).bench = s.bench ∧
    (s.finish c).freeNext = s.freeNext ∧
    (s.finish c).pending = s.pending := by
  unfold State.finish; simp only []; split <;> simp

/-- A completion. The check context, the fault records, the requests, the clock and the probe lanes stay. -/
@[simp] theorem State.complete_frame (s : State) (o : StepOutcome) (a : AfterStep) :
    (s.complete o a).clock = s.clock ∧
    (s.complete o a).eng.postIndex = s.eng.postIndex ∧
    (s.complete o a).probe = s.probe ∧
    (s.complete o a).check = s.check ∧
    (s.complete o a).rail.channels = s.rail.channels ∧
    (s.complete o a).rail.measured = s.rail.measured ∧
    (s.complete o a).rail.tripMain = s.rail.tripMain ∧
    (s.complete o a).rail.tripStandby = s.rail.tripStandby ∧
    (s.complete o a).rail.overdrawCount = s.rail.overdrawCount ∧
    (s.complete o a).rail.average = s.rail.average ∧
    (s.complete o a).power.mainTrip = s.power.mainTrip ∧
    (s.complete o a).power.standbyTrip = s.power.standbyTrip ∧
    (s.complete o a).draw.table = s.draw.table ∧
    (s.complete o a).faults = s.faults ∧
    (s.complete o a).line.slot = s.line.slot ∧
    (s.complete o a).line.rate = s.line.rate ∧
    (s.complete o a).line.isSet = s.line.isSet ∧
    (s.complete o a).line.params = s.line.params ∧
    (s.complete o a).line.duplicate = s.line.duplicate ∧
    (s.complete o a).line.receivedBad = s.line.receivedBad ∧
    (s.complete o a).line.cutOwn = s.line.cutOwn ∧
    (s.complete o a).bench = s.bench ∧
    (s.complete o a).freeNext = s.freeNext ∧
    (s.complete o a).pending = s.pending := by
  unfold State.complete; simp only []; repeat' split
  all_goals simp

/-- A completion that passes. -/
@[simp] theorem State.completePassed_frame (s : State) (o : StepOutcome) :
    (s.completePassed o).clock = s.clock ∧
    (s.completePassed o).eng.postIndex = s.eng.postIndex ∧
    (s.completePassed o).probe = s.probe ∧
    (s.completePassed o).check = s.check ∧
    (s.completePassed o).rail.channels = s.rail.channels ∧
    (s.completePassed o).rail.measured = s.rail.measured ∧
    (s.completePassed o).rail.tripMain = s.rail.tripMain ∧
    (s.completePassed o).rail.tripStandby = s.rail.tripStandby ∧
    (s.completePassed o).rail.overdrawCount = s.rail.overdrawCount ∧
    (s.completePassed o).rail.average = s.rail.average ∧
    (s.completePassed o).power.mainTrip = s.power.mainTrip ∧
    (s.completePassed o).power.standbyTrip = s.power.standbyTrip ∧
    (s.completePassed o).draw.table = s.draw.table ∧
    (s.completePassed o).faults = s.faults ∧
    (s.completePassed o).line.slot = s.line.slot ∧
    (s.completePassed o).line.rate = s.line.rate ∧
    (s.completePassed o).line.isSet = s.line.isSet ∧
    (s.completePassed o).line.params = s.line.params ∧
    (s.completePassed o).line.duplicate = s.line.duplicate ∧
    (s.completePassed o).line.receivedBad = s.line.receivedBad ∧
    (s.completePassed o).line.cutOwn = s.line.cutOwn ∧
    (s.completePassed o).bench = s.bench ∧
    (s.completePassed o).freeNext = s.freeNext ∧
    (s.completePassed o).pending = s.pending := by
  simp [State.completePassed]

/-- A capture entry touches memory and the buffer's indices. -/
@[simp] theorem State.writeCapture_frame (s : State) (e : Record) :
    (s.writeCapture e).clock = s.clock ∧
    (s.writeCapture e).port = s.port ∧
    (s.writeCapture e).eng = s.eng ∧
    (s.writeCapture e).probe.direction = s.probe.direction ∧
    (s.writeCapture e).probe.polarity = s.probe.polarity ∧
    (s.writeCapture e).probe.drive = s.probe.drive ∧
    (s.writeCapture e).probe.source = s.probe.source ∧
    (s.writeCapture e).probe.strobe = s.probe.strobe ∧
    (s.writeCapture e).check = s.check ∧
    (s.writeCapture e).rail = s.rail ∧
    (s.writeCapture e).power = s.power ∧
    (s.writeCapture e).draw = s.draw ∧
    (s.writeCapture e).faults = s.faults ∧
    (s.writeCapture e).line = s.line ∧
    (s.writeCapture e).bench = s.bench ∧
    (s.writeCapture e).freeNext = s.freeNext ∧
    (s.writeCapture e).pending = s.pending := by
  simp [State.writeCapture]

/-- One engine access made at the port's return. -/
@[simp] theorem State.makeAccess_frame (s : State) (a : EngineAccess) :
    (s.makeAccess a).clock = s.clock ∧
    (s.makeAccess a).eng.postIndex = s.eng.postIndex ∧
    (s.makeAccess a).probe.direction = s.probe.direction ∧
    (s.makeAccess a).probe.polarity = s.probe.polarity ∧
    (s.makeAccess a).probe.drive = s.probe.drive ∧
    (s.makeAccess a).probe.source = s.probe.source ∧
    (s.makeAccess a).probe.strobe = s.probe.strobe ∧
    (s.makeAccess a).check = s.check ∧
    (s.makeAccess a).rail.channels = s.rail.channels ∧
    (s.makeAccess a).rail.measured = s.rail.measured ∧
    (s.makeAccess a).rail.tripMain = s.rail.tripMain ∧
    (s.makeAccess a).rail.tripStandby = s.rail.tripStandby ∧
    (s.makeAccess a).rail.overdrawCount = s.rail.overdrawCount ∧
    (s.makeAccess a).rail.average = s.rail.average ∧
    (s.makeAccess a).power.mainTrip = s.power.mainTrip ∧
    (s.makeAccess a).power.standbyTrip = s.power.standbyTrip ∧
    (s.makeAccess a).draw.table = s.draw.table ∧
    (s.makeAccess a).faults = s.faults ∧
    (s.makeAccess a).line.slot = s.line.slot ∧
    (s.makeAccess a).line.rate = s.line.rate ∧
    (s.makeAccess a).line.isSet = s.line.isSet ∧
    (s.makeAccess a).line.params = s.line.params ∧
    (s.makeAccess a).line.duplicate = s.line.duplicate ∧
    (s.makeAccess a).line.receivedBad = s.line.receivedBad ∧
    (s.makeAccess a).line.cutOwn = s.line.cutOwn ∧
    (s.makeAccess a).bench = s.bench ∧
    (s.makeAccess a).freeNext = s.freeNext ∧
    (s.makeAccess a).pending = s.pending := by
  unfold State.makeAccess; simp only []; repeat' split
  all_goals simp

/-- The waiting accesses made, one after the other. -/
@[simp] theorem State.foldl_makeAccess_frame (l : List EngineAccess) : ∀ t : State,
      (l.foldl State.makeAccess t).clock = t.clock ∧
      (l.foldl State.makeAccess t).eng.postIndex = t.eng.postIndex ∧
      (l.foldl State.makeAccess t).probe.direction = t.probe.direction ∧
      (l.foldl State.makeAccess t).probe.polarity = t.probe.polarity ∧
      (l.foldl State.makeAccess t).probe.drive = t.probe.drive ∧
      (l.foldl State.makeAccess t).probe.source = t.probe.source ∧
      (l.foldl State.makeAccess t).probe.strobe = t.probe.strobe ∧
      (l.foldl State.makeAccess t).check = t.check ∧
      (l.foldl State.makeAccess t).rail.channels = t.rail.channels ∧
      (l.foldl State.makeAccess t).rail.measured = t.rail.measured ∧
      (l.foldl State.makeAccess t).rail.tripMain = t.rail.tripMain ∧
      (l.foldl State.makeAccess t).rail.tripStandby = t.rail.tripStandby ∧
      (l.foldl State.makeAccess t).rail.overdrawCount = t.rail.overdrawCount ∧
      (l.foldl State.makeAccess t).rail.average = t.rail.average ∧
      (l.foldl State.makeAccess t).power.mainTrip = t.power.mainTrip ∧
      (l.foldl State.makeAccess t).power.standbyTrip = t.power.standbyTrip ∧
      (l.foldl State.makeAccess t).draw.table = t.draw.table ∧
      (l.foldl State.makeAccess t).faults = t.faults ∧
      (l.foldl State.makeAccess t).line.slot = t.line.slot ∧
      (l.foldl State.makeAccess t).line.rate = t.line.rate ∧
      (l.foldl State.makeAccess t).line.isSet = t.line.isSet ∧
      (l.foldl State.makeAccess t).line.params = t.line.params ∧
      (l.foldl State.makeAccess t).line.duplicate = t.line.duplicate ∧
      (l.foldl State.makeAccess t).line.receivedBad = t.line.receivedBad ∧
      (l.foldl State.makeAccess t).line.cutOwn = t.line.cutOwn ∧
      (l.foldl State.makeAccess t).bench = t.bench ∧
      (l.foldl State.makeAccess t).freeNext = t.freeNext ∧
      (l.foldl State.makeAccess t).pending = t.pending := by
  induction l with
  | nil => intro t; simp
  | cons a l ih => intro t; simpa using ih (t.makeAccess a)

/-- An ask at the port's return touches the port's owner and the service state. -/
@[simp] theorem State.askAtReturn_frame (s : State) :
    s.askAtReturn.clock = s.clock ∧
    s.askAtReturn.mem = s.mem ∧
    s.askAtReturn.port.waits = s.port.waits ∧
    s.askAtReturn.eng = s.eng ∧
    s.askAtReturn.probe = s.probe ∧
    s.askAtReturn.check = s.check ∧
    s.askAtReturn.rail = s.rail ∧
    s.askAtReturn.power = s.power ∧
    s.askAtReturn.draw = s.draw ∧
    s.askAtReturn.faults = s.faults ∧
    s.askAtReturn.line = s.line ∧
    s.askAtReturn.bench.queue = s.bench.queue ∧
    s.askAtReturn.bench.discarded = s.bench.discarded ∧
    s.askAtReturn.freeNext = s.freeNext ∧
    s.askAtReturn.pending = s.pending := by
  unfold State.askAtReturn; split <;> simp

/-- The port's return: what the engine's waiting accesses can touch. -/
@[simp] theorem State.returnPort_frame (s : State) :
    s.returnPort.clock = s.clock ∧
    s.returnPort.eng.postIndex = s.eng.postIndex ∧
    s.returnPort.probe.direction = s.probe.direction ∧
    s.returnPort.probe.polarity = s.probe.polarity ∧
    s.returnPort.probe.drive = s.probe.drive ∧
    s.returnPort.probe.source = s.probe.source ∧
    s.returnPort.probe.strobe = s.probe.strobe ∧
    s.returnPort.check = s.check ∧
    s.returnPort.rail.channels = s.rail.channels ∧
    s.returnPort.rail.measured = s.rail.measured ∧
    s.returnPort.rail.tripMain = s.rail.tripMain ∧
    s.returnPort.rail.tripStandby = s.rail.tripStandby ∧
    s.returnPort.rail.overdrawCount = s.rail.overdrawCount ∧
    s.returnPort.rail.average = s.rail.average ∧
    s.returnPort.power.mainTrip = s.power.mainTrip ∧
    s.returnPort.power.standbyTrip = s.power.standbyTrip ∧
    s.returnPort.draw.table = s.draw.table ∧
    s.returnPort.faults = s.faults ∧
    s.returnPort.line.slot = s.line.slot ∧
    s.returnPort.line.rate = s.line.rate ∧
    s.returnPort.line.isSet = s.line.isSet ∧
    s.returnPort.line.params = s.line.params ∧
    s.returnPort.line.duplicate = s.line.duplicate ∧
    s.returnPort.line.receivedBad = s.line.receivedBad ∧
    s.returnPort.line.cutOwn = s.line.cutOwn ∧
    s.returnPort.bench.queue = s.bench.queue ∧
    s.returnPort.bench.discarded = s.bench.discarded ∧
    s.returnPort.freeNext = s.freeNext ∧
    s.returnPort.pending = s.pending := by
  unfold State.returnPort
  simp only []
  split
  · simp
  · split <;> simp

/-- A denied move touches the power state and the move. -/
@[simp] theorem State.moveDenied_frame (s : State) :
    (s.moveDenied).clock = s.clock ∧
    (s.moveDenied).mem = s.mem ∧
    (s.moveDenied).port = s.port ∧
    (s.moveDenied).eng = s.eng ∧
    (s.moveDenied).probe = s.probe ∧
    (s.moveDenied).check = s.check ∧
    (s.moveDenied).rail = s.rail ∧
    (s.moveDenied).power.standby = s.power.standby ∧
    (s.moveDenied).power.main = s.power.main ∧
    (s.moveDenied).power.mainTrip = s.power.mainTrip ∧
    (s.moveDenied).power.standbyTrip = s.power.standbyTrip ∧
    (s.moveDenied).power.declared = s.power.declared ∧
    (s.moveDenied).power.rampTimer = s.power.rampTimer ∧
    (s.moveDenied).draw = s.draw ∧
    (s.moveDenied).faults = s.faults ∧
    (s.moveDenied).line = s.line ∧
    (s.moveDenied).bench = s.bench ∧
    (s.moveDenied).freeNext = s.freeNext ∧
    (s.moveDenied).pending = s.pending := by
  unfold State.moveDenied; split <;> simp

/-- A refused claim: the held draw, the draw table and the switches stay. -/
@[simp] theorem State.claimRefused_frame (s : State) :
    (s.claimRefused).clock = s.clock ∧
    (s.claimRefused).eng.fetchIndex = s.eng.fetchIndex ∧
    (s.claimRefused).eng.postIndex = s.eng.postIndex ∧
    (s.claimRefused).eng.loops = s.eng.loops ∧
    (s.claimRefused).probe.direction = s.probe.direction ∧
    (s.claimRefused).probe.polarity = s.probe.polarity ∧
    (s.claimRefused).probe.drive = s.probe.drive ∧
    (s.claimRefused).probe.source = s.probe.source ∧
    (s.claimRefused).probe.nextIndex = s.probe.nextIndex ∧
    (s.claimRefused).probe.validCount = s.probe.validCount ∧
    (s.claimRefused).check = s.check ∧
    (s.claimRefused).rail.channels = s.rail.channels ∧
    (s.claimRefused).rail.measured = s.rail.measured ∧
    (s.claimRefused).rail.tripMain = s.rail.tripMain ∧
    (s.claimRefused).rail.tripStandby = s.rail.tripStandby ∧
    (s.claimRefused).rail.overdrawCount = s.rail.overdrawCount ∧
    (s.claimRefused).rail.zeroCapture = s.rail.zeroCapture ∧
    (s.claimRefused).power.standby = s.power.standby ∧
    (s.claimRefused).power.main = s.power.main ∧
    (s.claimRefused).power.mainTrip = s.power.mainTrip ∧
    (s.claimRefused).power.standbyTrip = s.power.standbyTrip ∧
    (s.claimRefused).power.declared = s.power.declared ∧
    (s.claimRefused).power.rampTimer = s.power.rampTimer ∧
    (s.claimRefused).draw.table = s.draw.table ∧
    (s.claimRefused).draw.held = s.draw.held ∧
    (s.claimRefused).faults = s.faults ∧
    (s.claimRefused).line.slot = s.line.slot ∧
    (s.claimRefused).line.rate = s.line.rate ∧
    (s.claimRefused).line.isSet = s.line.isSet ∧
    (s.claimRefused).line.params = s.line.params ∧
    (s.claimRefused).line.duplicate = s.line.duplicate ∧
    (s.claimRefused).line.receivedBad = s.line.receivedBad ∧
    (s.claimRefused).line.cutOwn = s.line.cutOwn ∧
    (s.claimRefused).bench = s.bench ∧
    (s.claimRefused).freeNext = s.freeNext ∧
    (s.claimRefused).pending = s.pending := by
  unfold State.claimRefused; simp only []; split <;> simp

/-- A CLAIM handed over, lost at once or not. -/
@[simp] theorem State.handClaim_frame (s : State) :
    (s.handClaim).clock = s.clock ∧
    (s.handClaim).eng.fetchIndex = s.eng.fetchIndex ∧
    (s.handClaim).eng.postIndex = s.eng.postIndex ∧
    (s.handClaim).eng.loops = s.eng.loops ∧
    (s.handClaim).probe.direction = s.probe.direction ∧
    (s.handClaim).probe.polarity = s.probe.polarity ∧
    (s.handClaim).probe.drive = s.probe.drive ∧
    (s.handClaim).probe.source = s.probe.source ∧
    (s.handClaim).probe.nextIndex = s.probe.nextIndex ∧
    (s.handClaim).probe.validCount = s.probe.validCount ∧
    (s.handClaim).check = s.check ∧
    (s.handClaim).rail.channels = s.rail.channels ∧
    (s.handClaim).rail.measured = s.rail.measured ∧
    (s.handClaim).rail.tripMain = s.rail.tripMain ∧
    (s.handClaim).rail.tripStandby = s.rail.tripStandby ∧
    (s.handClaim).rail.overdrawCount = s.rail.overdrawCount ∧
    (s.handClaim).rail.zeroCapture = s.rail.zeroCapture ∧
    (s.handClaim).power.standby = s.power.standby ∧
    (s.handClaim).power.main = s.power.main ∧
    (s.handClaim).power.mainTrip = s.power.mainTrip ∧
    (s.handClaim).power.standbyTrip = s.power.standbyTrip ∧
    (s.handClaim).power.declared = s.power.declared ∧
    (s.handClaim).power.rampTimer = s.power.rampTimer ∧
    (s.handClaim).draw.table = s.draw.table ∧
    (s.handClaim).draw.held = s.draw.held ∧
    (s.handClaim).faults = s.faults ∧
    (s.handClaim).line.slot = s.line.slot ∧
    (s.handClaim).line.rate = s.line.rate ∧
    (s.handClaim).line.isSet = s.line.isSet ∧
    (s.handClaim).line.params = s.line.params ∧
    (s.handClaim).line.duplicate = s.line.duplicate ∧
    (s.handClaim).line.receivedBad = s.line.receivedBad ∧
    (s.handClaim).line.cutOwn = s.line.cutOwn ∧
    (s.handClaim).bench = s.bench ∧
    (s.handClaim).freeNext = s.freeNext ∧
    (s.handClaim).pending = s.pending := by
  unfold State.handClaim; simp only []; repeat' split
  all_goals simp

/-- A dropped CLAIM. -/
@[simp] theorem State.claimDropped_frame (s : State) :
    (s.claimDropped).clock = s.clock ∧
    (s.claimDropped).eng.fetchIndex = s.eng.fetchIndex ∧
    (s.claimDropped).eng.postIndex = s.eng.postIndex ∧
    (s.claimDropped).eng.loops = s.eng.loops ∧
    (s.claimDropped).probe.direction = s.probe.direction ∧
    (s.claimDropped).probe.polarity = s.probe.polarity ∧
    (s.claimDropped).probe.drive = s.probe.drive ∧
    (s.claimDropped).probe.source = s.probe.source ∧
    (s.claimDropped).probe.nextIndex = s.probe.nextIndex ∧
    (s.claimDropped).probe.validCount = s.probe.validCount ∧
    (s.claimDropped).check = s.check ∧
    (s.claimDropped).rail.channels = s.rail.channels ∧
    (s.claimDropped).rail.measured = s.rail.measured ∧
    (s.claimDropped).rail.tripMain = s.rail.tripMain ∧
    (s.claimDropped).rail.tripStandby = s.rail.tripStandby ∧
    (s.claimDropped).rail.overdrawCount = s.rail.overdrawCount ∧
    (s.claimDropped).rail.zeroCapture = s.rail.zeroCapture ∧
    (s.claimDropped).power.standby = s.power.standby ∧
    (s.claimDropped).power.main = s.power.main ∧
    (s.claimDropped).power.mainTrip = s.power.mainTrip ∧
    (s.claimDropped).power.standbyTrip = s.power.standbyTrip ∧
    (s.claimDropped).power.declared = s.power.declared ∧
    (s.claimDropped).power.rampTimer = s.power.rampTimer ∧
    (s.claimDropped).draw.table = s.draw.table ∧
    (s.claimDropped).draw.held = s.draw.held ∧
    (s.claimDropped).faults = s.faults ∧
    (s.claimDropped).line.slot = s.line.slot ∧
    (s.claimDropped).line.rate = s.line.rate ∧
    (s.claimDropped).line.isSet = s.line.isSet ∧
    (s.claimDropped).line.params = s.line.params ∧
    (s.claimDropped).line.duplicate = s.line.duplicate ∧
    (s.claimDropped).line.receivedBad = s.line.receivedBad ∧
    (s.claimDropped).line.cutOwn = s.line.cutOwn ∧
    (s.claimDropped).bench = s.bench ∧
    (s.claimDropped).freeNext = s.freeNext ∧
    (s.claimDropped).pending = s.pending := by
  unfold State.claimDropped; simp only []; split <;> simp

/-- The own CLAIM heard. -/
@[simp] theorem State.claimHeard_frame (s : State) :
    (s.claimHeard).clock = s.clock ∧
    (s.claimHeard).eng.fetchIndex = s.eng.fetchIndex ∧
    (s.claimHeard).eng.postIndex = s.eng.postIndex ∧
    (s.claimHeard).eng.loops = s.eng.loops ∧
    (s.claimHeard).probe.direction = s.probe.direction ∧
    (s.claimHeard).probe.polarity = s.probe.polarity ∧
    (s.claimHeard).probe.drive = s.probe.drive ∧
    (s.claimHeard).probe.source = s.probe.source ∧
    (s.claimHeard).probe.nextIndex = s.probe.nextIndex ∧
    (s.claimHeard).probe.validCount = s.probe.validCount ∧
    (s.claimHeard).check = s.check ∧
    (s.claimHeard).rail.channels = s.rail.channels ∧
    (s.claimHeard).rail.measured = s.rail.measured ∧
    (s.claimHeard).rail.tripMain = s.rail.tripMain ∧
    (s.claimHeard).rail.tripStandby = s.rail.tripStandby ∧
    (s.claimHeard).rail.overdrawCount = s.rail.overdrawCount ∧
    (s.claimHeard).rail.zeroCapture = s.rail.zeroCapture ∧
    (s.claimHeard).power.standby = s.power.standby ∧
    (s.claimHeard).power.main = s.power.main ∧
    (s.claimHeard).power.mainTrip = s.power.mainTrip ∧
    (s.claimHeard).power.standbyTrip = s.power.standbyTrip ∧
    (s.claimHeard).power.declared = s.power.declared ∧
    (s.claimHeard).power.rampTimer = s.power.rampTimer ∧
    (s.claimHeard).draw.table = s.draw.table ∧
    (s.claimHeard).draw.held = s.draw.held ∧
    (s.claimHeard).faults = s.faults ∧
    (s.claimHeard).line.slot = s.line.slot ∧
    (s.claimHeard).line.rate = s.line.rate ∧
    (s.claimHeard).line.isSet = s.line.isSet ∧
    (s.claimHeard).line.params = s.line.params ∧
    (s.claimHeard).line.duplicate = s.line.duplicate ∧
    (s.claimHeard).line.receivedBad = s.line.receivedBad ∧
    (s.claimHeard).line.cutOwn = s.line.cutOwn ∧
    (s.claimHeard).bench = s.bench ∧
    (s.claimHeard).freeNext = s.freeNext ∧
    (s.claimHeard).pending = s.pending := by
  unfold State.claimHeard; simp only []; split <;> simp

/-- A claim asked for. -/
@[simp] theorem State.askClaim_frame (s : State) (d : Draw) :
    (s.askClaim d).clock = s.clock ∧
    (s.askClaim d).eng.fetchIndex = s.eng.fetchIndex ∧
    (s.askClaim d).eng.postIndex = s.eng.postIndex ∧
    (s.askClaim d).eng.loops = s.eng.loops ∧
    (s.askClaim d).probe.direction = s.probe.direction ∧
    (s.askClaim d).probe.polarity = s.probe.polarity ∧
    (s.askClaim d).probe.drive = s.probe.drive ∧
    (s.askClaim d).probe.source = s.probe.source ∧
    (s.askClaim d).probe.nextIndex = s.probe.nextIndex ∧
    (s.askClaim d).probe.validCount = s.probe.validCount ∧
    (s.askClaim d).check = s.check ∧
    (s.askClaim d).rail.channels = s.rail.channels ∧
    (s.askClaim d).rail.measured = s.rail.measured ∧
    (s.askClaim d).rail.tripMain = s.rail.tripMain ∧
    (s.askClaim d).rail.tripStandby = s.rail.tripStandby ∧
    (s.askClaim d).rail.overdrawCount = s.rail.overdrawCount ∧
    (s.askClaim d).rail.zeroCapture = s.rail.zeroCapture ∧
    (s.askClaim d).power.standby = s.power.standby ∧
    (s.askClaim d).power.main = s.power.main ∧
    (s.askClaim d).power.mainTrip = s.power.mainTrip ∧
    (s.askClaim d).power.standbyTrip = s.power.standbyTrip ∧
    (s.askClaim d).power.declared = s.power.declared ∧
    (s.askClaim d).power.rampTimer = s.power.rampTimer ∧
    (s.askClaim d).draw.table = s.draw.table ∧
    (s.askClaim d).draw.held = s.draw.held ∧
    (s.askClaim d).faults = s.faults ∧
    (s.askClaim d).line.slot = s.line.slot ∧
    (s.askClaim d).line.rate = s.line.rate ∧
    (s.askClaim d).line.isSet = s.line.isSet ∧
    (s.askClaim d).line.params = s.line.params ∧
    (s.askClaim d).line.duplicate = s.line.duplicate ∧
    (s.askClaim d).line.receivedBad = s.line.receivedBad ∧
    (s.askClaim d).line.cutOwn = s.line.cutOwn ∧
    (s.askClaim d).bench = s.bench ∧
    (s.askClaim d).freeNext = s.freeNext ∧
    (s.askClaim d).pending = s.pending := by
  unfold State.askClaim; simp only []; split <;> simp

/-- A FAIL notice handed over, which can shed an own CLAIM. -/
@[simp] theorem State.handFail_frame (s : State) (i : FaultInfo) (q : BitVec 16) :
    (s.handFail i q).clock = s.clock ∧
    (s.handFail i q).eng.fetchIndex = s.eng.fetchIndex ∧
    (s.handFail i q).eng.postIndex = s.eng.postIndex ∧
    (s.handFail i q).eng.loops = s.eng.loops ∧
    (s.handFail i q).probe.direction = s.probe.direction ∧
    (s.handFail i q).probe.polarity = s.probe.polarity ∧
    (s.handFail i q).probe.drive = s.probe.drive ∧
    (s.handFail i q).probe.source = s.probe.source ∧
    (s.handFail i q).probe.nextIndex = s.probe.nextIndex ∧
    (s.handFail i q).probe.validCount = s.probe.validCount ∧
    (s.handFail i q).check = s.check ∧
    (s.handFail i q).rail.channels = s.rail.channels ∧
    (s.handFail i q).rail.measured = s.rail.measured ∧
    (s.handFail i q).rail.tripMain = s.rail.tripMain ∧
    (s.handFail i q).rail.tripStandby = s.rail.tripStandby ∧
    (s.handFail i q).rail.overdrawCount = s.rail.overdrawCount ∧
    (s.handFail i q).rail.zeroCapture = s.rail.zeroCapture ∧
    (s.handFail i q).power.standby = s.power.standby ∧
    (s.handFail i q).power.main = s.power.main ∧
    (s.handFail i q).power.mainTrip = s.power.mainTrip ∧
    (s.handFail i q).power.standbyTrip = s.power.standbyTrip ∧
    (s.handFail i q).power.declared = s.power.declared ∧
    (s.handFail i q).power.rampTimer = s.power.rampTimer ∧
    (s.handFail i q).draw.table = s.draw.table ∧
    (s.handFail i q).draw.held = s.draw.held ∧
    (s.handFail i q).faults = s.faults ∧
    (s.handFail i q).line.slot = s.line.slot ∧
    (s.handFail i q).line.rate = s.line.rate ∧
    (s.handFail i q).line.isSet = s.line.isSet ∧
    (s.handFail i q).line.params = s.line.params ∧
    (s.handFail i q).line.duplicate = s.line.duplicate ∧
    (s.handFail i q).line.receivedBad = s.line.receivedBad ∧
    (s.handFail i q).line.cutOwn = s.line.cutOwn ∧
    (s.handFail i q).bench = s.bench ∧
    (s.handFail i q).freeNext = s.freeNext ∧
    (s.handFail i q).pending = s.pending := by
  unfold State.handFail; simp only []; split <;> simp

/-- A move ended by FAULT_FLOOD: the switches stay. -/
@[simp] theorem State.endMoveFlood_frame (s : State) :
    (s.endMoveFlood).clock = s.clock ∧
    (s.endMoveFlood).mem = s.mem ∧
    (s.endMoveFlood).port = s.port ∧
    (s.endMoveFlood).eng = s.eng ∧
    (s.endMoveFlood).probe = s.probe ∧
    (s.endMoveFlood).check = s.check ∧
    (s.endMoveFlood).rail.channels = s.rail.channels ∧
    (s.endMoveFlood).rail.measured = s.rail.measured ∧
    (s.endMoveFlood).rail.tripMain = s.rail.tripMain ∧
    (s.endMoveFlood).rail.tripStandby = s.rail.tripStandby ∧
    (s.endMoveFlood).rail.overdrawCount = s.rail.overdrawCount ∧
    (s.endMoveFlood).rail.average = s.rail.average ∧
    (s.endMoveFlood).power.standby = s.power.standby ∧
    (s.endMoveFlood).power.main = s.power.main ∧
    (s.endMoveFlood).power.mainTrip = s.power.mainTrip ∧
    (s.endMoveFlood).power.standbyTrip = s.power.standbyTrip ∧
    (s.endMoveFlood).draw.table = s.draw.table ∧
    (s.endMoveFlood).faults = s.faults ∧
    (s.endMoveFlood).line.slot = s.line.slot ∧
    (s.endMoveFlood).line.rate = s.line.rate ∧
    (s.endMoveFlood).line.isSet = s.line.isSet ∧
    (s.endMoveFlood).line.params = s.line.params ∧
    (s.endMoveFlood).line.duplicate = s.line.duplicate ∧
    (s.endMoveFlood).line.receivedBad = s.line.receivedBad ∧
    (s.endMoveFlood).line.cutOwn = s.line.cutOwn ∧
    (s.endMoveFlood).bench = s.bench ∧
    (s.endMoveFlood).freeNext = s.freeNext ∧
    (s.endMoveFlood).pending = s.pending := by
  unfold State.endMoveFlood; simp only []; repeat' split
  all_goals simp

/-- FAULT_FLOOD: the switches stay. -/
@[simp] theorem State.haltFlood_frame (s : State) :
    (s.haltFlood).clock = s.clock ∧
    (s.haltFlood).eng.fetchIndex = s.eng.fetchIndex ∧
    (s.haltFlood).eng.postIndex = s.eng.postIndex ∧
    (s.haltFlood).eng.loops = s.eng.loops ∧
    (s.haltFlood).probe.direction = s.probe.direction ∧
    (s.haltFlood).probe.polarity = s.probe.polarity ∧
    (s.haltFlood).probe.drive = s.probe.drive ∧
    (s.haltFlood).probe.source = s.probe.source ∧
    (s.haltFlood).probe.nextIndex = s.probe.nextIndex ∧
    (s.haltFlood).probe.validCount = s.probe.validCount ∧
    (s.haltFlood).check = s.check ∧
    (s.haltFlood).rail.channels = s.rail.channels ∧
    (s.haltFlood).rail.measured = s.rail.measured ∧
    (s.haltFlood).rail.tripMain = s.rail.tripMain ∧
    (s.haltFlood).rail.tripStandby = s.rail.tripStandby ∧
    (s.haltFlood).rail.overdrawCount = s.rail.overdrawCount ∧
    (s.haltFlood).power.standby = s.power.standby ∧
    (s.haltFlood).power.main = s.power.main ∧
    (s.haltFlood).power.mainTrip = s.power.mainTrip ∧
    (s.haltFlood).power.standbyTrip = s.power.standbyTrip ∧
    (s.haltFlood).draw.table = s.draw.table ∧
    (s.haltFlood).faults = s.faults ∧
    (s.haltFlood).line.slot = s.line.slot ∧
    (s.haltFlood).line.rate = s.line.rate ∧
    (s.haltFlood).line.isSet = s.line.isSet ∧
    (s.haltFlood).line.params = s.line.params ∧
    (s.haltFlood).line.duplicate = s.line.duplicate ∧
    (s.haltFlood).line.receivedBad = s.line.receivedBad ∧
    (s.haltFlood).line.cutOwn = s.line.cutOwn ∧
    (s.haltFlood).bench = s.bench ∧
    (s.haltFlood).freeNext = s.freeNext ∧
    (s.haltFlood).pending = s.pending := by
  unfold State.haltFlood; split <;> simp

/-- A fault recorded, or flooding: the switches, the trip limits, the check context and the draw table stay. -/
@[simp] theorem State.recordFault_frame (s : State) (i : FaultInfo) (a : Option GuardAction) :
    (s.recordFault i a).clock = s.clock ∧
    (s.recordFault i a).eng.fetchIndex = s.eng.fetchIndex ∧
    (s.recordFault i a).eng.postIndex = s.eng.postIndex ∧
    (s.recordFault i a).eng.loops = s.eng.loops ∧
    (s.recordFault i a).probe.direction = s.probe.direction ∧
    (s.recordFault i a).probe.polarity = s.probe.polarity ∧
    (s.recordFault i a).probe.drive = s.probe.drive ∧
    (s.recordFault i a).probe.source = s.probe.source ∧
    (s.recordFault i a).probe.nextIndex = s.probe.nextIndex ∧
    (s.recordFault i a).probe.validCount = s.probe.validCount ∧
    (s.recordFault i a).check = s.check ∧
    (s.recordFault i a).rail.channels = s.rail.channels ∧
    (s.recordFault i a).rail.measured = s.rail.measured ∧
    (s.recordFault i a).rail.tripMain = s.rail.tripMain ∧
    (s.recordFault i a).rail.tripStandby = s.rail.tripStandby ∧
    (s.recordFault i a).rail.overdrawCount = s.rail.overdrawCount ∧
    (s.recordFault i a).power.standby = s.power.standby ∧
    (s.recordFault i a).power.main = s.power.main ∧
    (s.recordFault i a).power.mainTrip = s.power.mainTrip ∧
    (s.recordFault i a).power.standbyTrip = s.power.standbyTrip ∧
    (s.recordFault i a).draw.table = s.draw.table ∧
    (s.recordFault i a).faults.notices = s.faults.notices ∧
    (s.recordFault i a).faults.noticeOverflow = s.faults.noticeOverflow ∧
    (s.recordFault i a).line.slot = s.line.slot ∧
    (s.recordFault i a).line.rate = s.line.rate ∧
    (s.recordFault i a).line.isSet = s.line.isSet ∧
    (s.recordFault i a).line.params = s.line.params ∧
    (s.recordFault i a).line.duplicate = s.line.duplicate ∧
    (s.recordFault i a).line.receivedBad = s.line.receivedBad ∧
    (s.recordFault i a).line.cutOwn = s.line.cutOwn ∧
    (s.recordFault i a).bench = s.bench ∧
    (s.recordFault i a).freeNext = s.freeNext ∧
    (s.recordFault i a).pending = s.pending := by
  unfold State.recordFault; simp only []; repeat' split
  all_goals simp

/-- JUDGING entered. -/
@[simp] theorem State.enterJudging_frame (s : State) (q : BitVec 16) :
    (s.enterJudging q).clock = s.clock ∧
    (s.enterJudging q).mem = s.mem ∧
    (s.enterJudging q).port.waits = s.port.waits ∧
    (s.enterJudging q).eng.job = s.eng.job ∧
    (s.enterJudging q).eng.fetchIndex = s.eng.fetchIndex ∧
    (s.enterJudging q).eng.postIndex = s.eng.postIndex ∧
    (s.enterJudging q).eng.loops = s.eng.loops ∧
    (s.enterJudging q).eng.copy = s.eng.copy ∧
    (s.enterJudging q).eng.attempt = s.eng.attempt ∧
    (s.enterJudging q).eng.latch = s.eng.latch ∧
    (s.enterJudging q).eng.haltReason = s.eng.haltReason ∧
    (s.enterJudging q).eng.haltIndex = s.eng.haltIndex ∧
    (s.enterJudging q).probe = s.probe ∧
    (s.enterJudging q).check = s.check ∧
    (s.enterJudging q).rail = s.rail ∧
    (s.enterJudging q).power = s.power ∧
    (s.enterJudging q).draw = s.draw ∧
    (s.enterJudging q).faults = s.faults ∧
    (s.enterJudging q).line = s.line ∧
    (s.enterJudging q).bench = s.bench ∧
    (s.enterJudging q).freeNext = s.freeNext ∧
    (s.enterJudging q).pending = s.pending := by
  unfold State.enterJudging; split <;> simp

/-- A fault against the record in flight. -/
@[simp] theorem State.stepFault_frame (s : State) (i : FaultInfo) :
    (s.stepFault i).clock = s.clock ∧
    (s.stepFault i).eng.fetchIndex = s.eng.fetchIndex ∧
    (s.stepFault i).eng.postIndex = s.eng.postIndex ∧
    (s.stepFault i).eng.loops = s.eng.loops ∧
    (s.stepFault i).probe.direction = s.probe.direction ∧
    (s.stepFault i).probe.polarity = s.probe.polarity ∧
    (s.stepFault i).probe.drive = s.probe.drive ∧
    (s.stepFault i).probe.source = s.probe.source ∧
    (s.stepFault i).probe.nextIndex = s.probe.nextIndex ∧
    (s.stepFault i).probe.validCount = s.probe.validCount ∧
    (s.stepFault i).check = s.check ∧
    (s.stepFault i).rail.channels = s.rail.channels ∧
    (s.stepFault i).rail.measured = s.rail.measured ∧
    (s.stepFault i).rail.tripMain = s.rail.tripMain ∧
    (s.stepFault i).rail.tripStandby = s.rail.tripStandby ∧
    (s.stepFault i).rail.overdrawCount = s.rail.overdrawCount ∧
    (s.stepFault i).power.standby = s.power.standby ∧
    (s.stepFault i).power.main = s.power.main ∧
    (s.stepFault i).power.mainTrip = s.power.mainTrip ∧
    (s.stepFault i).power.standbyTrip = s.power.standbyTrip ∧
    (s.stepFault i).draw.table = s.draw.table ∧
    (s.stepFault i).faults.notices = s.faults.notices ∧
    (s.stepFault i).faults.noticeOverflow = s.faults.noticeOverflow ∧
    (s.stepFault i).line.slot = s.line.slot ∧
    (s.stepFault i).line.rate = s.line.rate ∧
    (s.stepFault i).line.isSet = s.line.isSet ∧
    (s.stepFault i).line.params = s.line.params ∧
    (s.stepFault i).line.duplicate = s.line.duplicate ∧
    (s.stepFault i).line.receivedBad = s.line.receivedBad ∧
    (s.stepFault i).line.cutOwn = s.line.cutOwn ∧
    (s.stepFault i).bench = s.bench ∧
    (s.stepFault i).freeNext = s.freeNext ∧
    (s.stepFault i).pending = s.pending := by
  unfold State.stepFault; split <;> simp

/-- The target reached: what a completion touches. -/
@[simp] theorem State.powerReached_frame (s : State) :
    (s.powerReached).clock = s.clock ∧
    (s.powerReached).eng.postIndex = s.eng.postIndex ∧
    (s.powerReached).probe = s.probe ∧
    (s.powerReached).check = s.check ∧
    (s.powerReached).rail.channels = s.rail.channels ∧
    (s.powerReached).rail.measured = s.rail.measured ∧
    (s.powerReached).rail.tripMain = s.rail.tripMain ∧
    (s.powerReached).rail.tripStandby = s.rail.tripStandby ∧
    (s.powerReached).rail.overdrawCount = s.rail.overdrawCount ∧
    (s.powerReached).rail.average = s.rail.average ∧
    (s.powerReached).power.mainTrip = s.power.mainTrip ∧
    (s.powerReached).power.standbyTrip = s.power.standbyTrip ∧
    (s.powerReached).draw.table = s.draw.table ∧
    (s.powerReached).faults = s.faults ∧
    (s.powerReached).line.slot = s.line.slot ∧
    (s.powerReached).line.rate = s.line.rate ∧
    (s.powerReached).line.isSet = s.line.isSet ∧
    (s.powerReached).line.params = s.line.params ∧
    (s.powerReached).line.duplicate = s.line.duplicate ∧
    (s.powerReached).line.receivedBad = s.line.receivedBad ∧
    (s.powerReached).line.cutOwn = s.line.cutOwn ∧
    (s.powerReached).bench = s.bench ∧
    (s.powerReached).freeNext = s.freeNext ∧
    (s.powerReached).pending = s.pending := by
  unfold State.powerReached; split <;> simp

/-- RAMPING entered touches the Power Path alone. -/
@[simp] theorem State.enterRamping_frame (s : State) :
    (s.enterRamping).clock = s.clock ∧
    (s.enterRamping).mem = s.mem ∧
    (s.enterRamping).port = s.port ∧
    (s.enterRamping).eng = s.eng ∧
    (s.enterRamping).probe = s.probe ∧
    (s.enterRamping).check = s.check ∧
    (s.enterRamping).rail = s.rail ∧
    (s.enterRamping).power.mainTrip = s.power.mainTrip ∧
    (s.enterRamping).power.standbyTrip = s.power.standbyTrip ∧
    (s.enterRamping).draw = s.draw ∧
    (s.enterRamping).faults = s.faults ∧
    (s.enterRamping).line = s.line ∧
    (s.enterRamping).bench = s.bench ∧
    (s.enterRamping).freeNext = s.freeNext ∧
    (s.enterRamping).pending = s.pending := by
  unfold State.enterRamping; split <;> simp

/-- A capture done: the held draw stays. -/
@[simp] theorem State.captureDone_frame (s : State) :
    (s.captureDone).clock = s.clock ∧
    (s.captureDone).eng.fetchIndex = s.eng.fetchIndex ∧
    (s.captureDone).eng.postIndex = s.eng.postIndex ∧
    (s.captureDone).eng.loops = s.eng.loops ∧
    (s.captureDone).probe.direction = s.probe.direction ∧
    (s.captureDone).probe.polarity = s.probe.polarity ∧
    (s.captureDone).probe.drive = s.probe.drive ∧
    (s.captureDone).probe.source = s.probe.source ∧
    (s.captureDone).probe.nextIndex = s.probe.nextIndex ∧
    (s.captureDone).probe.validCount = s.probe.validCount ∧
    (s.captureDone).check = s.check ∧
    (s.captureDone).rail.channels = s.rail.channels ∧
    (s.captureDone).rail.measured = s.rail.measured ∧
    (s.captureDone).rail.tripMain = s.rail.tripMain ∧
    (s.captureDone).rail.tripStandby = s.rail.tripStandby ∧
    (s.captureDone).rail.overdrawCount = s.rail.overdrawCount ∧
    (s.captureDone).rail.zeroCapture = s.rail.zeroCapture ∧
    (s.captureDone).power.mainTrip = s.power.mainTrip ∧
    (s.captureDone).power.standbyTrip = s.power.standbyTrip ∧
    (s.captureDone).draw.table = s.draw.table ∧
    (s.captureDone).draw.held = s.draw.held ∧
    (s.captureDone).faults = s.faults ∧
    (s.captureDone).line.slot = s.line.slot ∧
    (s.captureDone).line.rate = s.line.rate ∧
    (s.captureDone).line.isSet = s.line.isSet ∧
    (s.captureDone).line.params = s.line.params ∧
    (s.captureDone).line.duplicate = s.line.duplicate ∧
    (s.captureDone).line.receivedBad = s.line.receivedBad ∧
    (s.captureDone).line.cutOwn = s.line.cutOwn ∧
    (s.captureDone).bench = s.bench ∧
    (s.captureDone).freeNext = s.freeNext ∧
    (s.captureDone).pending = s.pending := by
  unfold State.captureDone; split
  · simp
  · split <;> simp

/-- A capture failed touches the power state and the move. -/
@[simp] theorem State.captureFailed_frame (s : State) :
    (s.captureFailed).clock = s.clock ∧
    (s.captureFailed).mem = s.mem ∧
    (s.captureFailed).port = s.port ∧
    (s.captureFailed).eng = s.eng ∧
    (s.captureFailed).probe = s.probe ∧
    (s.captureFailed).check = s.check ∧
    (s.captureFailed).rail = s.rail ∧
    (s.captureFailed).power.standby = s.power.standby ∧
    (s.captureFailed).power.main = s.power.main ∧
    (s.captureFailed).power.mainTrip = s.power.mainTrip ∧
    (s.captureFailed).power.standbyTrip = s.power.standbyTrip ∧
    (s.captureFailed).power.declared = s.power.declared ∧
    (s.captureFailed).power.rampTimer = s.power.rampTimer ∧
    (s.captureFailed).draw = s.draw ∧
    (s.captureFailed).faults = s.faults ∧
    (s.captureFailed).line = s.line ∧
    (s.captureFailed).bench = s.bench ∧
    (s.captureFailed).freeNext = s.freeNext ∧
    (s.captureFailed).pending = s.pending := by
  unfold State.captureFailed; split <;> simp

/-- A set-draw claim started: the switches and the held draw stay. -/
@[simp] theorem State.startSetClaim_frame (s : State) (p : PowerState) (o : PowerOp) :
    (s.startSetClaim p o).clock = s.clock ∧
    (s.startSetClaim p o).eng.fetchIndex = s.eng.fetchIndex ∧
    (s.startSetClaim p o).eng.postIndex = s.eng.postIndex ∧
    (s.startSetClaim p o).eng.loops = s.eng.loops ∧
    (s.startSetClaim p o).probe.direction = s.probe.direction ∧
    (s.startSetClaim p o).probe.polarity = s.probe.polarity ∧
    (s.startSetClaim p o).probe.drive = s.probe.drive ∧
    (s.startSetClaim p o).probe.source = s.probe.source ∧
    (s.startSetClaim p o).probe.nextIndex = s.probe.nextIndex ∧
    (s.startSetClaim p o).probe.validCount = s.probe.validCount ∧
    (s.startSetClaim p o).check = s.check ∧
    (s.startSetClaim p o).rail.channels = s.rail.channels ∧
    (s.startSetClaim p o).rail.measured = s.rail.measured ∧
    (s.startSetClaim p o).rail.tripMain = s.rail.tripMain ∧
    (s.startSetClaim p o).rail.tripStandby = s.rail.tripStandby ∧
    (s.startSetClaim p o).rail.overdrawCount = s.rail.overdrawCount ∧
    (s.startSetClaim p o).rail.zeroCapture = s.rail.zeroCapture ∧
    (s.startSetClaim p o).power.standby = s.power.standby ∧
    (s.startSetClaim p o).power.main = s.power.main ∧
    (s.startSetClaim p o).power.mainTrip = s.power.mainTrip ∧
    (s.startSetClaim p o).power.standbyTrip = s.power.standbyTrip ∧
    (s.startSetClaim p o).power.declared = s.power.declared ∧
    (s.startSetClaim p o).power.rampTimer = s.power.rampTimer ∧
    (s.startSetClaim p o).draw.table = s.draw.table ∧
    (s.startSetClaim p o).draw.held = s.draw.held ∧
    (s.startSetClaim p o).faults = s.faults ∧
    (s.startSetClaim p o).line.slot = s.line.slot ∧
    (s.startSetClaim p o).line.rate = s.line.rate ∧
    (s.startSetClaim p o).line.isSet = s.line.isSet ∧
    (s.startSetClaim p o).line.params = s.line.params ∧
    (s.startSetClaim p o).line.duplicate = s.line.duplicate ∧
    (s.startSetClaim p o).line.receivedBad = s.line.receivedBad ∧
    (s.startSetClaim p o).line.cutOwn = s.line.cutOwn ∧
    (s.startSetClaim p o).bench = s.bench ∧
    (s.startSetClaim p o).freeNext = s.freeNext ∧
    (s.startSetClaim p o).pending = s.pending := by
  simp [State.startSetClaim]

/-- An upward move started: the switches stay. -/
@[simp] theorem State.startUpward_frame (s : State) (o : PowerOp) :
    (s.startUpward o).clock = s.clock ∧
    (s.startUpward o).mem = s.mem ∧
    (s.startUpward o).port.waits = s.port.waits ∧
    (s.startUpward o).eng.job = s.eng.job ∧
    (s.startUpward o).eng.fetchIndex = s.eng.fetchIndex ∧
    (s.startUpward o).eng.postIndex = s.eng.postIndex ∧
    (s.startUpward o).eng.loops = s.eng.loops ∧
    (s.startUpward o).eng.copy = s.eng.copy ∧
    (s.startUpward o).eng.attempt = s.eng.attempt ∧
    (s.startUpward o).eng.judged = s.eng.judged ∧
    (s.startUpward o).eng.latch = s.eng.latch ∧
    (s.startUpward o).eng.haltReason = s.eng.haltReason ∧
    (s.startUpward o).eng.haltIndex = s.eng.haltIndex ∧
    (s.startUpward o).probe = s.probe ∧
    (s.startUpward o).check = s.check ∧
    (s.startUpward o).rail.channels = s.rail.channels ∧
    (s.startUpward o).rail.measured = s.rail.measured ∧
    (s.startUpward o).rail.tripMain = s.rail.tripMain ∧
    (s.startUpward o).rail.tripStandby = s.rail.tripStandby ∧
    (s.startUpward o).rail.overdrawCount = s.rail.overdrawCount ∧
    (s.startUpward o).rail.average = s.rail.average ∧
    (s.startUpward o).power.standby = s.power.standby ∧
    (s.startUpward o).power.main = s.power.main ∧
    (s.startUpward o).power.mainTrip = s.power.mainTrip ∧
    (s.startUpward o).power.standbyTrip = s.power.standbyTrip ∧
    (s.startUpward o).power.declared = s.power.declared ∧
    (s.startUpward o).power.rampTimer = s.power.rampTimer ∧
    (s.startUpward o).draw = s.draw ∧
    (s.startUpward o).faults = s.faults ∧
    (s.startUpward o).line = s.line ∧
    (s.startUpward o).bench = s.bench ∧
    (s.startUpward o).freeNext = s.freeNext ∧
    (s.startUpward o).pending = s.pending := by
  simp [State.startUpward]

/-- A lower draw taken at once. -/
@[simp] theorem State.lowerDraw_frame (s : State) (d : Draw) :
    (s.lowerDraw d).clock = s.clock ∧
    (s.lowerDraw d).mem = s.mem ∧
    (s.lowerDraw d).port = s.port ∧
    (s.lowerDraw d).eng = s.eng ∧
    (s.lowerDraw d).probe = s.probe ∧
    (s.lowerDraw d).check = s.check ∧
    (s.lowerDraw d).rail = s.rail ∧
    (s.lowerDraw d).power.state = s.power.state ∧
    (s.lowerDraw d).power.standby = s.power.standby ∧
    (s.lowerDraw d).power.main = s.power.main ∧
    (s.lowerDraw d).power.mainTrip = s.power.mainTrip ∧
    (s.lowerDraw d).power.standbyTrip = s.power.standbyTrip ∧
    (s.lowerDraw d).power.move = s.power.move ∧
    (s.lowerDraw d).power.rampTimer = s.power.rampTimer ∧
    (s.lowerDraw d).draw.table = s.draw.table ∧
    (s.lowerDraw d).draw.claimState = s.draw.claimState ∧
    (s.lowerDraw d).draw.claim = s.draw.claim ∧
    (s.lowerDraw d).draw.mark = s.draw.mark ∧
    (s.lowerDraw d).draw.windowTimer = s.draw.windowTimer ∧
    (s.lowerDraw d).draw.backoffTimer = s.draw.backoffTimer ∧
    (s.lowerDraw d).faults = s.faults ∧
    (s.lowerDraw d).line.slot = s.line.slot ∧
    (s.lowerDraw d).line.rate = s.line.rate ∧
    (s.lowerDraw d).line.isSet = s.line.isSet ∧
    (s.lowerDraw d).line.params = s.line.params ∧
    (s.lowerDraw d).line.duplicate = s.line.duplicate ∧
    (s.lowerDraw d).line.receivedBad = s.line.receivedBad ∧
    (s.lowerDraw d).line.cutOwn = s.line.cutOwn ∧
    (s.lowerDraw d).bench = s.bench ∧
    (s.lowerDraw d).freeNext = s.freeNext ∧
    (s.lowerDraw d).pending = s.pending := by
  simp [State.lowerDraw]

/-- A set-draw move. -/
@[simp] theorem State.setDraw_frame (s : State) (o : PowerOp) :
    (s.setDraw o).clock = s.clock ∧
    (s.setDraw o).eng.postIndex = s.eng.postIndex ∧
    (s.setDraw o).probe.direction = s.probe.direction ∧
    (s.setDraw o).probe.polarity = s.probe.polarity ∧
    (s.setDraw o).probe.drive = s.probe.drive ∧
    (s.setDraw o).probe.source = s.probe.source ∧
    (s.setDraw o).probe.nextIndex = s.probe.nextIndex ∧
    (s.setDraw o).probe.validCount = s.probe.validCount ∧
    (s.setDraw o).check = s.check ∧
    (s.setDraw o).rail.channels = s.rail.channels ∧
    (s.setDraw o).rail.measured = s.rail.measured ∧
    (s.setDraw o).rail.tripMain = s.rail.tripMain ∧
    (s.setDraw o).rail.tripStandby = s.rail.tripStandby ∧
    (s.setDraw o).rail.overdrawCount = s.rail.overdrawCount ∧
    (s.setDraw o).power.mainTrip = s.power.mainTrip ∧
    (s.setDraw o).power.standbyTrip = s.power.standbyTrip ∧
    (s.setDraw o).draw.table = s.draw.table ∧
    (s.setDraw o).faults = s.faults ∧
    (s.setDraw o).line.slot = s.line.slot ∧
    (s.setDraw o).line.rate = s.line.rate ∧
    (s.setDraw o).line.isSet = s.line.isSet ∧
    (s.setDraw o).line.params = s.line.params ∧
    (s.setDraw o).line.duplicate = s.line.duplicate ∧
    (s.setDraw o).line.receivedBad = s.line.receivedBad ∧
    (s.setDraw o).line.cutOwn = s.line.cutOwn ∧
    (s.setDraw o).bench = s.bench ∧
    (s.setDraw o).freeNext = s.freeNext ∧
    (s.setDraw o).pending = s.pending := by
  unfold State.setDraw; repeat' split
  all_goals simp

/-- A downward move. -/
@[simp] theorem State.downward_frame (s : State) (o : PowerOp) :
    (s.downward o).clock = s.clock ∧
    (s.downward o).eng.postIndex = s.eng.postIndex ∧
    (s.downward o).probe.direction = s.probe.direction ∧
    (s.downward o).probe.polarity = s.probe.polarity ∧
    (s.downward o).probe.drive = s.probe.drive ∧
    (s.downward o).probe.source = s.probe.source ∧
    (s.downward o).probe.nextIndex = s.probe.nextIndex ∧
    (s.downward o).probe.validCount = s.probe.validCount ∧
    (s.downward o).check = s.check ∧
    (s.downward o).rail.channels = s.rail.channels ∧
    (s.downward o).rail.measured = s.rail.measured ∧
    (s.downward o).rail.tripMain = s.rail.tripMain ∧
    (s.downward o).rail.tripStandby = s.rail.tripStandby ∧
    (s.downward o).rail.overdrawCount = s.rail.overdrawCount ∧
    (s.downward o).power.mainTrip = s.power.mainTrip ∧
    (s.downward o).power.standbyTrip = s.power.standbyTrip ∧
    (s.downward o).draw.table = s.draw.table ∧
    (s.downward o).faults = s.faults ∧
    (s.downward o).line.slot = s.line.slot ∧
    (s.downward o).line.rate = s.line.rate ∧
    (s.downward o).line.isSet = s.line.isSet ∧
    (s.downward o).line.params = s.line.params ∧
    (s.downward o).line.duplicate = s.line.duplicate ∧
    (s.downward o).line.receivedBad = s.line.receivedBad ∧
    (s.downward o).line.cutOwn = s.line.cutOwn ∧
    (s.downward o).bench = s.bench ∧
    (s.downward o).freeNext = s.freeNext ∧
    (s.downward o).pending = s.pending := by
  unfold State.downward; simp only []; repeat' split
  all_goals simp

/-- A granted claim. -/
@[simp] theorem State.claimGranted_frame (s : State) :
    (s.claimGranted).clock = s.clock ∧
    (s.claimGranted).eng.postIndex = s.eng.postIndex ∧
    (s.claimGranted).probe = s.probe ∧
    (s.claimGranted).check = s.check ∧
    (s.claimGranted).rail.channels = s.rail.channels ∧
    (s.claimGranted).rail.measured = s.rail.measured ∧
    (s.claimGranted).rail.tripMain = s.rail.tripMain ∧
    (s.claimGranted).rail.tripStandby = s.rail.tripStandby ∧
    (s.claimGranted).rail.overdrawCount = s.rail.overdrawCount ∧
    (s.claimGranted).rail.average = s.rail.average ∧
    (s.claimGranted).power.mainTrip = s.power.mainTrip ∧
    (s.claimGranted).power.standbyTrip = s.power.standbyTrip ∧
    (s.claimGranted).draw.table = s.draw.table ∧
    (s.claimGranted).faults = s.faults ∧
    (s.claimGranted).line.slot = s.line.slot ∧
    (s.claimGranted).line.rate = s.line.rate ∧
    (s.claimGranted).line.isSet = s.line.isSet ∧
    (s.claimGranted).line.params = s.line.params ∧
    (s.claimGranted).line.duplicate = s.line.duplicate ∧
    (s.claimGranted).line.receivedBad = s.line.receivedBad ∧
    (s.claimGranted).line.cutOwn = s.line.cutOwn ∧
    (s.claimGranted).bench = s.bench ∧
    (s.claimGranted).freeNext = s.freeNext ∧
    (s.claimGranted).pending = s.pending := by
  unfold State.claimGranted; simp only []; repeat' split
  all_goals simp

/-- The end of a ramp. -/
@[simp] theorem State.rampEnded_frame (s : State) :
    (s.rampEnded).clock = s.clock ∧
    (s.rampEnded).eng.postIndex = s.eng.postIndex ∧
    (s.rampEnded).probe = s.probe ∧
    (s.rampEnded).check = s.check ∧
    (s.rampEnded).rail.channels = s.rail.channels ∧
    (s.rampEnded).rail.measured = s.rail.measured ∧
    (s.rampEnded).rail.tripMain = s.rail.tripMain ∧
    (s.rampEnded).rail.tripStandby = s.rail.tripStandby ∧
    (s.rampEnded).rail.overdrawCount = s.rail.overdrawCount ∧
    (s.rampEnded).rail.average = s.rail.average ∧
    (s.rampEnded).power.mainTrip = s.power.mainTrip ∧
    (s.rampEnded).power.standbyTrip = s.power.standbyTrip ∧
    (s.rampEnded).draw.table = s.draw.table ∧
    (s.rampEnded).faults = s.faults ∧
    (s.rampEnded).line.slot = s.line.slot ∧
    (s.rampEnded).line.rate = s.line.rate ∧
    (s.rampEnded).line.isSet = s.line.isSet ∧
    (s.rampEnded).line.params = s.line.params ∧
    (s.rampEnded).line.duplicate = s.line.duplicate ∧
    (s.rampEnded).line.receivedBad = s.line.receivedBad ∧
    (s.rampEnded).line.cutOwn = s.line.cutOwn ∧
    (s.rampEnded).bench = s.bench ∧
    (s.rampEnded).freeNext = s.freeNext ∧
    (s.rampEnded).pending = s.pending := by
  unfold State.rampEnded; split <;> simp

/-- A SAMPLE started. -/
@[simp] theorem State.startSample_frame (s : State) :
    (s.startSample).clock = s.clock ∧
    (s.startSample).mem = s.mem ∧
    (s.startSample).port.waits = s.port.waits ∧
    (s.startSample).eng.job = s.eng.job ∧
    (s.startSample).eng.fetchIndex = s.eng.fetchIndex ∧
    (s.startSample).eng.postIndex = s.eng.postIndex ∧
    (s.startSample).eng.loops = s.eng.loops ∧
    (s.startSample).eng.copy = s.eng.copy ∧
    (s.startSample).eng.attempt = s.eng.attempt ∧
    (s.startSample).eng.judged = s.eng.judged ∧
    (s.startSample).eng.latch = s.eng.latch ∧
    (s.startSample).eng.haltReason = s.eng.haltReason ∧
    (s.startSample).eng.haltIndex = s.eng.haltIndex ∧
    (s.startSample).probe.direction = s.probe.direction ∧
    (s.startSample).probe.polarity = s.probe.polarity ∧
    (s.startSample).probe.drive = s.probe.drive ∧
    (s.startSample).probe.source = s.probe.source ∧
    (s.startSample).probe.nextIndex = s.probe.nextIndex ∧
    (s.startSample).probe.validCount = s.probe.validCount ∧
    (s.startSample).check = s.check ∧
    (s.startSample).rail = s.rail ∧
    (s.startSample).power = s.power ∧
    (s.startSample).draw = s.draw ∧
    (s.startSample).faults = s.faults ∧
    (s.startSample).line = s.line ∧
    (s.startSample).bench = s.bench ∧
    (s.startSample).freeNext = s.freeNext ∧
    (s.startSample).pending = s.pending := by
  simp [State.startSample]

/-- A capture entry stored or waiting. -/
@[simp] theorem State.storeCapture_frame (s : State) (e : Record) (o : Option StepOutcome) :
    (s.storeCapture e o).clock = s.clock ∧
    (s.storeCapture e o).port.owner = s.port.owner ∧
    (s.storeCapture e o).eng = s.eng ∧
    (s.storeCapture e o).probe.direction = s.probe.direction ∧
    (s.storeCapture e o).probe.polarity = s.probe.polarity ∧
    (s.storeCapture e o).probe.drive = s.probe.drive ∧
    (s.storeCapture e o).probe.source = s.probe.source ∧
    (s.storeCapture e o).probe.strobe = s.probe.strobe ∧
    (s.storeCapture e o).check = s.check ∧
    (s.storeCapture e o).rail = s.rail ∧
    (s.storeCapture e o).power = s.power ∧
    (s.storeCapture e o).draw = s.draw ∧
    (s.storeCapture e o).faults = s.faults ∧
    (s.storeCapture e o).line = s.line ∧
    (s.storeCapture e o).bench = s.bench ∧
    (s.storeCapture e o).freeNext = s.freeNext ∧
    (s.storeCapture e o).pending = s.pending := by
  unfold State.storeCapture; split <;> simp

/-- A strobe judged. -/
@[simp] theorem State.strobeJudged_frame (s : State) (r : Record) (l : Levels) (q : Bool) (f : FieldResult) (i : FaultInfo) :
    (s.strobeJudged r l q f i).clock = s.clock ∧
    (s.strobeJudged r l q f i).eng.postIndex = s.eng.postIndex ∧
    (s.strobeJudged r l q f i).probe.direction = s.probe.direction ∧
    (s.strobeJudged r l q f i).probe.polarity = s.probe.polarity ∧
    (s.strobeJudged r l q f i).probe.drive = s.probe.drive ∧
    (s.strobeJudged r l q f i).probe.source = s.probe.source ∧
    (s.strobeJudged r l q f i).check = s.check ∧
    (s.strobeJudged r l q f i).rail.channels = s.rail.channels ∧
    (s.strobeJudged r l q f i).rail.measured = s.rail.measured ∧
    (s.strobeJudged r l q f i).rail.tripMain = s.rail.tripMain ∧
    (s.strobeJudged r l q f i).rail.tripStandby = s.rail.tripStandby ∧
    (s.strobeJudged r l q f i).rail.overdrawCount = s.rail.overdrawCount ∧
    (s.strobeJudged r l q f i).power.mainTrip = s.power.mainTrip ∧
    (s.strobeJudged r l q f i).power.standbyTrip = s.power.standbyTrip ∧
    (s.strobeJudged r l q f i).draw.table = s.draw.table ∧
    (s.strobeJudged r l q f i).faults.notices = s.faults.notices ∧
    (s.strobeJudged r l q f i).faults.noticeOverflow = s.faults.noticeOverflow ∧
    (s.strobeJudged r l q f i).line.slot = s.line.slot ∧
    (s.strobeJudged r l q f i).line.rate = s.line.rate ∧
    (s.strobeJudged r l q f i).line.isSet = s.line.isSet ∧
    (s.strobeJudged r l q f i).line.params = s.line.params ∧
    (s.strobeJudged r l q f i).line.duplicate = s.line.duplicate ∧
    (s.strobeJudged r l q f i).line.receivedBad = s.line.receivedBad ∧
    (s.strobeJudged r l q f i).line.cutOwn = s.line.cutOwn ∧
    (s.strobeJudged r l q f i).bench = s.bench ∧
    (s.strobeJudged r l q f i).freeNext = s.freeNext ∧
    (s.strobeJudged r l q f i).pending = s.pending := by
  unfold State.strobeJudged; simp only []; repeat' split
  all_goals simp

/-- A strobe completed. -/
@[simp] theorem State.strobeComplete_frame (s : State) (l : Levels) (q : Bool) :
    (s.strobeComplete l q).clock = s.clock ∧
    (s.strobeComplete l q).eng.postIndex = s.eng.postIndex ∧
    (s.strobeComplete l q).probe.direction = s.probe.direction ∧
    (s.strobeComplete l q).probe.polarity = s.probe.polarity ∧
    (s.strobeComplete l q).probe.drive = s.probe.drive ∧
    (s.strobeComplete l q).probe.source = s.probe.source ∧
    (s.strobeComplete l q).rail.channels = s.rail.channels ∧
    (s.strobeComplete l q).rail.measured = s.rail.measured ∧
    (s.strobeComplete l q).rail.tripMain = s.rail.tripMain ∧
    (s.strobeComplete l q).rail.tripStandby = s.rail.tripStandby ∧
    (s.strobeComplete l q).rail.overdrawCount = s.rail.overdrawCount ∧
    (s.strobeComplete l q).power.mainTrip = s.power.mainTrip ∧
    (s.strobeComplete l q).power.standbyTrip = s.power.standbyTrip ∧
    (s.strobeComplete l q).draw.table = s.draw.table ∧
    (s.strobeComplete l q).faults.notices = s.faults.notices ∧
    (s.strobeComplete l q).faults.noticeOverflow = s.faults.noticeOverflow ∧
    (s.strobeComplete l q).line.slot = s.line.slot ∧
    (s.strobeComplete l q).line.rate = s.line.rate ∧
    (s.strobeComplete l q).line.isSet = s.line.isSet ∧
    (s.strobeComplete l q).line.params = s.line.params ∧
    (s.strobeComplete l q).line.duplicate = s.line.duplicate ∧
    (s.strobeComplete l q).line.receivedBad = s.line.receivedBad ∧
    (s.strobeComplete l q).line.cutOwn = s.line.cutOwn ∧
    (s.strobeComplete l q).bench = s.bench ∧
    (s.strobeComplete l q).freeNext = s.freeNext ∧
    (s.strobeComplete l q).pending = s.pending := by
  unfold State.strobeComplete; simp only []; repeat' split
  all_goals simp

/-- The hold-off wait ended. -/
@[simp] theorem State.holdOffEnded_frame (s : State) (o : SampleOp) (a : Time) (l : Levels) :
    (s.holdOffEnded o a l).clock = s.clock ∧
    (s.holdOffEnded o a l).eng.postIndex = s.eng.postIndex ∧
    (s.holdOffEnded o a l).probe.direction = s.probe.direction ∧
    (s.holdOffEnded o a l).probe.polarity = s.probe.polarity ∧
    (s.holdOffEnded o a l).probe.drive = s.probe.drive ∧
    (s.holdOffEnded o a l).probe.source = s.probe.source ∧
    (s.holdOffEnded o a l).rail.channels = s.rail.channels ∧
    (s.holdOffEnded o a l).rail.measured = s.rail.measured ∧
    (s.holdOffEnded o a l).rail.tripMain = s.rail.tripMain ∧
    (s.holdOffEnded o a l).rail.tripStandby = s.rail.tripStandby ∧
    (s.holdOffEnded o a l).rail.overdrawCount = s.rail.overdrawCount ∧
    (s.holdOffEnded o a l).power.mainTrip = s.power.mainTrip ∧
    (s.holdOffEnded o a l).power.standbyTrip = s.power.standbyTrip ∧
    (s.holdOffEnded o a l).draw.table = s.draw.table ∧
    (s.holdOffEnded o a l).faults.notices = s.faults.notices ∧
    (s.holdOffEnded o a l).faults.noticeOverflow = s.faults.noticeOverflow ∧
    (s.holdOffEnded o a l).line.slot = s.line.slot ∧
    (s.holdOffEnded o a l).line.rate = s.line.rate ∧
    (s.holdOffEnded o a l).line.isSet = s.line.isSet ∧
    (s.holdOffEnded o a l).line.params = s.line.params ∧
    (s.holdOffEnded o a l).line.duplicate = s.line.duplicate ∧
    (s.holdOffEnded o a l).line.receivedBad = s.line.receivedBad ∧
    (s.holdOffEnded o a l).line.cutOwn = s.line.cutOwn ∧
    (s.holdOffEnded o a l).bench = s.bench ∧
    (s.holdOffEnded o a l).freeNext = s.freeNext ∧
    (s.holdOffEnded o a l).pending = s.pending := by
  unfold State.holdOffEnded; simp only []; split <;> simp

/-- The settle delay ended. -/
@[simp] theorem State.settleEnded_frame (s : State) (o : SampleOp) (l : Levels) :
    (s.settleEnded o l).clock = s.clock ∧
    (s.settleEnded o l).eng.postIndex = s.eng.postIndex ∧
    (s.settleEnded o l).probe.direction = s.probe.direction ∧
    (s.settleEnded o l).probe.polarity = s.probe.polarity ∧
    (s.settleEnded o l).probe.drive = s.probe.drive ∧
    (s.settleEnded o l).probe.source = s.probe.source ∧
    (s.settleEnded o l).rail.channels = s.rail.channels ∧
    (s.settleEnded o l).rail.measured = s.rail.measured ∧
    (s.settleEnded o l).rail.tripMain = s.rail.tripMain ∧
    (s.settleEnded o l).rail.tripStandby = s.rail.tripStandby ∧
    (s.settleEnded o l).rail.overdrawCount = s.rail.overdrawCount ∧
    (s.settleEnded o l).power.mainTrip = s.power.mainTrip ∧
    (s.settleEnded o l).power.standbyTrip = s.power.standbyTrip ∧
    (s.settleEnded o l).draw.table = s.draw.table ∧
    (s.settleEnded o l).faults.notices = s.faults.notices ∧
    (s.settleEnded o l).faults.noticeOverflow = s.faults.noticeOverflow ∧
    (s.settleEnded o l).line.slot = s.line.slot ∧
    (s.settleEnded o l).line.rate = s.line.rate ∧
    (s.settleEnded o l).line.isSet = s.line.isSet ∧
    (s.settleEnded o l).line.params = s.line.params ∧
    (s.settleEnded o l).line.duplicate = s.line.duplicate ∧
    (s.settleEnded o l).line.receivedBad = s.line.receivedBad ∧
    (s.settleEnded o l).line.cutOwn = s.line.cutOwn ∧
    (s.settleEnded o l).bench = s.bench ∧
    (s.settleEnded o l).freeNext = s.freeNext ∧
    (s.settleEnded o l).pending = s.pending := by
  unfold State.settleEnded; simp only []; split <;> simp

/-- A strobe timed out. -/
@[simp] theorem State.strobeTimedOut_frame (s : State) (b : Strobe) (l : Levels) :
    (s.strobeTimedOut b l).clock = s.clock ∧
    (s.strobeTimedOut b l).eng.postIndex = s.eng.postIndex ∧
    (s.strobeTimedOut b l).probe.direction = s.probe.direction ∧
    (s.strobeTimedOut b l).probe.polarity = s.probe.polarity ∧
    (s.strobeTimedOut b l).probe.drive = s.probe.drive ∧
    (s.strobeTimedOut b l).probe.source = s.probe.source ∧
    (s.strobeTimedOut b l).check = s.check ∧
    (s.strobeTimedOut b l).rail.channels = s.rail.channels ∧
    (s.strobeTimedOut b l).rail.measured = s.rail.measured ∧
    (s.strobeTimedOut b l).rail.tripMain = s.rail.tripMain ∧
    (s.strobeTimedOut b l).rail.tripStandby = s.rail.tripStandby ∧
    (s.strobeTimedOut b l).rail.overdrawCount = s.rail.overdrawCount ∧
    (s.strobeTimedOut b l).power.mainTrip = s.power.mainTrip ∧
    (s.strobeTimedOut b l).power.standbyTrip = s.power.standbyTrip ∧
    (s.strobeTimedOut b l).draw.table = s.draw.table ∧
    (s.strobeTimedOut b l).faults.notices = s.faults.notices ∧
    (s.strobeTimedOut b l).faults.noticeOverflow = s.faults.noticeOverflow ∧
    (s.strobeTimedOut b l).line.slot = s.line.slot ∧
    (s.strobeTimedOut b l).line.rate = s.line.rate ∧
    (s.strobeTimedOut b l).line.isSet = s.line.isSet ∧
    (s.strobeTimedOut b l).line.params = s.line.params ∧
    (s.strobeTimedOut b l).line.duplicate = s.line.duplicate ∧
    (s.strobeTimedOut b l).line.receivedBad = s.line.receivedBad ∧
    (s.strobeTimedOut b l).line.cutOwn = s.line.cutOwn ∧
    (s.strobeTimedOut b l).bench = s.bench ∧
    (s.strobeTimedOut b l).freeNext = s.freeNext ∧
    (s.strobeTimedOut b l).pending = s.pending := by
  unfold State.strobeTimedOut; simp only []; repeat' split
  all_goals simp

/-- A guard set touches its channel alone. -/
@[simp] theorem State.setGuard_frame (s : State) (i : Fin 8) (g : Guard) :
    (s.setGuard i g).clock = s.clock ∧
    (s.setGuard i g).mem = s.mem ∧
    (s.setGuard i g).port = s.port ∧
    (s.setGuard i g).eng = s.eng ∧
    (s.setGuard i g).probe = s.probe ∧
    (s.setGuard i g).check = s.check ∧
    (s.setGuard i g).rail.measured = s.rail.measured ∧
    (s.setGuard i g).rail.tripMain = s.rail.tripMain ∧
    (s.setGuard i g).rail.tripStandby = s.rail.tripStandby ∧
    (s.setGuard i g).rail.overdrawCount = s.rail.overdrawCount ∧
    (s.setGuard i g).rail.zeroCapture = s.rail.zeroCapture ∧
    (s.setGuard i g).rail.average = s.rail.average ∧
    (s.setGuard i g).power = s.power ∧
    (s.setGuard i g).draw = s.draw ∧
    (s.setGuard i g).faults = s.faults ∧
    (s.setGuard i g).line = s.line ∧
    (s.setGuard i g).bench = s.bench ∧
    (s.setGuard i g).freeNext = s.freeNext ∧
    (s.setGuard i g).pending = s.pending := by
  simp [State.setGuard, Rail.setChannel]

/-- A trip. -/
@[simp] theorem State.takeTrip_frame (s : State) (i : FaultInfo) :
    (s.takeTrip i).clock = s.clock ∧
    (s.takeTrip i).eng.fetchIndex = s.eng.fetchIndex ∧
    (s.takeTrip i).eng.postIndex = s.eng.postIndex ∧
    (s.takeTrip i).eng.loops = s.eng.loops ∧
    (s.takeTrip i).probe.direction = s.probe.direction ∧
    (s.takeTrip i).probe.polarity = s.probe.polarity ∧
    (s.takeTrip i).probe.drive = s.probe.drive ∧
    (s.takeTrip i).probe.source = s.probe.source ∧
    (s.takeTrip i).probe.nextIndex = s.probe.nextIndex ∧
    (s.takeTrip i).probe.validCount = s.probe.validCount ∧
    (s.takeTrip i).check = s.check ∧
    (s.takeTrip i).rail.channels = s.rail.channels ∧
    (s.takeTrip i).rail.measured = s.rail.measured ∧
    (s.takeTrip i).rail.tripMain = s.rail.tripMain ∧
    (s.takeTrip i).rail.tripStandby = s.rail.tripStandby ∧
    (s.takeTrip i).rail.overdrawCount = s.rail.overdrawCount ∧
    (s.takeTrip i).power.mainTrip = s.power.mainTrip ∧
    (s.takeTrip i).power.standbyTrip = s.power.standbyTrip ∧
    (s.takeTrip i).draw.table = s.draw.table ∧
    (s.takeTrip i).faults.notices = s.faults.notices ∧
    (s.takeTrip i).faults.noticeOverflow = s.faults.noticeOverflow ∧
    (s.takeTrip i).line.slot = s.line.slot ∧
    (s.takeTrip i).line.rate = s.line.rate ∧
    (s.takeTrip i).line.isSet = s.line.isSet ∧
    (s.takeTrip i).line.params = s.line.params ∧
    (s.takeTrip i).line.duplicate = s.line.duplicate ∧
    (s.takeTrip i).line.receivedBad = s.line.receivedBad ∧
    (s.takeTrip i).line.cutOwn = s.line.cutOwn ∧
    (s.takeTrip i).bench = s.bench ∧
    (s.takeTrip i).freeNext = s.freeNext ∧
    (s.takeTrip i).pending = s.pending := by
  simp [State.takeTrip]

/-- An overdraw. -/
@[simp] theorem State.takeOverdraw_frame (s : State) :
    (s.takeOverdraw).clock = s.clock ∧
    (s.takeOverdraw).eng.fetchIndex = s.eng.fetchIndex ∧
    (s.takeOverdraw).eng.postIndex = s.eng.postIndex ∧
    (s.takeOverdraw).eng.loops = s.eng.loops ∧
    (s.takeOverdraw).probe.direction = s.probe.direction ∧
    (s.takeOverdraw).probe.polarity = s.probe.polarity ∧
    (s.takeOverdraw).probe.drive = s.probe.drive ∧
    (s.takeOverdraw).probe.source = s.probe.source ∧
    (s.takeOverdraw).probe.nextIndex = s.probe.nextIndex ∧
    (s.takeOverdraw).probe.validCount = s.probe.validCount ∧
    (s.takeOverdraw).check = s.check ∧
    (s.takeOverdraw).rail.channels = s.rail.channels ∧
    (s.takeOverdraw).rail.measured = s.rail.measured ∧
    (s.takeOverdraw).rail.tripMain = s.rail.tripMain ∧
    (s.takeOverdraw).rail.tripStandby = s.rail.tripStandby ∧
    (s.takeOverdraw).rail.overdrawCount = s.rail.overdrawCount ∧
    (s.takeOverdraw).power.mainTrip = s.power.mainTrip ∧
    (s.takeOverdraw).power.standbyTrip = s.power.standbyTrip ∧
    (s.takeOverdraw).draw.table = s.draw.table ∧
    (s.takeOverdraw).faults.notices = s.faults.notices ∧
    (s.takeOverdraw).faults.noticeOverflow = s.faults.noticeOverflow ∧
    (s.takeOverdraw).line.slot = s.line.slot ∧
    (s.takeOverdraw).line.rate = s.line.rate ∧
    (s.takeOverdraw).line.isSet = s.line.isSet ∧
    (s.takeOverdraw).line.params = s.line.params ∧
    (s.takeOverdraw).line.duplicate = s.line.duplicate ∧
    (s.takeOverdraw).line.receivedBad = s.line.receivedBad ∧
    (s.takeOverdraw).line.cutOwn = s.line.cutOwn ∧
    (s.takeOverdraw).bench = s.bench ∧
    (s.takeOverdraw).freeNext = s.freeNext ∧
    (s.takeOverdraw).pending = s.pending := by
  simp [State.takeOverdraw]

/-- A frame received bad touches its count alone. -/
@[simp] theorem State.countBad_frame (s : State) :
    (s.countBad).clock = s.clock ∧
    (s.countBad).mem = s.mem ∧
    (s.countBad).port = s.port ∧
    (s.countBad).eng = s.eng ∧
    (s.countBad).probe = s.probe ∧
    (s.countBad).check = s.check ∧
    (s.countBad).rail = s.rail ∧
    (s.countBad).power = s.power ∧
    (s.countBad).draw = s.draw ∧
    (s.countBad).faults = s.faults ∧
    (s.countBad).line.slot = s.line.slot ∧
    (s.countBad).line.rate = s.line.rate ∧
    (s.countBad).line.isSet = s.line.isSet ∧
    (s.countBad).line.params = s.line.params ∧
    (s.countBad).line.duplicate = s.line.duplicate ∧
    (s.countBad).line.queue = s.line.queue ∧
    (s.countBad).line.notSent = s.line.notSent ∧
    (s.countBad).bench = s.bench ∧
    (s.countBad).freeNext = s.freeNext ∧
    (s.countBad).pending = s.pending := by
  simp [State.countBad]

/-- The duplicate flag set: the draw table and the fault records stay. -/
@[simp] theorem State.setDuplicate_frame (s : State) :
    (s.setDuplicate).clock = s.clock ∧
    (s.setDuplicate).eng.fetchIndex = s.eng.fetchIndex ∧
    (s.setDuplicate).eng.postIndex = s.eng.postIndex ∧
    (s.setDuplicate).eng.loops = s.eng.loops ∧
    (s.setDuplicate).probe.direction = s.probe.direction ∧
    (s.setDuplicate).probe.polarity = s.probe.polarity ∧
    (s.setDuplicate).probe.drive = s.probe.drive ∧
    (s.setDuplicate).probe.source = s.probe.source ∧
    (s.setDuplicate).probe.nextIndex = s.probe.nextIndex ∧
    (s.setDuplicate).probe.validCount = s.probe.validCount ∧
    (s.setDuplicate).check = s.check ∧
    (s.setDuplicate).rail.channels = s.rail.channels ∧
    (s.setDuplicate).rail.measured = s.rail.measured ∧
    (s.setDuplicate).rail.tripMain = s.rail.tripMain ∧
    (s.setDuplicate).rail.tripStandby = s.rail.tripStandby ∧
    (s.setDuplicate).rail.overdrawCount = s.rail.overdrawCount ∧
    (s.setDuplicate).rail.zeroCapture = s.rail.zeroCapture ∧
    (s.setDuplicate).power.standby = s.power.standby ∧
    (s.setDuplicate).power.main = s.power.main ∧
    (s.setDuplicate).power.mainTrip = s.power.mainTrip ∧
    (s.setDuplicate).power.standbyTrip = s.power.standbyTrip ∧
    (s.setDuplicate).power.declared = s.power.declared ∧
    (s.setDuplicate).power.rampTimer = s.power.rampTimer ∧
    (s.setDuplicate).draw.table = s.draw.table ∧
    (s.setDuplicate).draw.held = s.draw.held ∧
    (s.setDuplicate).faults = s.faults ∧
    (s.setDuplicate).line.slot = s.line.slot ∧
    (s.setDuplicate).line.rate = s.line.rate ∧
    (s.setDuplicate).line.isSet = s.line.isSet ∧
    (s.setDuplicate).line.params = s.line.params ∧
    (s.setDuplicate).line.receivedBad = s.line.receivedBad ∧
    (s.setDuplicate).line.cutOwn = s.line.cutOwn ∧
    (s.setDuplicate).bench = s.bench ∧
    (s.setDuplicate).freeNext = s.freeNext ∧
    (s.setDuplicate).pending = s.pending := by
  unfold State.setDuplicate; simp only []; split <;> simp

/-- A peer's entry set touches the draw table alone. -/
@[simp] theorem State.setPeer_frame (s : State) (x : Fin 30) (e : PeerEntry) :
    (s.setPeer x e).clock = s.clock ∧
    (s.setPeer x e).mem = s.mem ∧
    (s.setPeer x e).port = s.port ∧
    (s.setPeer x e).eng = s.eng ∧
    (s.setPeer x e).probe = s.probe ∧
    (s.setPeer x e).check = s.check ∧
    (s.setPeer x e).rail = s.rail ∧
    (s.setPeer x e).power = s.power ∧
    (s.setPeer x e).draw.held = s.draw.held ∧
    (s.setPeer x e).draw.claimState = s.draw.claimState ∧
    (s.setPeer x e).draw.claim = s.draw.claim ∧
    (s.setPeer x e).draw.mark = s.draw.mark ∧
    (s.setPeer x e).draw.windowTimer = s.draw.windowTimer ∧
    (s.setPeer x e).draw.backoffTimer = s.draw.backoffTimer ∧
    (s.setPeer x e).faults = s.faults ∧
    (s.setPeer x e).line = s.line ∧
    (s.setPeer x e).bench = s.bench ∧
    (s.setPeer x e).freeNext = s.freeNext ∧
    (s.setPeer x e).pending = s.pending := by
  simp [State.setPeer]

/-- A peer's FAIL touches the notice list alone. -/
@[simp] theorem State.takeFail_frame (s : State) (x : BitVec 5) :
    (s.takeFail x).clock = s.clock ∧
    (s.takeFail x).mem = s.mem ∧
    (s.takeFail x).port = s.port ∧
    (s.takeFail x).eng = s.eng ∧
    (s.takeFail x).probe = s.probe ∧
    (s.takeFail x).check = s.check ∧
    (s.takeFail x).rail = s.rail ∧
    (s.takeFail x).power = s.power ∧
    (s.takeFail x).draw = s.draw ∧
    (s.takeFail x).faults.queue = s.faults.queue ∧
    (s.takeFail x).faults.nextSequence = s.faults.nextSequence ∧
    (s.takeFail x).faults.discarded = s.faults.discarded ∧
    (s.takeFail x).line = s.line ∧
    (s.takeFail x).bench = s.bench ∧
    (s.takeFail x).freeNext = s.freeNext ∧
    (s.takeFail x).pending = s.pending := by
  unfold State.takeFail Recorder.addNotice; repeat' split
  all_goals simp

/-- A peer's CLAIM touches the draw table alone. -/
@[simp] theorem State.takeClaim_frame (s : State) (x : BitVec 5) (p : List Byte) :
    (s.takeClaim x p).clock = s.clock ∧
    (s.takeClaim x p).mem = s.mem ∧
    (s.takeClaim x p).port = s.port ∧
    (s.takeClaim x p).eng = s.eng ∧
    (s.takeClaim x p).probe = s.probe ∧
    (s.takeClaim x p).check = s.check ∧
    (s.takeClaim x p).rail = s.rail ∧
    (s.takeClaim x p).power = s.power ∧
    (s.takeClaim x p).draw.held = s.draw.held ∧
    (s.takeClaim x p).draw.claimState = s.draw.claimState ∧
    (s.takeClaim x p).draw.claim = s.draw.claim ∧
    (s.takeClaim x p).draw.mark = s.draw.mark ∧
    (s.takeClaim x p).draw.windowTimer = s.draw.windowTimer ∧
    (s.takeClaim x p).draw.backoffTimer = s.draw.backoffTimer ∧
    (s.takeClaim x p).faults = s.faults ∧
    (s.takeClaim x p).line = s.line ∧
    (s.takeClaim x p).bench = s.bench ∧
    (s.takeClaim x p).freeNext = s.freeNext ∧
    (s.takeClaim x p).pending = s.pending := by
  unfold State.takeClaim; repeat' split
  all_goals simp

/-- A peer's DRAW touches the draw table alone. -/
@[simp] theorem State.takeDraw_frame (s : State) (x : BitVec 5) (p : List Byte) :
    (s.takeDraw x p).clock = s.clock ∧
    (s.takeDraw x p).mem = s.mem ∧
    (s.takeDraw x p).port = s.port ∧
    (s.takeDraw x p).eng = s.eng ∧
    (s.takeDraw x p).probe = s.probe ∧
    (s.takeDraw x p).check = s.check ∧
    (s.takeDraw x p).rail = s.rail ∧
    (s.takeDraw x p).power = s.power ∧
    (s.takeDraw x p).draw.held = s.draw.held ∧
    (s.takeDraw x p).draw.claimState = s.draw.claimState ∧
    (s.takeDraw x p).draw.claim = s.draw.claim ∧
    (s.takeDraw x p).draw.mark = s.draw.mark ∧
    (s.takeDraw x p).draw.windowTimer = s.draw.windowTimer ∧
    (s.takeDraw x p).draw.backoffTimer = s.draw.backoffTimer ∧
    (s.takeDraw x p).faults = s.faults ∧
    (s.takeDraw x p).line = s.line ∧
    (s.takeDraw x p).bench = s.bench ∧
    (s.takeDraw x p).freeNext = s.freeNext ∧
    (s.takeDraw x p).pending = s.pending := by
  unfold State.takeDraw; repeat' split
  all_goals simp

/-- A peer's JOIN touches the draw table, and the line by its answer. -/
@[simp] theorem State.takeJoin_frame (s : State) (x : BitVec 5) :
    (s.takeJoin x).clock = s.clock ∧
    (s.takeJoin x).mem = s.mem ∧
    (s.takeJoin x).port = s.port ∧
    (s.takeJoin x).eng = s.eng ∧
    (s.takeJoin x).probe = s.probe ∧
    (s.takeJoin x).check = s.check ∧
    (s.takeJoin x).rail = s.rail ∧
    (s.takeJoin x).power = s.power ∧
    (s.takeJoin x).draw.held = s.draw.held ∧
    (s.takeJoin x).draw.claimState = s.draw.claimState ∧
    (s.takeJoin x).draw.claim = s.draw.claim ∧
    (s.takeJoin x).draw.mark = s.draw.mark ∧
    (s.takeJoin x).draw.windowTimer = s.draw.windowTimer ∧
    (s.takeJoin x).draw.backoffTimer = s.draw.backoffTimer ∧
    (s.takeJoin x).faults = s.faults ∧
    (s.takeJoin x).line.slot = s.line.slot ∧
    (s.takeJoin x).line.rate = s.line.rate ∧
    (s.takeJoin x).line.isSet = s.line.isSet ∧
    (s.takeJoin x).line.params = s.line.params ∧
    (s.takeJoin x).line.duplicate = s.line.duplicate ∧
    (s.takeJoin x).line.receivedBad = s.line.receivedBad ∧
    (s.takeJoin x).line.cutOwn = s.line.cutOwn ∧
    (s.takeJoin x).bench = s.bench ∧
    (s.takeJoin x).freeNext = s.freeNext ∧
    (s.takeJoin x).pending = s.pending := by
  unfold State.takeJoin; simp only []; repeat' split
  all_goals simp

/-- SETUP touches the line port alone. -/
@[simp] theorem State.takeSetup_frame (s : State) (p : List Byte) :
    (s.takeSetup p).clock = s.clock ∧
    (s.takeSetup p).mem = s.mem ∧
    (s.takeSetup p).port = s.port ∧
    (s.takeSetup p).eng = s.eng ∧
    (s.takeSetup p).probe = s.probe ∧
    (s.takeSetup p).check = s.check ∧
    (s.takeSetup p).rail = s.rail ∧
    (s.takeSetup p).power = s.power ∧
    (s.takeSetup p).draw = s.draw ∧
    (s.takeSetup p).faults = s.faults ∧
    (s.takeSetup p).line.slot = s.line.slot ∧
    (s.takeSetup p).line.rate = s.line.rate ∧
    (s.takeSetup p).line.duplicate = s.line.duplicate ∧
    (s.takeSetup p).line.receivedBad = s.line.receivedBad ∧
    (s.takeSetup p).line.cutOwn = s.line.cutOwn ∧
    (s.takeSetup p).bench = s.bench ∧
    (s.takeSetup p).freeNext = s.freeNext ∧
    (s.takeSetup p).pending = s.pending := by
  unfold State.takeSetup; split <;> simp

/-- A request taken touches the Bench Request Unit alone. -/
@[simp] theorem State.takeRequest_frame (s : State) (k : FrameKind) (d : BitVec 5) (p : List Byte) :
    (s.takeRequest k d p).clock = s.clock ∧
    (s.takeRequest k d p).mem = s.mem ∧
    (s.takeRequest k d p).port = s.port ∧
    (s.takeRequest k d p).eng = s.eng ∧
    (s.takeRequest k d p).probe = s.probe ∧
    (s.takeRequest k d p).check = s.check ∧
    (s.takeRequest k d p).rail = s.rail ∧
    (s.takeRequest k d p).power = s.power ∧
    (s.takeRequest k d p).draw = s.draw ∧
    (s.takeRequest k d p).faults = s.faults ∧
    (s.takeRequest k d p).line = s.line ∧
    (s.takeRequest k d p).freeNext = s.freeNext ∧
    (s.takeRequest k d p).pending = s.pending := by
  unfold State.takeRequest; split <;> simp

/-- The end of service touches the request queue and the service state. -/
@[simp] theorem State.endService_frame (s : State) :
    (s.endService).clock = s.clock ∧
    (s.endService).mem = s.mem ∧
    (s.endService).port = s.port ∧
    (s.endService).eng = s.eng ∧
    (s.endService).probe = s.probe ∧
    (s.endService).check = s.check ∧
    (s.endService).rail = s.rail ∧
    (s.endService).power = s.power ∧
    (s.endService).draw = s.draw ∧
    (s.endService).faults = s.faults ∧
    (s.endService).line = s.line ∧
    (s.endService).bench.discarded = s.bench.discarded ∧
    (s.endService).freeNext = s.freeNext ∧
    (s.endService).pending = s.pending := by
  simp [State.endService]

/-- A reply touches the line and the request queue. -/
@[simp] theorem State.reply_frame (s : State) (q : Request) (p : List Byte) :
    (s.reply q p).clock = s.clock ∧
    (s.reply q p).mem = s.mem ∧
    (s.reply q p).port = s.port ∧
    (s.reply q p).eng = s.eng ∧
    (s.reply q p).probe = s.probe ∧
    (s.reply q p).check = s.check ∧
    (s.reply q p).rail = s.rail ∧
    (s.reply q p).power = s.power ∧
    (s.reply q p).draw = s.draw ∧
    (s.reply q p).faults = s.faults ∧
    (s.reply q p).line.slot = s.line.slot ∧
    (s.reply q p).line.rate = s.line.rate ∧
    (s.reply q p).line.isSet = s.line.isSet ∧
    (s.reply q p).line.params = s.line.params ∧
    (s.reply q p).line.duplicate = s.line.duplicate ∧
    (s.reply q p).line.receivedBad = s.line.receivedBad ∧
    (s.reply q p).line.cutOwn = s.line.cutOwn ∧
    (s.reply q p).bench.discarded = s.bench.discarded ∧
    (s.reply q p).freeNext = s.freeNext ∧
    (s.reply q p).pending = s.pending := by
  unfold State.reply; split <;> simp

/-- A refusal touches the line and the request queue. -/
@[simp] theorem State.refuse_frame (s : State) (q : Request) (c : RefusalCode) :
    (s.refuse q c).clock = s.clock ∧
    (s.refuse q c).mem = s.mem ∧
    (s.refuse q c).port = s.port ∧
    (s.refuse q c).eng = s.eng ∧
    (s.refuse q c).probe = s.probe ∧
    (s.refuse q c).check = s.check ∧
    (s.refuse q c).rail = s.rail ∧
    (s.refuse q c).power = s.power ∧
    (s.refuse q c).draw = s.draw ∧
    (s.refuse q c).faults = s.faults ∧
    (s.refuse q c).line.slot = s.line.slot ∧
    (s.refuse q c).line.rate = s.line.rate ∧
    (s.refuse q c).line.isSet = s.line.isSet ∧
    (s.refuse q c).line.params = s.line.params ∧
    (s.refuse q c).line.duplicate = s.line.duplicate ∧
    (s.refuse q c).line.receivedBad = s.line.receivedBad ∧
    (s.refuse q c).line.cutOwn = s.line.cutOwn ∧
    (s.refuse q c).bench.discarded = s.bench.discarded ∧
    (s.refuse q c).freeNext = s.freeNext ∧
    (s.refuse q c).pending = s.pending := by
  simp [State.refuse]

/-- A class handed to the engine: the check context, the fault records and the draw table stay. -/
@[simp] theorem State.engineClass_frame (s : State) (q : BitVec 16) (c : FaultClass) :
    (s.engineClass q c).clock = s.clock ∧
    (s.engineClass q c).eng.postIndex = s.eng.postIndex ∧
    (s.engineClass q c).probe = s.probe ∧
    (s.engineClass q c).check = s.check ∧
    (s.engineClass q c).rail.channels = s.rail.channels ∧
    (s.engineClass q c).rail.measured = s.rail.measured ∧
    (s.engineClass q c).rail.tripMain = s.rail.tripMain ∧
    (s.engineClass q c).rail.tripStandby = s.rail.tripStandby ∧
    (s.engineClass q c).rail.overdrawCount = s.rail.overdrawCount ∧
    (s.engineClass q c).rail.average = s.rail.average ∧
    (s.engineClass q c).power.mainTrip = s.power.mainTrip ∧
    (s.engineClass q c).power.standbyTrip = s.power.standbyTrip ∧
    (s.engineClass q c).draw.table = s.draw.table ∧
    (s.engineClass q c).faults = s.faults ∧
    (s.engineClass q c).line.slot = s.line.slot ∧
    (s.engineClass q c).line.rate = s.line.rate ∧
    (s.engineClass q c).line.isSet = s.line.isSet ∧
    (s.engineClass q c).line.params = s.line.params ∧
    (s.engineClass q c).line.duplicate = s.line.duplicate ∧
    (s.engineClass q c).line.receivedBad = s.line.receivedBad ∧
    (s.engineClass q c).line.cutOwn = s.line.cutOwn ∧
    (s.engineClass q c).bench = s.bench ∧
    (s.engineClass q c).freeNext = s.freeNext ∧
    (s.engineClass q c).pending = s.pending := by
  unfold State.engineClass; repeat' split
  all_goals simp

/-- The guard dispatch. -/
@[simp] theorem State.guardClass_frame (s : State) (g : Option GuardAction) (c : FaultClass) :
    (s.guardClass g c).clock = s.clock ∧
    (s.guardClass g c).eng.fetchIndex = s.eng.fetchIndex ∧
    (s.guardClass g c).eng.postIndex = s.eng.postIndex ∧
    (s.guardClass g c).eng.loops = s.eng.loops ∧
    (s.guardClass g c).probe.direction = s.probe.direction ∧
    (s.guardClass g c).probe.polarity = s.probe.polarity ∧
    (s.guardClass g c).probe.drive = s.probe.drive ∧
    (s.guardClass g c).probe.source = s.probe.source ∧
    (s.guardClass g c).probe.nextIndex = s.probe.nextIndex ∧
    (s.guardClass g c).probe.validCount = s.probe.validCount ∧
    (s.guardClass g c).check = s.check ∧
    (s.guardClass g c).rail.channels = s.rail.channels ∧
    (s.guardClass g c).rail.measured = s.rail.measured ∧
    (s.guardClass g c).rail.tripMain = s.rail.tripMain ∧
    (s.guardClass g c).rail.tripStandby = s.rail.tripStandby ∧
    (s.guardClass g c).rail.overdrawCount = s.rail.overdrawCount ∧
    (s.guardClass g c).power.mainTrip = s.power.mainTrip ∧
    (s.guardClass g c).power.standbyTrip = s.power.standbyTrip ∧
    (s.guardClass g c).draw.table = s.draw.table ∧
    (s.guardClass g c).faults = s.faults ∧
    (s.guardClass g c).line.slot = s.line.slot ∧
    (s.guardClass g c).line.rate = s.line.rate ∧
    (s.guardClass g c).line.isSet = s.line.isSet ∧
    (s.guardClass g c).line.params = s.line.params ∧
    (s.guardClass g c).line.duplicate = s.line.duplicate ∧
    (s.guardClass g c).line.receivedBad = s.line.receivedBad ∧
    (s.guardClass g c).line.cutOwn = s.line.cutOwn ∧
    (s.guardClass g c).bench = s.bench ∧
    (s.guardClass g c).freeNext = s.freeNext ∧
    (s.guardClass g c).pending = s.pending := by
  unfold State.guardClass; split <;> simp

/-- The dispatch of a class: the fault records stay. -/
@[simp] theorem State.dispatchClass_frame (s : State) (r : FaultRecord) (c : FaultClass) :
    (s.dispatchClass r c).clock = s.clock ∧
    (s.dispatchClass r c).eng.postIndex = s.eng.postIndex ∧
    (s.dispatchClass r c).probe.direction = s.probe.direction ∧
    (s.dispatchClass r c).probe.polarity = s.probe.polarity ∧
    (s.dispatchClass r c).probe.drive = s.probe.drive ∧
    (s.dispatchClass r c).probe.source = s.probe.source ∧
    (s.dispatchClass r c).probe.nextIndex = s.probe.nextIndex ∧
    (s.dispatchClass r c).probe.validCount = s.probe.validCount ∧
    (s.dispatchClass r c).check = s.check ∧
    (s.dispatchClass r c).rail.channels = s.rail.channels ∧
    (s.dispatchClass r c).rail.measured = s.rail.measured ∧
    (s.dispatchClass r c).rail.tripMain = s.rail.tripMain ∧
    (s.dispatchClass r c).rail.tripStandby = s.rail.tripStandby ∧
    (s.dispatchClass r c).rail.overdrawCount = s.rail.overdrawCount ∧
    (s.dispatchClass r c).power.mainTrip = s.power.mainTrip ∧
    (s.dispatchClass r c).power.standbyTrip = s.power.standbyTrip ∧
    (s.dispatchClass r c).draw.table = s.draw.table ∧
    (s.dispatchClass r c).faults = s.faults ∧
    (s.dispatchClass r c).line.slot = s.line.slot ∧
    (s.dispatchClass r c).line.rate = s.line.rate ∧
    (s.dispatchClass r c).line.isSet = s.line.isSet ∧
    (s.dispatchClass r c).line.params = s.line.params ∧
    (s.dispatchClass r c).line.duplicate = s.line.duplicate ∧
    (s.dispatchClass r c).line.receivedBad = s.line.receivedBad ∧
    (s.dispatchClass r c).line.cutOwn = s.line.cutOwn ∧
    (s.dispatchClass r c).bench = s.bench ∧
    (s.dispatchClass r c).freeNext = s.freeNext ∧
    (s.dispatchClass r c).pending = s.pending := by
  unfold State.dispatchClass; repeat' split
  all_goals simp

end Sys2Proof.Machine
end

