-- ==== Sys2Proof/Laws/Frames.lean ====
section
/-! SUPPORT. The frames of the operations behind POWER, the step records and the bench requests. -/

namespace Sys2Proof.Machine

/-- A REPEAT that proceeds. -/
@[simp] theorem State.runRepeat_frame (s : State) (r : Record) :
    (s.runRepeat r).clock = s.clock ∧
    (s.runRepeat r).eng.postIndex = s.eng.postIndex ∧
    (s.runRepeat r).probe = s.probe ∧
    (s.runRepeat r).check = s.check ∧
    (s.runRepeat r).rail.channels = s.rail.channels ∧
    (s.runRepeat r).rail.measured = s.rail.measured ∧
    (s.runRepeat r).rail.tripMain = s.rail.tripMain ∧
    (s.runRepeat r).rail.tripStandby = s.rail.tripStandby ∧
    (s.runRepeat r).rail.overdrawCount = s.rail.overdrawCount ∧
    (s.runRepeat r).rail.average = s.rail.average ∧
    (s.runRepeat r).power.mainTrip = s.power.mainTrip ∧
    (s.runRepeat r).power.standbyTrip = s.power.standbyTrip ∧
    (s.runRepeat r).draw.table = s.draw.table ∧
    (s.runRepeat r).faults = s.faults ∧
    (s.runRepeat r).line.slot = s.line.slot ∧
    (s.runRepeat r).line.rate = s.line.rate ∧
    (s.runRepeat r).line.isSet = s.line.isSet ∧
    (s.runRepeat r).line.params = s.line.params ∧
    (s.runRepeat r).line.duplicate = s.line.duplicate ∧
    (s.runRepeat r).line.receivedBad = s.line.receivedBad ∧
    (s.runRepeat r).line.cutOwn = s.line.cutOwn ∧
    (s.runRepeat r).bench = s.bench ∧
    (s.runRepeat r).freeNext = s.freeNext ∧
    (s.runRepeat r).pending = s.pending := by
  simp [State.runRepeat]

/-- A RAILCHECK started. -/
@[simp] theorem State.startAverage_frame (s : State) (o : RailcheckOp) :
    (s.startAverage o).clock = s.clock ∧
    (s.startAverage o).mem = s.mem ∧
    (s.startAverage o).port.waits = s.port.waits ∧
    (s.startAverage o).eng.job = s.eng.job ∧
    (s.startAverage o).eng.fetchIndex = s.eng.fetchIndex ∧
    (s.startAverage o).eng.postIndex = s.eng.postIndex ∧
    (s.startAverage o).eng.loops = s.eng.loops ∧
    (s.startAverage o).eng.copy = s.eng.copy ∧
    (s.startAverage o).eng.attempt = s.eng.attempt ∧
    (s.startAverage o).eng.judged = s.eng.judged ∧
    (s.startAverage o).eng.latch = s.eng.latch ∧
    (s.startAverage o).eng.haltReason = s.eng.haltReason ∧
    (s.startAverage o).eng.haltIndex = s.eng.haltIndex ∧
    (s.startAverage o).probe = s.probe ∧
    (s.startAverage o).check = s.check ∧
    (s.startAverage o).rail.channels = s.rail.channels ∧
    (s.startAverage o).rail.measured = s.rail.measured ∧
    (s.startAverage o).rail.tripMain = s.rail.tripMain ∧
    (s.startAverage o).rail.tripStandby = s.rail.tripStandby ∧
    (s.startAverage o).rail.overdrawCount = s.rail.overdrawCount ∧
    (s.startAverage o).rail.zeroCapture = s.rail.zeroCapture ∧
    (s.startAverage o).power = s.power ∧
    (s.startAverage o).draw = s.draw ∧
    (s.startAverage o).faults = s.faults ∧
    (s.startAverage o).line = s.line ∧
    (s.startAverage o).bench = s.bench ∧
    (s.startAverage o).freeNext = s.freeNext ∧
    (s.startAverage o).pending = s.pending := by
  simp [State.startAverage]

/-- A SCALE touches its channel alone. -/
@[simp] theorem State.setScale_frame (s : State) (o : ScaleOp) :
    (s.setScale o).clock = s.clock ∧
    (s.setScale o).mem = s.mem ∧
    (s.setScale o).port = s.port ∧
    (s.setScale o).eng = s.eng ∧
    (s.setScale o).probe = s.probe ∧
    (s.setScale o).check = s.check ∧
    (s.setScale o).rail.measured = s.rail.measured ∧
    (s.setScale o).rail.tripMain = s.rail.tripMain ∧
    (s.setScale o).rail.tripStandby = s.rail.tripStandby ∧
    (s.setScale o).rail.overdrawCount = s.rail.overdrawCount ∧
    (s.setScale o).rail.zeroCapture = s.rail.zeroCapture ∧
    (s.setScale o).rail.average = s.rail.average ∧
    (s.setScale o).power = s.power ∧
    (s.setScale o).draw = s.draw ∧
    (s.setScale o).faults = s.faults ∧
    (s.setScale o).line = s.line ∧
    (s.setScale o).bench = s.bench ∧
    (s.setScale o).freeNext = s.freeNext ∧
    (s.setScale o).pending = s.pending := by
  simp [State.setScale, Rail.setChannel]

/-- A request that waits for the port. -/
@[simp] theorem State.waitForPort_frame (s : State) :
    (s.waitForPort).clock = s.clock ∧
    (s.waitForPort).mem = s.mem ∧
    (s.waitForPort).port.waits = s.port.waits ∧
    (s.waitForPort).eng = s.eng ∧
    (s.waitForPort).probe = s.probe ∧
    (s.waitForPort).check = s.check ∧
    (s.waitForPort).rail = s.rail ∧
    (s.waitForPort).power = s.power ∧
    (s.waitForPort).draw = s.draw ∧
    (s.waitForPort).faults = s.faults ∧
    (s.waitForPort).line = s.line ∧
    (s.waitForPort).bench.queue = s.bench.queue ∧
    (s.waitForPort).bench.discarded = s.bench.discarded ∧
    (s.waitForPort).freeNext = s.freeNext ∧
    (s.waitForPort).pending = s.pending := by
  simp [State.waitForPort]

/-- The re-test of a STARVED job. -/
@[simp] theorem State.retest_frame (s : State) :
    (s.retest).clock = s.clock ∧
    (s.retest).eng.postIndex = s.eng.postIndex ∧
    (s.retest).probe = s.probe ∧
    (s.retest).check = s.check ∧
    (s.retest).rail.channels = s.rail.channels ∧
    (s.retest).rail.measured = s.rail.measured ∧
    (s.retest).rail.tripMain = s.rail.tripMain ∧
    (s.retest).rail.tripStandby = s.rail.tripStandby ∧
    (s.retest).rail.overdrawCount = s.rail.overdrawCount ∧
    (s.retest).rail.average = s.rail.average ∧
    (s.retest).power.mainTrip = s.power.mainTrip ∧
    (s.retest).power.standbyTrip = s.power.standbyTrip ∧
    (s.retest).draw.table = s.draw.table ∧
    (s.retest).faults = s.faults ∧
    (s.retest).line.slot = s.line.slot ∧
    (s.retest).line.rate = s.line.rate ∧
    (s.retest).line.isSet = s.line.isSet ∧
    (s.retest).line.params = s.line.params ∧
    (s.retest).line.duplicate = s.line.duplicate ∧
    (s.retest).line.receivedBad = s.line.receivedBad ∧
    (s.retest).line.cutOwn = s.line.cutOwn ∧
    (s.retest).bench = s.bench ∧
    (s.retest).freeNext = s.freeNext ∧
    (s.retest).pending = s.pending := by
  unfold State.retest; simp only []; repeat' split
  all_goals simp

/-- A POST accepted. -/
@[simp] theorem State.postTo_frame (s : State) (x : RingIndex) :
    (s.postTo x).clock = s.clock ∧
    (s.postTo x).probe = s.probe ∧
    (s.postTo x).check = s.check ∧
    (s.postTo x).rail.channels = s.rail.channels ∧
    (s.postTo x).rail.measured = s.rail.measured ∧
    (s.postTo x).rail.tripMain = s.rail.tripMain ∧
    (s.postTo x).rail.tripStandby = s.rail.tripStandby ∧
    (s.postTo x).rail.overdrawCount = s.rail.overdrawCount ∧
    (s.postTo x).rail.average = s.rail.average ∧
    (s.postTo x).power.mainTrip = s.power.mainTrip ∧
    (s.postTo x).power.standbyTrip = s.power.standbyTrip ∧
    (s.postTo x).draw.table = s.draw.table ∧
    (s.postTo x).faults = s.faults ∧
    (s.postTo x).line.slot = s.line.slot ∧
    (s.postTo x).line.rate = s.line.rate ∧
    (s.postTo x).line.isSet = s.line.isSet ∧
    (s.postTo x).line.params = s.line.params ∧
    (s.postTo x).line.duplicate = s.line.duplicate ∧
    (s.postTo x).line.receivedBad = s.line.receivedBad ∧
    (s.postTo x).line.cutOwn = s.line.cutOwn ∧
    (s.postTo x).bench = s.bench ∧
    (s.postTo x).freeNext = s.freeNext ∧
    (s.postTo x).pending = s.pending := by
  unfold State.postTo; split <;> simp

/-- START accepted: the engine and the port alone. -/
@[simp] theorem State.start_frame (s : State) :
    (s.start).clock = s.clock ∧
    (s.start).mem = s.mem ∧
    (s.start).eng.fetchIndex = s.eng.fetchIndex ∧
    (s.start).eng.postIndex = s.eng.postIndex ∧
    (s.start).eng.loops = s.eng.loops ∧
    (s.start).eng.judged = s.eng.judged ∧
    (s.start).eng.timer = s.eng.timer ∧
    (s.start).probe = s.probe ∧
    (s.start).check = s.check ∧
    (s.start).rail = s.rail ∧
    (s.start).power = s.power ∧
    (s.start).draw = s.draw ∧
    (s.start).faults = s.faults ∧
    (s.start).line = s.line ∧
    (s.start).bench = s.bench ∧
    (s.start).freeNext = s.freeNext ∧
    (s.start).pending = s.pending := by
  simp [State.start]

/-- ABORT accepted: the indices, the loop stack, the check context and the fault records stay. -/
@[simp] theorem State.abort_frame (s : State) :
    (s.abort).clock = s.clock ∧
    (s.abort).eng.fetchIndex = s.eng.fetchIndex ∧
    (s.abort).eng.postIndex = s.eng.postIndex ∧
    (s.abort).eng.loops = s.eng.loops ∧
    (s.abort).probe.direction = s.probe.direction ∧
    (s.abort).probe.polarity = s.probe.polarity ∧
    (s.abort).probe.drive = s.probe.drive ∧
    (s.abort).probe.source = s.probe.source ∧
    (s.abort).probe.nextIndex = s.probe.nextIndex ∧
    (s.abort).probe.validCount = s.probe.validCount ∧
    (s.abort).check = s.check ∧
    (s.abort).rail.channels = s.rail.channels ∧
    (s.abort).rail.measured = s.rail.measured ∧
    (s.abort).rail.tripMain = s.rail.tripMain ∧
    (s.abort).rail.tripStandby = s.rail.tripStandby ∧
    (s.abort).rail.overdrawCount = s.rail.overdrawCount ∧
    (s.abort).power.mainTrip = s.power.mainTrip ∧
    (s.abort).power.standbyTrip = s.power.standbyTrip ∧
    (s.abort).draw.table = s.draw.table ∧
    (s.abort).faults = s.faults ∧
    (s.abort).line.slot = s.line.slot ∧
    (s.abort).line.rate = s.line.rate ∧
    (s.abort).line.isSet = s.line.isSet ∧
    (s.abort).line.params = s.line.params ∧
    (s.abort).line.duplicate = s.line.duplicate ∧
    (s.abort).line.receivedBad = s.line.receivedBad ∧
    (s.abort).line.cutOwn = s.line.cutOwn ∧
    (s.abort).bench = s.bench ∧
    (s.abort).freeNext = s.freeNext ∧
    (s.abort).pending = s.pending := by
  simp [State.abort]

/-- CLEAR accepted: memory, the port, the draw table, the capture buffer's indices and the notice list stay. -/
@[simp] theorem State.clear_frame (s : State) :
    (s.clear).clock = s.clock ∧
    (s.clear).mem = s.mem ∧
    (s.clear).port = s.port ∧
    (s.clear).eng.postIndex = s.eng.postIndex ∧
    (s.clear).probe.nextIndex = s.probe.nextIndex ∧
    (s.clear).probe.validCount = s.probe.validCount ∧
    (s.clear).probe.strobe = s.probe.strobe ∧
    (s.clear).draw.table = s.draw.table ∧
    (s.clear).faults.nextSequence = s.faults.nextSequence ∧
    (s.clear).faults.discarded = s.faults.discarded ∧
    (s.clear).faults.notices = s.faults.notices ∧
    (s.clear).faults.noticeOverflow = s.faults.noticeOverflow ∧
    (s.clear).line.slot = s.line.slot ∧
    (s.clear).line.rate = s.line.rate ∧
    (s.clear).line.isSet = s.line.isSet ∧
    (s.clear).line.params = s.line.params ∧
    (s.clear).line.duplicate = s.line.duplicate ∧
    (s.clear).line.receivedBad = s.line.receivedBad ∧
    (s.clear).line.cutOwn = s.line.cutOwn ∧
    (s.clear).bench = s.bench ∧
    (s.clear).freeNext = s.freeNext ∧
    (s.clear).pending = s.pending := by
  simp [State.clear, Engine.cleared, Probe.cleared]

/-- An admitted POWER, whatever its move. -/
theorem State.runPower_frame {s t : State} {o : PowerOp} (h : s.runPower o = some t) :
    t.clock = s.clock ∧
    t.eng.postIndex = s.eng.postIndex ∧
    t.probe.direction = s.probe.direction ∧
    t.probe.polarity = s.probe.polarity ∧
    t.probe.drive = s.probe.drive ∧
    t.probe.source = s.probe.source ∧
    t.probe.nextIndex = s.probe.nextIndex ∧
    t.probe.validCount = s.probe.validCount ∧
    t.check = s.check ∧
    t.rail.channels = s.rail.channels ∧
    t.rail.measured = s.rail.measured ∧
    t.rail.tripMain = s.rail.tripMain ∧
    t.rail.tripStandby = s.rail.tripStandby ∧
    t.rail.overdrawCount = s.rail.overdrawCount ∧
    t.draw.table = s.draw.table ∧
    t.faults = s.faults ∧
    t.line.slot = s.line.slot ∧
    t.line.rate = s.line.rate ∧
    t.line.isSet = s.line.isSet ∧
    t.line.params = s.line.params ∧
    t.line.duplicate = s.line.duplicate ∧
    t.line.receivedBad = s.line.receivedBad ∧
    t.line.cutOwn = s.line.cutOwn ∧
    t.bench = s.bench ∧
    t.freeNext = s.freeNext ∧
    t.pending = s.pending := by
  unfold State.runPower at h
  simp only [] at h
  split at h
  all_goals first | (cases h; split <;> simp) | cases h

/-- A POWER dispatched, refused or admitted. -/
theorem State.dispatchPower_frame {s t : State} {r : Record} (h : s.dispatchPower r = some t) :
    t.clock = s.clock ∧
    t.eng.postIndex = s.eng.postIndex ∧
    t.probe.direction = s.probe.direction ∧
    t.probe.polarity = s.probe.polarity ∧
    t.probe.drive = s.probe.drive ∧
    t.probe.source = s.probe.source ∧
    t.probe.nextIndex = s.probe.nextIndex ∧
    t.probe.validCount = s.probe.validCount ∧
    t.check = s.check ∧
    t.rail.channels = s.rail.channels ∧
    t.rail.measured = s.rail.measured ∧
    t.rail.tripMain = s.rail.tripMain ∧
    t.rail.tripStandby = s.rail.tripStandby ∧
    t.rail.overdrawCount = s.rail.overdrawCount ∧
    t.draw.table = s.draw.table ∧
    t.faults = s.faults ∧
    t.line.slot = s.line.slot ∧
    t.line.rate = s.line.rate ∧
    t.line.isSet = s.line.isSet ∧
    t.line.params = s.line.params ∧
    t.line.duplicate = s.line.duplicate ∧
    t.line.receivedBad = s.line.receivedBad ∧
    t.line.cutOwn = s.line.cutOwn ∧
    t.bench = s.bench ∧
    t.freeNext = s.freeNext ∧
    t.pending = s.pending := by
  unfold State.dispatchPower at h
  split at h
  · cases h; simp
  · simp [State.runPower_frame h]

/-- New zero codes touch the channels alone. -/
@[simp] theorem Rail.setZeros_frame (r : Rail) (z : ZeroCapture) (m n : Nat) :
    (r.setZeros z m n).measured = r.measured ∧ (r.setZeros z m n).tripMain = r.tripMain ∧
    (r.setZeros z m n).tripStandby = r.tripStandby ∧ (r.setZeros z m n).overdrawCount = r.overdrawCount ∧
    (r.setZeros z m n).zeroCapture = r.zeroCapture ∧ (r.setZeros z m n).average = r.average := by
  unfold Rail.setZeros Rail.setChannel; simp only []
  repeat' split
  all_goals simp

/-- LANES touches no drive value and no index of the capture buffer. -/
@[simp] theorem Probe.setLanes_frame (p : Probe) (o : LanesOp) :
    (p.setLanes o).drive = p.drive ∧ (p.setLanes o).nextIndex = p.nextIndex ∧
    (p.setLanes o).validCount = p.validCount ∧ (p.setLanes o).strobe = p.strobe := by
  simp [Probe.setLanes]

/-- A CONTROL refused is a REFUSE reply and nothing else. -/
@[simp] theorem State.controlReply_error (s : State) (q : Request) (a : Byte) (c : RefusalCode) :
    s.controlReply q a (.error c) = s.reply q (refusePayload .control c [a]) := rfl

/-- A CONTROL accepted is its effect and an ACCEPT reply. -/
@[simp] theorem State.controlReply_ok (s t : State) (q : Request) (a : Byte) :
    s.controlReply q a (.ok t) = t.reply q (acceptPayload .control [a]) := rfl

/-- A verdict on a CONTROL is answered either by a REFUSE with nothing else changed, or by an ACCEPT after the
effect (R173). -/
theorem State.controlReply_cases (s : State) (q : Request) (a : Byte) (v : Except RefusalCode State) :
    (∃ c, v = .error c ∧ s.controlReply q a v = s.reply q (refusePayload .control c [a])) ∨
    (∃ t, v = .ok t ∧ s.controlReply q a v = t.reply q (acceptPayload .control [a])) := by
  cases v with
  | error c => exact .inl ⟨c, rfl, rfl⟩
  | ok t => exact .inr ⟨t, rfl, rfl⟩

end Sys2Proof.Machine
end

