-- ==== Sys2Proof/Laws/Memory.lean ====
section
/-! SUPPORT. Step memory: a read after a write, the canonical form, and the bytes of a record. -/

namespace Sys2Proof.Machine

/-- No listed address below `x` means nothing is read there. -/
theorem Memory.read_of_lt {m : Memory} {a : Nat} (h : ∀ c ∈ m, a < c.1) : Memory.read m a = 0 := by
  induction m with
  | nil => rfl
  | cons c m ih =>
    have hc := h c (by simp)
    obtain ⟨x, b⟩ := c
    simp only [Memory.read]
    rw [if_neg (by simp only at hc; omega)]
    exact ih fun d hd => h d (by simp [hd])

/-- A write keeps every listed address among the old ones and the one written. -/
theorem Memory.mem_write {m : Memory} {a : Nat} {v : Byte} {c : Host.Cell} (h : c ∈ Memory.write m a v) :
    c ∈ m ∨ (c = (a, v) ∧ v ≠ 0) := by
  induction m with
  | nil =>
    simp only [Memory.write] at h
    split at h <;> simp_all
  | cons d m ih =>
    obtain ⟨x, b⟩ := d
    simp only [Memory.write] at h
    split at h
    · split at h
      · exact .inl h
      · rcases List.mem_cons.1 h with rfl | h
        · exact .inr ⟨rfl, ‹_›⟩
        · exact .inl h
    · split at h
      · split at h
        · exact .inl (by simp [h])
        · rcases List.mem_cons.1 h with rfl | h
          · exact .inr ⟨rfl, ‹_›⟩
          · exact .inl (by simp [h])
      · rcases List.mem_cons.1 h with rfl | h
        · exact .inl (by simp)
        · rcases ih h with h | h
          · exact .inl (by simp [h])
          · exact .inr h

/-- A write to step memory keeps the canonical form. -/
theorem Memory.write_wf {m : Memory} {a : Nat} (v : Byte) (h : Memory.wf m) (ha : a < Config.memoryBytes) :
    Memory.wf (Memory.write m a v) := by
  refine ⟨?_, fun c hc => ?_⟩
  · obtain ⟨hs, -⟩ := h
    induction m with
    | nil => simp only [Memory.write]; split <;> simp
    | cons d m ih =>
      obtain ⟨x, b⟩ := d
      have hd := List.pairwise_cons.1 hs
      simp only [Memory.write]
      split
      · split
        · exact hs
        · refine List.pairwise_cons.2 ⟨fun c hc => ?_, hs⟩
          rcases List.mem_cons.1 hc with rfl | hc
          · assumption
          · have := hd.1 c hc; simp only at this ⊢; omega
      · split
        · split
          · exact hd.2
          · refine List.pairwise_cons.2 ⟨fun c hc => ?_, hd.2⟩
            have := hd.1 c hc; simp only at this ⊢; omega
        · refine List.pairwise_cons.2 ⟨fun c hc => ?_, ih hd.2⟩
          rcases Memory.mem_write hc with hc | ⟨rfl, -⟩
          · exact hd.1 c hc
          · simp only; omega
  · rcases Memory.mem_write hc with hc | ⟨rfl, hv⟩
    · exact h.2 c hc
    · exact ⟨hv, ha⟩

/-- A read after a write gives the value written at its place, and elsewhere what was there. -/
theorem Memory.read_write {m : Memory} (h : Memory.wf m) (a b : Nat) (v : Byte) :
    Memory.read (Memory.write m a v) b = if b = a then v else Memory.read m b := by
  obtain ⟨hs, -⟩ := h
  induction m with
  | nil =>
    simp only [Memory.write]
    by_cases hv : v = 0
    · rw [if_pos hv, hv]; simp [Memory.read]
    · rw [if_neg hv]; simp only [Memory.read, eq_comm]
  | cons d m ih =>
    obtain ⟨x, y⟩ := d
    have hd := List.pairwise_cons.1 hs
    have low : ∀ e, e ≤ x → Memory.read m e = 0 := fun e he =>
      Memory.read_of_lt fun c hc => Nat.lt_of_le_of_lt he (hd.1 c hc)
    simp only [Memory.write]
    by_cases h1 : a < x
    · rw [if_pos h1]
      by_cases hb : b = a
      · subst hb
        by_cases hv : v = 0
        · rw [if_pos hv, if_pos rfl, hv]
          simp only [Memory.read]
          rw [if_neg (by omega), low b (by omega)]
        · rw [if_neg hv]; simp only [Memory.read, if_true]
      · by_cases hv : v = 0
        · rw [if_pos hv, if_neg hb]
        · rw [if_neg hv, if_neg hb]
          simp only [Memory.read]
          rw [if_neg (Ne.symm hb)]
    · rw [if_neg h1]
      by_cases h2 : x = a
      · subst h2
        rw [if_pos rfl]
        by_cases hb : b = x
        · subst hb
          by_cases hv : v = 0
          · rw [if_pos hv, if_pos rfl, hv, low b (by omega)]
          · rw [if_neg hv]; simp only [Memory.read, if_true]
        · by_cases hv : v = 0
          · rw [if_pos hv, if_neg hb]
            simp only [Memory.read]
            rw [if_neg (Ne.symm hb)]
          · rw [if_neg hv, if_neg hb]
            simp only [Memory.read]
            rw [if_neg (Ne.symm hb), if_neg (Ne.symm hb)]
      · rw [if_neg h2]
        by_cases hb : x = b
        · subst hb; simp only [Memory.read, if_true]; rw [if_neg h2]
        · simp only [Memory.read, if_neg hb, ih hd.2]

/-- Writing bytes inside step memory keeps the canonical form. -/
theorem Memory.writeBytes_wf (bs : List Byte) : ∀ {m : Memory} {a : Nat}, Memory.wf m →
    a + bs.length ≤ Config.memoryBytes → Memory.wf (Memory.writeBytes m a bs) := by
  induction bs with
  | nil => intro m a h _; exact h
  | cons b bs ih =>
    intro m a h ha
    simp only [List.length_cons] at ha
    exact ih (Memory.write_wf b h (by omega)) (by omega)

/-- A read after bytes are written: the byte of its place, and elsewhere what was there. -/
theorem Memory.read_writeBytes (bs : List Byte) : ∀ {m : Memory} {a : Nat}, Memory.wf m →
    a + bs.length ≤ Config.memoryBytes → ∀ b, Memory.read (Memory.writeBytes m a bs) b =
      if a ≤ b ∧ b < a + bs.length then bs.getD (b - a) 0 else Memory.read m b := by
  induction bs with
  | nil => intro m a _ _ b; simp only [Memory.writeBytes, List.length_nil]; rw [if_neg (by omega)]
  | cons v bs ih =>
    intro m a h ha b
    simp only [List.length_cons] at ha
    have hw := Memory.write_wf v h (show a < Config.memoryBytes by omega)
    simp only [Memory.writeBytes, List.length_cons]
    rw [ih hw (by omega) b, Memory.read_write h]
    by_cases h0 : b = a
    · subst h0; simp
    · by_cases h1 : a + 1 ≤ b ∧ b < a + 1 + bs.length
      · rw [if_pos h1, if_pos (by omega)]
        obtain ⟨k, rfl⟩ := Nat.exists_eq_add_of_le h1.1
        simp [show a + 1 + k - a = k + 1 by omega]
      · rw [if_neg h1, if_neg h0, if_neg (by omega)]

/-- The bytes of a number are as many as asked for. -/
@[simp] theorem leBytes_length : ∀ n x, (leBytes n x).length = n
  | 0, _ => rfl
  | n + 1, x => by simp [leBytes, leBytes_length n]

/-- Byte `k` of a number in little-endian order. -/
theorem leBytes_getD : ∀ n x k, k < n → (leBytes n x).getD k 0 = BitVec.ofNat 8 (x / 256 ^ k)
  | 0, _, _, h => by omega
  | n + 1, x, 0, _ => by simp [leBytes]
  | n + 1, x, k + 1, h => by
    have := leBytes_getD n (x / 256) k (by omega)
    simp only [leBytes, List.getD_cons_succ, this, Nat.div_div_eq_div_mul, Nat.pow_succ']

/-- Bytes read back are the bytes of their places. -/
theorem Memory.readBytes_getD (m : Memory) : ∀ n a k, k < n → (Memory.readBytes m a n).getD k 0 = Memory.read m (a + k)
  | 0, _, _, h => by omega
  | n + 1, a, 0, _ => by simp [Memory.readBytes]
  | n + 1, a, k + 1, h => by
    have := Memory.readBytes_getD m n (a + 1) k (by omega)
    simp only [Memory.readBytes, List.getD_cons_succ, this]
    congr 1; omega

/-- The number of bytes in little-endian order, byte by byte. -/
theorem leNat_div (bs : List Byte) : ∀ k, leNat bs / 256 ^ k % 256 = (bs.getD k 0).toNat := by
  induction bs with
  | nil => intro k; simp [leNat]
  | cons b bs ih =>
    intro k
    have hb := b.isLt
    cases k with
    | zero => simp [leNat]; omega
    | succ k =>
      have : (b.toNat + 256 * leNat bs) / 256 = leNat bs := by omega
      simp only [leNat, List.getD_cons_succ, Nat.pow_succ', ← Nat.div_div_eq_div_mul, this]
      exact ih k

/-- Bytes read as a number and written as bytes again. -/
theorem leNat_lt (bs : List Byte) : leNat bs < 256 ^ bs.length := by
  induction bs with
  | nil => simp [leNat]
  | cons b bs ih =>
    have hb := b.isLt
    simp only [leNat, List.length_cons, Nat.pow_succ']
    omega

/-- As many bytes are read as asked for. -/
@[simp] theorem Memory.readBytes_length (m : Memory) : ∀ n a, (Memory.readBytes m a n).length = n
  | 0, _ => rfl
  | n + 1, a => by simp [Memory.readBytes, Memory.readBytes_length m n]

/-- Byte `k` of a record, as a number. -/
theorem byteOf_toNat (r : Record) (k : Nat) : (byteOf r k).toNat = r.toNat / 256 ^ k % 256 := by
  simp only [byteOf, BitVec.extractLsb'_toNat, Nat.shiftRight_eq_div_pow]
  rw [show (256 : Nat) ^ k = 2 ^ (8 * k) by rw [show (256 : Nat) = 2 ^ 8 by norm_num, Nat.pow_mul]]

/-- A fetched record holds the bytes of memory (R3, R4). -/
theorem Memory.byteOf_record (m : Memory) (a : Nat) {k : Nat} (hk : k < 16) :
    byteOf (Memory.record m a) k = Memory.read m (a + k) := by
  apply BitVec.eq_of_toNat_eq
  have hlt := leNat_lt (Memory.readBytes m a 16)
  simp only [Memory.readBytes_length] at hlt
  rw [byteOf_toNat, Memory.record, BitVec.toNat_ofNat, Nat.mod_eq_of_lt (a := leNat _) (by norm_num at hlt ⊢; omega), leNat_div,
    Memory.readBytes_getD m 16 a k hk]

/-- A capture entry or record written whole: each byte at its place (R64). -/
theorem Memory.read_putRecord {m : Memory} {a : Nat} (r : Record) (h : Memory.wf m) (ha : a + 16 ≤ Config.memoryBytes)
    (b : Nat) : Memory.read (Memory.putRecord m a r) b =
      if a ≤ b ∧ b < a + 16 then byteOf r (b - a) else Memory.read m b := by
  rw [Memory.putRecord, Memory.read_writeBytes _ h (by simpa using ha), leBytes_length]
  by_cases hb : a ≤ b ∧ b < a + 16
  · rw [if_pos hb, if_pos hb, leBytes_getD _ _ _ (by omega)]
    apply BitVec.eq_of_toNat_eq
    rw [byteOf_toNat, BitVec.toNat_ofNat]
  · rw [if_neg hb, if_neg hb]

/-- A record written inside step memory keeps the canonical form. -/
theorem Memory.putRecord_wf {m : Memory} {a : Nat} (r : Record) (h : Memory.wf m) (ha : a + 16 ≤ Config.memoryBytes) :
    Memory.wf (Memory.putRecord m a r) :=
  Memory.writeBytes_wf _ h (by simpa using ha)

/-- The memory of a reset machine has the canonical form. -/
theorem Memory.reset_wf : Memory.wf State.reset.mem := by simp [State.reset, Memory.wf]

end Sys2Proof.Machine
end

