-- ==== Sys2Proof/Laws/Effects.lean ====
section
/-! SUPPORT. What each shared operation does: one lemma per operation, to be cited in place of unfolding it. -/

namespace Sys2Proof.Machine

/-! ### Lanes and lines -/

/-- Eight copies of one bit, bit by bit. -/
theorem fillByte_getLsbD (b : Bool) (k : Nat) : (fillByte b).getLsbD k = (decide (k < 8) && b) := by
  cases b
  · simp [fillByte]
  · by_cases h : k < 8
    · interval_cases k <;> rfl
    · simp [h, BitVec.getLsbD_of_ge _ k (Nat.le_of_not_lt h)]

/-- Each of a lane's eight lines takes the lane's bit. -/
theorem spread_getLsbD (m : BitVec 8) {line : Nat} (h : line < 64) : (spread m).getLsbD line = m.getLsbD (line / 8) := by
  unfold spread
  simp only [BitVec.getLsbD_append, fillByte_getLsbD]
  have hq : line / 8 = 0 ∨ line / 8 = 1 ∨ line / 8 = 2 ∨ line / 8 = 3 ∨ line / 8 = 4 ∨ line / 8 = 5 ∨ line / 8 = 6 ∨ line / 8 = 7 := by omega
  rcases hq with hq | hq | hq | hq | hq | hq | hq | hq <;> rw [hq] <;> split_ifs <;>
    first
    | omega
    | (rw [decide_eq_true (by omega), Bool.true_and])

/-- A line taken from one of two level words. -/
theorem mergeLines_getLsbD (mask v w : Levels) {line : Nat} (h : line < 64) :
    (mergeLines mask v w).getLsbD line = if mask.getLsbD line then w.getLsbD line else v.getLsbD line := by
  simp only [mergeLines, BitVec.getLsbD_or, BitVec.getLsbD_and, BitVec.getLsbD_not, h, decide_true, Bool.true_and]
  cases mask.getLsbD line <;> simp

/-! ### The transmit queue -/

/-- A line that accepts takes a frame into its class order and loses none (R160). -/
theorem LinePort.offer_of_accepts {l : LinePort} (h : l.accepts) (f : TxFrame) :
    l.offer f = ({ l with queue := joinQueue f l.queue }, none) := by
  obtain ⟨h1, h2⟩ := h
  simp [LinePort.offer, h1, Config.txCapacity, h2]

/-- A frame handed to a line that accepts (R160). -/
theorem State.hand_of_accepts {s : State} (h : s.line.accepts) (k : FrameKind) (d : BitVec 5) (p : List Byte) :
    s.hand k d p = { s with line := { s.line with queue := joinQueue (newFrame k d p) s.line.queue } } := by
  simp [State.hand, LinePort.offer_of_accepts h]

/-- Joining keeps the length up by one. -/
@[simp] theorem joinQueue_length (f : TxFrame) (q : List TxFrame) : (joinQueue f q).length = q.length + 1 := by
  induction q with
  | nil => rfl
  | cons g q ih => simp only [joinQueue]; split <;> simp [ih]

/-- The members of a queue that a frame has joined. -/
theorem mem_joinQueue {f g : TxFrame} {q : List TxFrame} : g ∈ joinQueue f q ↔ g = f ∨ g ∈ q := by
  induction q with
  | nil => simp [joinQueue]
  | cons h q ih => simp only [joinQueue]; split <;> simp [ih]; tauto

/-- The last idle frame taken out leaves the others (R161). -/
theorem takeLastIdle_perm {q : List TxFrame} : ∀ {v : TxFrame} {rest : List TxFrame},
    takeLastIdle q = some (v, rest) → v.sending = false ∧ rest.Sublist q ∧ rest.length + 1 = q.length := by
  induction q with
  | nil => intro v rest h; simp [takeLastIdle] at h
  | cons f q ih =>
    intro v rest h
    simp only [takeLastIdle] at h
    split at h
    · rename_i v' rest' he
      obtain ⟨h1, h2, h3⟩ := ih he
      simp only [Option.some.injEq, Prod.mk.injEq] at h
      obtain ⟨rfl, rfl⟩ := h
      exact ⟨h1, h2.cons_cons _, by simp [h3]⟩
    · split at h
      · cases h
      · simp only [Option.some.injEq, Prod.mk.injEq] at h
        obtain ⟨rfl, rfl⟩ := h
        rename_i hs
        exact ⟨by simpa using hs, by simp, by simp⟩

/-! ### Halts and abandonments -/

/-- What an abandonment writes (R46 step 1): ABORTED at F, when a record is in flight with REPORT set and the port is
free. -/
theorem State.read_abandon {s : State} (hm : Memory.wf s.mem) (a : Nat) :
    Memory.read s.abandon.mem a =
      match s.eng.copy with
      | some r => if s.eng.job = .running ∧ s.port.owner ≠ .bench then outcomeByte s.mem s.eng.fetchIndex r .aborted a
                  else Memory.read s.mem a
      | none => Memory.read s.mem a := by
  have hf := s.eng.fetchIndex.isLt
  unfold State.abandon State.writeBack outcomeByte
  cases hc : s.eng.copy with
  | none => by_cases h : s.eng.job = .running <;> simp [h]
  | some r =>
    by_cases h : s.eng.job = .running <;> by_cases hr : reportFlag r = true <;> by_cases hp : s.port.owner = .bench <;>
      simp [h, hr, hp, State.writeOutcome, Memory.read_write hm, failCountAfter,
        Memory.read_write (Memory.write_wf _ hm (show 16 * s.eng.fetchIndex.toNat + 14 < Config.memoryBytes by
          simp [Config.memoryBytes]; omega))]
    split_ifs <;> first | rfl | omega

/-- Outside the two outcome bytes of the record at F an abandonment leaves memory as it was. -/
theorem State.read_abandon_of_ne {s : State} (hm : Memory.wf s.mem) {a : Nat}
    (h1 : a ≠ 16 * s.eng.fetchIndex.toNat + 14) (h2 : a ≠ 16 * s.eng.fetchIndex.toNat + 15) :
    Memory.read s.abandon.mem a = Memory.read s.mem a := by
  rw [State.read_abandon hm]
  split
  · split <;> simp [outcomeByte, h1, h2]
  · rfl

/-- An abandonment leaves memory in its canonical form. -/
theorem State.abandon_wf {s : State} (hm : Memory.wf s.mem) : Memory.wf s.abandon.mem := by
  have hf := s.eng.fetchIndex.isLt
  unfold State.abandon State.writeBack
  repeat' split
  all_goals first
    | exact hm
    | (simp only [State.writeOutcome]
       exact Memory.write_wf _ (Memory.write_wf _ hm (by simp [Config.memoryBytes]; omega)) (by simp [Config.memoryBytes]; omega))

/-- The engine after a halt (R46 steps 2 to 4). -/
@[simp] theorem State.haltJob_eng (s : State) (r : HaltReason) : (s.haltJob r).eng = haltedEngine s.eng r := by
  simp [State.haltJob, haltedEngine]

/-- A halt queues END (R46 step 5) and is a release point (R20). -/
theorem State.haltJob_haltsFrom (s : State) (r : HaltReason) : HaltsFrom s (s.haltJob r) s.line r := by
  refine ⟨by simp, ?_, ?_⟩
  · simp [State.haltJob, State.reportEnd, State.hand, lineAfterEnd]
  · simp only [State.haltJob, State.releasePort, ownerReleased, State.reportEnd_frame]
    split <;> rfl

/-- The engine after a halt by another block: halted when the job was active, else as it was (R46). -/
theorem State.haltActive_eng (s : State) (r : HaltReason) :
    (s.haltActive r).eng = if s.eng.job.active = true then haltedEngine s.eng r else s.eng := by
  unfold State.haltActive
  split <;> simp [haltedEngine]

/-- Outside the outcome bytes at F a halt leaves memory as it was. -/
theorem State.read_haltActive_of_ne {s : State} (hm : Memory.wf s.mem) (r : HaltReason) {a : Nat}
    (h1 : a ≠ 16 * s.eng.fetchIndex.toNat + 14) (h2 : a ≠ 16 * s.eng.fetchIndex.toNat + 15) :
    Memory.read (s.haltActive r).mem a = Memory.read s.mem a := by
  unfold State.haltActive
  split
  · simp [State.read_abandon_of_ne hm h1 h2]
  · rfl

/-- A halt leaves memory in its canonical form. -/
theorem State.haltActive_wf {s : State} (hm : Memory.wf s.mem) (r : HaltReason) : Memory.wf (s.haltActive r).mem := by
  unfold State.haltActive
  split
  · simpa using State.abandon_wf hm
  · exact hm

/-! ### The step boundary -/

/-- The fetch test in full (R29). -/
theorem State.fetchTest_eq (s : State) : s.fetchTest =
    if s.eng.fetchIndex = s.eng.postIndex then
      { s with eng := { s.eng with job := .starved, latch := false }, port := { s.port with owner := ownerReleased s } }
    else if s.port.owner = .bench then { s with port := { s.port with waits := s.port.waits ++ [.fetch] } }
    else { s with eng := { s.eng with copy := some (Memory.record s.mem (16 * s.eng.fetchIndex.toNat)) } } := by
  unfold State.fetchTest State.releasePort State.fetch State.wait ownerReleased
  split
  · split
    · rfl
    · simp_all
  · rfl

/-- A release point in full (R19). -/
theorem State.releasePort_eq (s : State) :
    s.releasePort = { s with port := { s.port with owner := ownerReleased s } } := by
  unfold State.releasePort ownerReleased
  split <;> rfl

/-- The step boundary in full (R33 steps 3 to 6). -/
theorem State.boundary_eq (s : State) (a : AfterStep) : s.boundary a =
    let index := (s.eng.moved a).2
    let starved := s.eng.latch = false ∧ index = s.eng.postIndex
    let fetches := s.eng.latch = false ∧ index ≠ s.eng.postIndex
    { s with
      eng := { s.eng with
        job := if s.eng.latch then .paused else if starved then .starved else s.eng.job,
        attempt := 0, latch := false, loops := (s.eng.moved a).1, fetchIndex := index,
        copy := if fetches ∧ ownerReleased s ≠ .bench then some (Memory.record s.mem (16 * index.toNat)) else none },
      port := { owner := ownerReleased s,
                waits := if fetches ∧ ownerReleased s = .bench then s.port.waits ++ [.fetch] else s.port.waits } } := by
  unfold State.boundary
  cases hl : s.eng.latch
  · by_cases hi : (s.eng.moved a).2 = s.eng.postIndex <;> cases ho : s.port.owner <;>
      simp [hl, hi, ho, State.releasePort_eq, State.fetchTest_eq, ownerReleased]
  · simp [State.releasePort_eq, ownerReleased]

/-- A completion with which the job goes on (R32, R33): its outcome, PROGRESS, the indices moved as `after` says, and
the step boundary. It is made at once unless its write-back waits for the port. -/
theorem State.complete_goesOn {s : State} {r : Record} (o : StepOutcome) (after : AfterStep)
    (hm : Memory.wf s.mem) (hr : s.eng.copy = some r) (hj : s.eng.job = .running)
    (hp : reportFlag r = true → s.port.owner ≠ .bench)
    (ha : after = .advance ∨ (∃ l, after = .enter l) ∨ (∃ e, after = .skip e)) :
    GoesOn s (s.complete o after) r o (s.eng.moved after).1 (s.eng.moved after).2 ∧
    s.complete o after = { s with eng := (s.complete o after).eng, port := (s.complete o after).port,
                                  line := (s.complete o after).line, mem := (s.complete o after).mem } := by
  have hf := s.eng.fetchIndex.isLt
  have hfin : ∀ (u : State) (c : Completion), c.after = after → u.eng.job = .running →
      u.finish c = (u.progress c).boundary after := by
    intro u c hc hu
    simp only [State.finish, hu, if_true]
    rw [hc]
    rcases ha with rfl | ⟨l, rfl⟩ | ⟨e, rfl⟩ <;> rfl
  have hmv : ∀ e : Engine, e.loops = s.eng.loops → e.fetchIndex = s.eng.fetchIndex → e.moved after = s.eng.moved after := by
    intro e h1 h2
    rcases ha with rfl | ⟨l, rfl⟩ | ⟨e', rfl⟩ <;> simp [Engine.moved, h1, h2]
  have hw14 : 16 * s.eng.fetchIndex.toNat + 14 < Config.memoryBytes := by simp [Config.memoryBytes]; omega
  unfold State.complete
  rw [hr]
  simp only []
  by_cases hrep : reportFlag r = true
  · have hne := hp hrep
    simp only [hrep, if_true, hne, if_false]
    rw [hfin _ _ rfl (by simpa [State.writeOutcome] using hj), State.boundary_eq]
    refine ⟨⟨fun a => ?_, ?_, ?_, ?_, ?_⟩, by simp [State.writeOutcome]⟩
    · simp [State.writeOutcome, outcomeByte, hrep, Memory.read_write hm, Memory.read_write (Memory.write_wf _ hm hw14)]
      split_ifs <;> first | rfl | omega
    · simp [lineAfterCompletion, State.progress, State.hand, State.writeOutcome, Engine.innermostRemaining]
      split <;> rfl
    · simp [ownerReleased]
    · simp [hmv, ownerReleased, State.writeOutcome]
    · simp [hmv, hj, ownerReleased, State.writeOutcome]
  · simp only [hrep]
    simp only [Bool.false_eq_true, if_false]
    rw [hfin _ _ rfl (by simpa [State.writeOutcome] using hj), State.boundary_eq]
    refine ⟨⟨fun a => ?_, ?_, ?_, ?_, ?_⟩, by simp⟩
    · simp [outcomeByte, hrep]
    · simp [lineAfterCompletion, State.progress, State.hand, Engine.innermostRemaining]
      split <;> rfl
    · simp [ownerReleased]
    · simp [hmv, ownerReleased]
    · simp [hmv, hj, ownerReleased]

/-! ### Recording a fault -/

/-- With room in the queue a fault is appended with the next sequence (R136). -/
theorem State.recordFault_room {s : State} (h : s.faults.queue.length < 32) (i : FaultInfo) (a : Option GuardAction) :
    s.recordFault i a = ({ s with faults := { s.faults with
      queue := s.faults.queue ++ [s.faultRecord i a],
      nextSequence := nextSequence s.faults.nextSequence } } : State).handFail i s.faults.nextSequence := by
  simp [State.recordFault, Config.faultCapacity, h]

/-- A full queue that holds a classified record loses the oldest such one (R137). -/
theorem State.recordFault_discards {s : State} (h : 32 ≤ s.faults.queue.length)
    (hc : s.faults.queue.any FaultRecord.classified = true) (i : FaultInfo) (a : Option GuardAction) :
    s.recordFault i a = ({ s with faults := { s.faults with
      queue := s.faults.queue.eraseP FaultRecord.classified ++ [s.faultRecord i a],
      discarded := satInc s.faults.discarded,
      nextSequence := nextSequence s.faults.nextSequence } } : State).handFail i s.faults.nextSequence := by
  have h' : ¬ s.faults.queue.length < Config.faultCapacity := by simp [Config.faultCapacity]; omega
  simp [State.recordFault, h', Recorder.hasRoom, hc]

/-- A queue of 32 PROVISIONAL records floods (R138). -/
theorem State.recordFault_floods {s : State} (h : s.faults.hasRoom = false) (i : FaultInfo) (a : Option GuardAction) :
    s.recordFault i a = (({ s with faults := { s.faults with
      discarded := satInc s.faults.discarded,
      nextSequence := nextSequence s.faults.nextSequence } } : State).handFail i s.faults.nextSequence).haltFlood := by
  have h' : ¬ s.faults.queue.length < Config.faultCapacity := by
    intro hl; simp [Recorder.hasRoom, hl] at h
  simp [State.recordFault, h', h]

/-- A queue has room unless it holds 32 records, all PROVISIONAL (R136, R138). -/
theorem Recorder.hasRoom_iff (r : Recorder) :
    r.hasRoom = true ↔ ¬ (32 ≤ r.queue.length ∧ ∀ f ∈ r.queue, f.cls = .provisional) := by
  simp only [Recorder.hasRoom, FaultRecord.classified, Bool.or_eq_true, decide_eq_true_iff,
    List.any_eq_true, not_and_or, Nat.not_le, not_forall, exists_prop]
  rfl

/-- The next sequence is used up whether or not the fault is recorded (R136, R138). -/
@[simp] theorem State.recordFault_nextSequence (s : State) (i : FaultInfo) (a : Option GuardAction) :
    (s.recordFault i a).faults.nextSequence = nextSequence s.faults.nextSequence := by
  unfold State.recordFault; simp only []
  repeat' split
  all_goals simp

/-- On a line that accepts, a notice joins the queue and nothing else happens (R139, R160). -/
theorem State.handFail_of_accepts {s : State} (h : s.line.accepts) (i : FaultInfo) (q : BitVec 16) :
    s.handFail i q = { s with line := { s.line with queue := joinQueue (newFrame .fail 31 (failPayload i q)) s.line.queue } } := by
  simp [State.handFail, LinePort.offer_of_accepts h, lostClaim]

/-- With no move present a refused claim reaches no job and no power state (R108, R128). -/
theorem State.claimRefused_of_noMove {s : State} (h : s.power.move = none) :
    s.claimRefused.eng = s.eng ∧ s.claimRefused.mem = s.mem ∧ s.claimRefused.port = s.port ∧
    s.claimRefused.probe = s.probe ∧ s.claimRefused.rail = s.rail ∧ s.claimRefused.power = s.power := by
  unfold State.claimRefused State.waitLimitPassed
  simp [h]

/-- With no move present, handing over the own CLAIM reaches no job and no power state. -/
theorem State.handClaim_of_noMove {s : State} (h : s.power.move = none) :
    s.handClaim.eng = s.eng ∧ s.handClaim.mem = s.mem ∧ s.handClaim.port = s.port ∧
    s.handClaim.probe = s.probe ∧ s.handClaim.rail = s.rail ∧ s.handClaim.power = s.power := by
  unfold State.handClaim; simp only []
  split
  · simp
  · rename_i c _
    split
    · generalize (s.line.offer (newFrame .claim 31 (claimPayload c))).1 = l
      exact State.claimRefused_of_noMove (s := { s with line := l, draw := { s.draw with mark := .none_ } }) h
    · simp

/-- With no move present, handing over a FAIL notice reaches no job and no power state. -/
theorem State.handFail_of_noMove {s : State} (h : s.power.move = none) (i : FaultInfo) (q : BitVec 16) :
    (s.handFail i q).eng = s.eng ∧ (s.handFail i q).mem = s.mem ∧ (s.handFail i q).port = s.port ∧
    (s.handFail i q).probe = s.probe ∧ (s.handFail i q).rail = s.rail ∧ (s.handFail i q).power = s.power := by
  unfold State.handFail; simp only []
  generalize (s.line.offer (newFrame .fail 31 (failPayload i q))).1 = l
  split
  · unfold State.claimDropped; simp only []
    split
    · exact State.claimRefused_of_noMove (s := { s with line := l, draw := { s.draw with mark := .none_ } }) h
    · exact State.handClaim_of_noMove (s := { s with line := l, draw := { s.draw with mark := .none_ } }) h
    · simp
  · simp

/-! ### Dispatch, completion, refusal and recording, in the words of the statements -/

/-- A record that awaits its dispatch is found by the command of its kind (R31). -/
theorem State.AwaitsDispatch.awaitingKind {s : State} {r : Record} (h : s.AwaitsDispatch r) {k : Nat}
    (hk : kindOf r = k) : s.awaitingKind k = some r := by
  obtain ⟨h1, h2, h3, h4⟩ := h
  simp [State.awaitingKind, State.awaiting, h1, h2, h3, h4, hk, Option.filter]

/-- A completion whose write-back waits for the port (R21, R32). -/
theorem State.complete_waits {s : State} {r : Record} (o : StepOutcome) (after : AfterStep) (hr : s.eng.copy = some r)
    (hrep : reportFlag r = true) (hb : s.port.owner = .bench) : s.complete o after = writeBackWaiting s r o after := by
  simp [State.complete, hr, hrep, hb, State.wait, writeBackWaiting]

/-- A completion with the loop end of R40 (R32, R33). -/
theorem State.complete_completes {s : State} {r : Record} (o : StepOutcome) (hm : Memory.wf s.mem)
    (hr : s.eng.copy = some r) (hj : s.eng.job = .running) (hp : s.PortFreeFor r) :
    Completes s (s.complete o .advance) r o := by
  obtain ⟨h1, h2⟩ := State.complete_goesOn o .advance hm hr hj hp (.inl rfl)
  refine ⟨h1, ?_⟩
  rw [h2]

/-- A completion with which the job goes on, whether or not the bench holds the port (R21, R32, R33). -/
theorem State.complete_endsRecord {u : State} {r : Record} (o : StepOutcome) (hr : u.eng.copy = some r)
    (hj : u.eng.job = .running) : EndsRecord (.next (u.complete o .advance)) u r o :=
  ⟨fun hm hp => ⟨_, rfl, State.complete_completes o hm hr hj hp⟩,
   fun hrep hb => by rw [State.complete_waits o _ hr hrep hb]⟩

/-- Byte `a` after a write-back that finds the port free (R15). -/
theorem State.read_writeBack {s : State} {r : Record} (hm : Memory.wf s.mem) (hp : s.PortFreeFor r) (o : StepOutcome)
    (a : Nat) : Memory.read (s.writeBack r o).mem a = outcomeByte s.mem s.eng.fetchIndex r o a := by
  have hf := s.eng.fetchIndex.isLt
  have hw14 : 16 * s.eng.fetchIndex.toNat + 14 < Config.memoryBytes := by simp [Config.memoryBytes]; omega
  unfold State.writeBack outcomeByte
  by_cases hr : reportFlag r = true
  · simp [hr, hp hr, State.writeOutcome, Memory.read_write hm, Memory.read_write (Memory.write_wf _ hm hw14)]
    split_ifs <;> first | rfl | omega
  · simp [hr]

/-- The halt procedure's steps 2 to 5 in full (R46). -/
theorem State.haltJob_eq (s : State) (r : HaltReason) : s.haltJob r =
    { s with eng := haltedEngine s.eng r, line := lineAfterEnd s.line (haltedEngine s.eng r) s.faults.queue.length,
             port := { s.port with owner := ownerReleased s } } := by
  unfold State.haltJob
  rw [State.releasePort_eq]
  simp [State.reportEnd, State.hand, haltedEngine, lineAfterEnd, ownerReleased]
  rfl

/-- PROGRESS in full (R49). -/
theorem State.progress_eq (s : State) (c : Completion) (h : c.stamp = s.clock) :
    s.progress c = { s with line := lineAfterCompletion s c.record c.outcome } := by
  unfold State.progress lineAfterCompletion
  split <;> simp [State.hand, h]

/-- A refusal (R34). -/
theorem State.refuseRecord_refuses {s : State} {r : Record} (hm : Memory.wf s.mem) (hr : s.eng.copy = some r)
    (hp : s.PortFreeFor r) : RefusesRecord s s.refuseRecord r := by
  have hw : s.writeBack r .illegal = { s with mem := (s.writeBack r .illegal).mem } := by
    unfold State.writeBack
    by_cases h : reportFlag r = true
    · simp [h, hp h, State.writeOutcome]
    · simp [h]
  have hh := State.haltJob_haltsFrom (s.writeBack r .illegal) .illegalStep
  have hb := State.read_writeBack hm hp .illegal
  unfold State.refuseRecord
  rw [hr]
  simp only []
  generalize s.writeBack r .illegal = u at *
  rw [hw] at hh ⊢
  refine ⟨hh, fun a => ?_, ?_⟩
  · rw [← hb a]; simp
  · rw [State.haltJob_eq]

/-- The completion that halts (R42, R43). -/
theorem State.complete_halts {s : State} {r : Record} (o : StepOutcome) (reason : HaltReason) (hm : Memory.wf s.mem)
    (hr : s.eng.copy = some r) (hj : s.eng.job = .running) (hp : s.PortFreeFor r) :
    HaltsCompleted s (s.complete o (.halt reason)) r o reason := by
  have hf := s.eng.fetchIndex.isLt
  have hw14 : 16 * s.eng.fetchIndex.toNat + 14 < Config.memoryBytes := by simp [Config.memoryBytes]; omega
  have key : ∀ m : Memory, (∀ a, Memory.read m a = outcomeByte s.mem s.eng.fetchIndex r o a) → ∀ e : Engine,
      e.job = .running → haltedEngine e reason = haltedEngine s.eng reason → e.fetchIndex = s.eng.fetchIndex → e.loops = s.eng.loops →
      HaltsCompleted s (({ s with mem := m, eng := e } : State).finish
        { record := r, outcome := o, stamp := s.clock, after := .halt reason }) r o reason := by
    intro m hmm e hj he h1 h2
    have hl : lineAfterCompletion ({ s with mem := m, eng := e } : State) r o = lineAfterCompletion s r o := by
      simp [lineAfterCompletion, Engine.innermostRemaining, h1, h2]
    simp only [State.finish, hj, if_true, State.goOn]
    rw [State.progress_eq _ _ rfl, State.haltJob_eq]
    simp only [hl, he]
    exact ⟨⟨rfl, rfl, rfl⟩, hmm, rfl⟩
  unfold State.complete
  rw [hr]
  simp only []
  by_cases hrep : reportFlag r = true
  · have hne := hp hrep
    simp only [hrep, if_true, hne, if_false, State.writeOutcome]
    refine key _ (fun a => ?_) _ hj rfl rfl rfl
    simp [outcomeByte, hrep, Memory.read_write hm, Memory.read_write (Memory.write_wf _ hm hw14)]
    split_ifs <;> first | rfl | omega
  · simp only [hrep, Bool.false_eq_true, if_false]
    exact key _ (fun a => by simp [outcomeByte, hrep]) _ hj rfl rfl rfl

/-- A fault recorded in the plain case (R136, R139). -/
theorem State.recordFault_plain {s : State} (h : s.RecordsPlainly) (i : FaultInfo) (a : Option GuardAction) :
    s.recordFault i a = withFault s i a := by
  rw [State.recordFault_room h.1, State.handFail_of_accepts (by exact h.2)]
  simp [withFault, State.faultRecord, freshRecord, State.inFlight, nextSequence, sequenceAfter]

/-- A fault against the record in flight, in the plain case (R41). -/
theorem State.stepFault_judging {s : State} (h : s.RecordsPlainly) (hj : s.eng.job = .running) {r : Record}
    (hr : s.eng.copy = some r) (i : FaultInfo) : s.stepFault i = judgingOn s i := by
  have hroom : s.faults.hasRoom = true := by simp [Recorder.hasRoom, Config.faultCapacity, h.1]
  unfold State.stepFault
  rw [hroom, State.recordFault_plain h]
  simp [State.enterJudging, State.inFlight, withFault, hj, hr, State.enterPhase, judgingOn, State.releasePort_eq, ownerReleased]

/-- The entry into a phase (R20, R31). -/
theorem State.enterPhase_eq (s : State) (p : StepPhase) (k : Option Timer) : s.enterPhase p k =
    { s with eng := { s.eng with phase := p, timer := k }, port := { s.port with owner := ownerReleased s } } := by
  simp [State.enterPhase, State.releasePort_eq, ownerReleased]

end Sys2Proof.Machine
end

