-- ==== Sys2Proof/Laws/Blocks.lean ====
section
/-! SUPPORT. What the blocks do together, each in the words of Sys2Proof/Safety.lean: the power down, a halt by a block,
the own claim handed over, refused and lost, and a fault recorded. One lemma says everything an operation can do. -/

namespace Sys2Proof.Machine

/-- A release to 0 (R131). -/
theorem State.release_zero (s : State) : s.release 0 =
    { s with draw := { s.draw with held := 0 }, line := if s.draw.held = 0 then s.line else drawSent s.line 0 } := by
  by_cases h : s.draw.held = 0
  · have : ¬ (0 : Draw).toNat < s.draw.held.toNat := by simp [h]
    unfold State.release
    rw [if_neg this, if_pos h, ← h]
  · have : (0 : Draw).toNat < s.draw.held.toNat := by
      rcases Nat.eq_zero_or_pos s.draw.held.toNat with h' | h'
      · exact absurd (BitVec.eq_of_toNat_eq (by simpa using h')) h
      · simpa using h'
    unfold State.release
    rw [if_pos this, if_neg h]
    rfl

/-- The Power Path's way to OFF or TRIPPED in full (R114 steps 1 to 3). -/
theorem State.powerDown_eq (s : State) (target : PowerState) : s.powerDown target = poweredDown s target := by
  unfold State.powerDown
  rw [State.release_zero]
  unfold State.openSwitches State.endMove State.abandonClaim poweredDown
  cases hm : s.power.move <;> by_cases hc : s.draw.claimState = .none_ <;>
    simp [hm, hc, State.handDraw, State.hand, drawSent, abandoned]

/-- A halt by a block in full (R46, R47). -/
theorem State.haltActive_halts (s : State) (reason : HaltReason) : HaltsAbandoning s (s.haltActive reason) reason := by
  refine ⟨fun h => by simp [State.haltActive, h], fun h => ⟨fun hn => ?_, fun r hj hr => ⟨?_, fun hm a => ?_⟩⟩⟩
  · have : s.abandon = s := by
      unfold State.abandon
      rcases hn with hn | hn <;> simp [hn]
    simp [State.haltActive, h, this, State.haltJob_eq]
  · simp only [State.haltActive, h, if_true, State.haltJob_eq]
    unfold State.abandon State.writeBack State.wait
    simp only [hj, if_true, hr]
    by_cases h1 : reportFlag r = true <;> by_cases h2 : s.port.owner = .bench <;>
      simp [h1, h2, State.writeOutcome, haltedEngine, ownerReleased, failCountAfter]
  · have : Memory.read (s.haltActive reason).mem a = Memory.read s.abandon.mem a := by simp [State.haltActive, h]
    rw [this, State.read_abandon hm]
    by_cases h2 : s.port.owner = .bench <;> simp [hr, hj, h2]

/-- The draw wait limit has passed (R108). -/
theorem State.waitLimitPassed_iff (s : State) : s.waitLimitPassed = true ↔ s.limitPassed := by
  unfold State.waitLimitPassed State.limitPassed
  cases h : s.power.move with
  | none => simp
  | some m => cases h' : m.claimOrder <;> simp [h']

/-- A claim refused (R126, R128). -/
theorem State.claimRefused_refuses {s : State} {c : OwnClaim} (hc : s.draw.claim = some c) :
    RefusesClaim s s.claimRefused c := by
  have hl := State.waitLimitPassed_iff { s with
    draw := { s.draw with windowTimer := none }, line := (s.line.offer (newFrame .draw 31 (drawPayload s.draw.held))).1 }
  unfold State.claimRefused State.handDraw State.hand
  refine ⟨fun h => ?_, fun m hm h => ?_⟩
  · rw [if_neg (hl.not.mpr h)]
    simp [hc, drawSent, State.backoffSpan]
  · rw [if_pos (hl.mpr h)]
    convert State.haltActive_halts _ _ using 1
    simp [State.moveDenied, hm, drawSent]

/-- The own CLAIM handed to the port (R124, R129, R161). -/
theorem State.handClaim_hands {s : State} {c : OwnClaim} (hc : s.draw.claim = some c) : HandsClaim s s.handClaim c := by
  refine ⟨fun h => ?_, fun l lost h hk => ?_, fun l lost h hk => ?_⟩
  · simp [State.handClaim, hc, LinePort.offer_of_accepts h, lostClaim]
  · simp only [State.handClaim, hc, h, lostClaim, hk, decide_false, Bool.false_eq_true, if_false]
  · simp only [State.handClaim, hc, h, lostClaim, hk, decide_true, if_true]
    exact State.claimRefused_refuses rfl

/-- A claim asked for (R124). -/
theorem State.askClaim_asks (s : State) (asking : Draw) : AsksClaim s (s.askClaim asking) asking := by
  refine ⟨fun h => ?_, fun h => ?_⟩
  · simp only [State.askClaim, h, if_true]
    exact State.handClaim_hands rfl
  · simp [State.askClaim, h]

/-- An own CLAIM frame reported dropped (R126). -/
theorem State.claimDropped_reports (s : State) : ReportsClaimDropped s s.claimDropped := by
  refine ⟨fun c h1 h2 hc => ?_, fun c h1 h2 hc => ?_, fun h => ?_⟩
  · simp only [State.claimDropped, h1, h2]
    exact State.claimRefused_refuses (by simpa using hc)
  · simp only [State.claimDropped, h1, h2]
    exact State.handClaim_hands (by simpa using hc)
  · unfold State.claimDropped
    cases h1 : s.draw.mark <;> cases h2 : s.draw.claimState <;> simp_all

/-- A FAIL notice handed to the line (R139, R161). -/
theorem State.handFail_hands (s : State) (i : FaultInfo) (q : BitVec 16) : HandsFail s (s.handFail i q) i q := by
  refine ⟨fun h => ?_, fun lost h hk => ?_⟩
  · unfold State.handFail
    cases ho : (s.line.offer (newFrame .fail 31 (failPayload i q))).2 with
    | none => simp only [ho, lostClaim, Bool.false_eq_true, if_false]
    | some f => simp only [ho, lostClaim, h f ho, decide_false, Bool.false_eq_true, if_false]
  · simp only [State.handFail, h, lostClaim, hk, decide_true, if_true]
    exact State.claimDropped_reports _

/-- A move ended by FAULT_FLOOD (R116). -/
theorem State.endMoveFlood_eq (s : State) : s.endMoveFlood = floodEnds s := by
  unfold State.endMoveFlood floodEnds
  cases hm : s.power.move with
  | none => rfl
  | some m =>
    cases hs : m.stage <;> by_cases hc : s.draw.claimState = .none_ <;>
      simp [hs, hc, State.abandonClaim, State.handDraw, State.hand, drawSent, abandoned, State.release, releasedTo] <;>
      split <;> simp

/-- A fault that reaches the Fault Recorder (R136 to R139). -/
theorem State.recordFault_records (s : State) (i : FaultInfo) (a : Option GuardAction) : Records s (s.recordFault i a) i a := by
  have hrec : s.faultRecord i a = freshRecord s i a := by
    simp [State.faultRecord, freshRecord, State.inFlight]
  have hseq : nextSequence s.faults.nextSequence = sequenceAfter s.faults.nextSequence := rfl
  refine ⟨fun h => ?_, fun before lost after hl hq hb hlost => ?_, fun h => ?_⟩
  · rw [State.recordFault_room h, hrec, hseq]
    convert State.handFail_hands _ _ _ using 1
    simp [recorded, h]
  · have hany : s.faults.queue.any FaultRecord.classified = true := by
      rw [hq]; simp [FaultRecord.classified, hlost]
    have he : s.faults.queue.eraseP FaultRecord.classified = before ++ after := by
      rw [hq, List.eraseP_append_right _ (by intro f hf; simp [FaultRecord.classified, hb f hf]),
        List.eraseP_cons_of_pos (by simp [FaultRecord.classified, hlost])]
    rw [State.recordFault_discards hl hany, hrec, hseq, he]
    convert State.handFail_hands _ _ _ using 1
    have : ¬ s.faults.queue.length < 32 := by omega
    simp [recorded, this, countUp, satInc]
  · have hroom : s.faults.hasRoom = false := by
      rw [← Bool.not_eq_true, Recorder.hasRoom_iff]; exact not_not.mpr h
    rw [State.recordFault_floods hroom, hseq]
    refine ⟨_, State.handFail_hands _ _ _, fun ha => ?_, fun ha => ?_⟩
    · simp [State.haltFlood, countUp, satInc] at ha ⊢
      simp [ha]
    · unfold State.haltFlood
      split
      · rw [State.endMoveFlood_eq]
        exact State.haltActive_halts _ _
      · rename_i hn; exact absurd ha hn

/-- A fault against the record in flight (R41, R136 to R138). -/
theorem State.stepFault_judges (s : State) (i : FaultInfo) : JudgesFault s (s.stepFault i) i := by
  refine ⟨_, State.recordFault_records s i none, fun h => ?_, fun hf hj hc => ?_⟩
  · unfold State.stepFault
    split
    · rename_i hroom
      rw [Recorder.hasRoom_iff] at hroom
      unfold State.enterJudging State.inFlight
      rcases h with h | h | h
      · exact absurd h hroom
      · simp [h]
      · simp [h]
    · rfl
  · have hroom : s.faults.hasRoom = true := (Recorder.hasRoom_iff _).mpr hf
    unfold State.stepFault
    rw [if_pos hroom]
    unfold State.enterJudging State.inFlight
    simp [hj, Option.isSome_iff_ne_none.mpr hc, State.enterPhase_eq, ownerReleased]

/-! ### What a fault of a SAMPLE leaves standing -/

theorem SampleStands.trans {s t u : State} (h : SampleStands s t) (k : SampleStands t u) : SampleStands s u := by
  obtain ⟨h1, h2, h3, h4, h5⟩ := h
  obtain ⟨k1, k2, k3, k4, k5⟩ := k
  rw [h1] at k5
  exact ⟨k1.trans h1, k2.trans h2, k3.trans h3, h4.trans k4, fun hm =>
    ⟨(k5 (h5 hm).1).1, fun a ha hb => ((k5 (h5 hm).1).2 a ha hb).trans ((h5 hm).2 a ha hb)⟩⟩

/-- An operation that touches none of it. -/
theorem SampleStands.of_eq {s t : State} (h1 : t.eng.fetchIndex = s.eng.fetchIndex) (h2 : t.check = s.check)
    (h3 : t.probe = s.probe) (h4 : t.port.waits = s.port.waits) (h5 : t.mem = s.mem) : SampleStands s t :=
  ⟨h1, h2, h3, by rw [h4], fun hm => ⟨by rwa [h5], fun a _ _ => by rw [h5]⟩⟩

/-- A halt by a block (R46), the strobe being over. -/
theorem State.haltActive_stands {s : State} (hs : s.probe.strobe = none) (reason : HaltReason) :
    SampleStands s (s.haltActive reason) := by
  refine ⟨by simp, by simp, ?_, ?_, fun hm => ⟨State.haltActive_wf hm _, fun a => State.read_haltActive_of_ne hm _⟩⟩
  all_goals
    obtain ⟨h1, h2⟩ := State.haltActive_halts s reason
    by_cases ha : s.eng.job.active = true
    · by_cases hc : s.eng.job ≠ .running ∨ s.eng.copy = none
      · rw [(h2 ha).1 hc]
      · rw [not_or, not_not] at hc
        obtain ⟨hj, hc⟩ := hc
        obtain ⟨r, hr⟩ := Option.ne_none_iff_exists'.mp hc
        rw [((h2 ha).2 r hj hr).1]
        first
        | (simp [← hs]; done)
        | (dsimp only; split <;> simp)
    · rw [h1 (by simpa using ha)]

theorem State.claimRefused_stands {s : State} (hs : s.probe.strobe = none) : SampleStands s s.claimRefused := by
  have key : ∀ u : State, u = ({ s with draw := { s.draw with windowTimer := none } } : State).handDraw → SampleStands s u :=
    fun u hu => by subst hu; exact SampleStands.of_eq (by simp) (by simp) (by simp) (by simp) (by simp)
  unfold State.claimRefused
  generalize ({ s with draw := { s.draw with windowTimer := none } } : State).handDraw = t at key
  dsimp only
  have h := key t rfl
  split
  · refine h.trans (SampleStands.trans (SampleStands.of_eq ?_ ?_ ?_ ?_ ?_) (State.haltActive_stands ?_ _))
    all_goals simp [h.2.2.1, hs]
  · exact h.trans (SampleStands.of_eq rfl rfl rfl rfl rfl)

theorem State.handClaim_stands {s : State} (hs : s.probe.strobe = none) : SampleStands s s.handClaim := by
  unfold State.handClaim
  split
  · exact SampleStands.of_eq rfl rfl rfl rfl rfl
  · dsimp only
    split
    · refine SampleStands.trans (SampleStands.of_eq ?_ ?_ ?_ ?_ ?_) (State.claimRefused_stands ?_) <;> first | rfl | exact hs
    · exact SampleStands.of_eq rfl rfl rfl rfl rfl

theorem State.claimDropped_stands {s : State} (hs : s.probe.strobe = none) : SampleStands s s.claimDropped := by
  unfold State.claimDropped
  dsimp only
  split
  · refine SampleStands.trans (SampleStands.of_eq ?_ ?_ ?_ ?_ ?_) (State.claimRefused_stands ?_) <;> first | rfl | exact hs
  · refine SampleStands.trans (SampleStands.of_eq ?_ ?_ ?_ ?_ ?_) (State.handClaim_stands ?_) <;> first | rfl | exact hs
  · exact SampleStands.of_eq rfl rfl rfl rfl rfl

theorem State.handFail_stands {s : State} (hs : s.probe.strobe = none) (i : FaultInfo) (q : BitVec 16) :
    SampleStands s (s.handFail i q) := by
  unfold State.handFail
  dsimp only
  split
  · refine SampleStands.trans (SampleStands.of_eq ?_ ?_ ?_ ?_ ?_) (State.claimDropped_stands ?_) <;> first | rfl | exact hs
  · exact SampleStands.of_eq rfl rfl rfl rfl rfl

theorem State.haltFlood_stands {s : State} (hs : s.probe.strobe = none) : SampleStands s s.haltFlood := by
  unfold State.haltFlood
  split
  · rw [State.endMoveFlood_eq]
    have h : SampleStands s (floodEnds s) := by
      unfold floodEnds releasedTo
      refine SampleStands.of_eq ?_ ?_ ?_ ?_ ?_ <;> repeat' split
      all_goals rfl
    exact h.trans (State.haltActive_stands (by rw [h.2.2.1]; exact hs) _)
  · exact SampleStands.of_eq rfl rfl rfl rfl rfl

theorem State.recordFault_stands {s : State} (hs : s.probe.strobe = none) (i : FaultInfo) (a : Option GuardAction) :
    SampleStands s (s.recordFault i a) := by
  have key : ∀ f : Recorder, SampleStands s (({ s with faults := f } : State).handFail i s.faults.nextSequence) := fun f =>
    SampleStands.trans (SampleStands.of_eq (t := { s with faults := f }) rfl rfl rfl rfl rfl)
      (State.handFail_stands (s := { s with faults := f }) hs _ _)
  unfold State.recordFault
  dsimp only
  split
  · exact key _
  · split
    · exact key _
    · exact (key _).trans (State.haltFlood_stands (by rw [(key _).2.2.1]; exact hs))

/-- A fault against the SAMPLE in flight, the strobe being over (R41, R58, R60, R70). -/
theorem State.stepFault_raises {s : State} (hs : s.probe.strobe = none) (hj : s.eng.job = .running) {r : Record}
    (hr : s.eng.copy = some r) (i : FaultInfo) : RaisesFault s (s.stepFault i) i := by
  refine ⟨State.stepFault_judges s i, ?_, fun h => State.stepFault_judging h hj hr i⟩
  unfold State.stepFault
  split
  · refine SampleStands.trans (State.recordFault_stands hs i none) ?_
    unfold State.enterJudging
    split
    · rw [State.enterPhase_eq]; exact SampleStands.of_eq rfl rfl rfl rfl rfl
    · exact SampleStands.of_eq rfl rfl rfl rfl rfl
  · exact State.recordFault_stands hs i none

/-! ### Frames read -/

/-- SET and its parameters come from a SETUP frame alone, the duplicate flag from a peer frame with the own slot (R163 to
R165). -/
theorem State.receiveFrame_setup (s : State) (f : Frame) :
   ((s.receiveFrame f).line.isSet ≠ s.line.isSet ∨ (s.receiveFrame f).line.params ≠ s.line.params →
       f.kind = 4 ∧ f.payload.length = 8 ∧ f.source = 30 ∧ s.line.addressedBy f) ∧
   (s.line.isSet = true → (s.receiveFrame f).line.isSet = true ∧ (s.receiveFrame f).line.params = s.line.params) ∧
   (s.line.duplicate = true → (s.receiveFrame f).line.duplicate = true) ∧
   ((s.receiveFrame f).line.duplicate ≠ s.line.duplicate → isPeerFrame f ∧ f.source = s.line.slot ∧ s.line.slot.toNat < 30) := by
  unfold State.receiveFrame
  cases hr : s.line.receive f with
  | bad => simp [State.countBad, State.frameEnded]
  | passedOver => simp [State.frameEnded]
  | duplicate =>
    unfold LinePort.receive at hr
    split at hr
    · cases hr
    · rename_i hb
      split at hr
      · cases hr
      · rename_i k hk
        split at hr
        · rename_i hp
          split at hr
          · rename_i hs
            have key : isPeerFrame f := by
              simp only [frameBad, hk, Bool.or_eq_true, not_or] at hb
              obtain ⟨_, hb⟩ := hb
              unfold FrameKind.ofCode at hk
              have hkk : ∀ n : Nat, f.kind.toNat = n → n < 16 → f.kind = BitVec.ofNat 4 n := by
                intro n h1 h2; apply BitVec.eq_of_toNat_eq; simp [h1]; omega
              revert hk hb
              cases k <;> simp [FrameKind.fromPeer] at hp <;> intro hk hb <;> split at hk <;> simp at hk <;> simp [fixedLength] at hb <;>
                (rename_i h0; have := hkk _ h0 (by omega); simp [isPeerFrame, this, hb])
            refine ⟨?_, ?_, ?_, fun _ => ⟨key, hs, by rw [← hs]; exact hp.2⟩⟩
            · simp [State.setDuplicate, State.frameEnded]; split <;> simp
            · intro h; simp [State.setDuplicate, State.frameEnded]; split <;> simp [h]
            · intro h; simp [State.setDuplicate, State.frameEnded]; split <;> simp
          · cases hr
        · split at hr <;> cases hr
  | taken k =>
    unfold LinePort.receive at hr
    split at hr
    · cases hr
    · rename_i hb
      split at hr
      · cases hr
      · rename_i k' hk
        have hkey : k = .setup → f.kind = 4 ∧ f.payload.length = 8 ∧ f.source = 30 ∧ s.line.addressedBy f := by
          rintro rfl
          split at hr
          · rename_i hp; split at hr
            · cases hr
            · cases hr; simp [FrameKind.fromPeer] at hp
          · split at hr
            · rename_i hp; cases hr
              simp only [frameBad, hk, Bool.or_eq_true, not_or] at hb
              obtain ⟨_, hb⟩ := hb
              unfold FrameKind.ofCode at hk
              have hkk : ∀ n : Nat, f.kind.toNat = n → n < 16 → f.kind = BitVec.ofNat 4 n := by
                intro n h1 h2; apply BitVec.eq_of_toNat_eq; simp [h1]; omega
              split at hk <;> simp at hk
              rename_i h0
              refine ⟨hkk 4 h0 (by decide), by simpa [fixedLength] using hb, hp.2.1, ?_⟩
              have := hp.2.2
              simpa [LinePort.addressed, LinePort.addressedBy] using this
            · cases hr
        unfold State.handOn
        cases k <;> simp only [State.takeFail, State.takeClaim, State.takeDraw, State.takeJoin, State.takeSetup, State.takeRequest] <;>
          (repeat' split) <;> simp_all [State.frameEnded, State.setPeer]

/-- A frame changes a draw table entry only as its peer's CLAIM, DRAW or JOIN, and the own entry never (R118 to R122). -/
theorem State.receiveFrame_table (s : State) (f : Frame) (x : Fin 30) :
   ((f.source.toNat = x.val → ¬ isPeerFrame f ∨ f.kind = 0) → (s.receiveFrame f).draw.table.get x = s.draw.table.get x) ∧
   (x.val = s.line.slot.toNat → (s.receiveFrame f).draw.table.get x = s.draw.table.get x) := by
  unfold State.receiveFrame
  cases hr : s.line.receive f with
  | bad => simp [State.countBad, State.frameEnded]
  | passedOver => simp [State.frameEnded]
  | duplicate => simp [State.setDuplicate, State.frameEnded]; split <;> simp
  | taken k =>
    unfold LinePort.receive at hr
    split at hr
    · cases hr
    · rename_i hb
      split at hr
      · cases hr
      · rename_i k' hk
        have hpk : k.fromPeer = true → isPeerFrame f := by
          intro h
          have : k' = k := by
            split at hr
            · split at hr <;> cases hr; rfl
            · split at hr <;> cases hr; rfl
          subst this
          simp only [frameBad, hk, Bool.or_eq_true, not_or] at hb
          obtain ⟨_, hb⟩ := hb
          unfold FrameKind.ofCode at hk
          have hkk : ∀ n : Nat, f.kind.toNat = n → n < 16 → f.kind = BitVec.ofNat 4 n := by
            intro n h1 h2; apply BitVec.eq_of_toNat_eq; simp [h1]; omega
          revert hk hb
          cases k' <;> simp [FrameKind.fromPeer] at h <;> intro hk hb <;> split at hk <;> simp at hk <;> simp [fixedLength] at hb <;>
                (rename_i h0; have := hkk _ h0 (by omega); simp [isPeerFrame, this, hb])
        have hk0 : k.fromPeer = true → k ≠ .fail → f.kind ≠ 0 := by
          intro h h'
          have : k' = k := by
            split at hr
            · split at hr <;> cases hr; rfl
            · split at hr <;> cases hr; rfl
          subst this
          intro h0
          rw [h0] at hk
          simp [FrameKind.ofCode] at hk
          exact h' hk.symm
        have key : ∀ (y : Fin 30) (u : State) (e : PeerEntry), peerSlot s.line f.source = some y → u.draw.table = s.draw.table →
            k.fromPeer = true → k ≠ .fail →
            ((f.source.toNat = x.val → ¬ isPeerFrame f ∨ f.kind = 0) → (u.setPeer y e).draw.table.get x = s.draw.table.get x) ∧
            (x.val = s.line.slot.toNat → (u.setPeer y e).draw.table.get x = s.draw.table.get x) := by
          intro y u e hy hu h1 h2
          have hyv : f.source.toNat = y.val ∧ f.source ≠ s.line.slot := by
            unfold peerSlot at hy
            split at hy
            · split at hy
              · cases hy
              · cases hy; exact ⟨rfl, by assumption⟩
            · cases hy
          have : x ≠ y → (u.setPeer y e).draw.table.get x = s.draw.table.get x := by
            intro hne
            simp only [State.setPeer]
            rw [Vector.get_eq_getElem, Vector.getElem_set_ne _ _ (by intro h; exact hne (Fin.ext h.symm)), hu]
            rfl
          refine ⟨fun h => this ?_, fun h => this ?_⟩
          · rintro rfl
            rcases h hyv.1 with h | h
            · exact h (hpk h1)
            · exact hk0 h1 h2 h
          · rintro rfl
            exact hyv.2 (BitVec.eq_of_toNat_eq (by rw [hyv.1, h]))
        unfold State.handOn
        cases k <;> simp only [State.takeFail, State.takeClaim, State.takeDraw, State.takeJoin, State.takeSetup, State.takeRequest] <;>
          (repeat' split) <;> try (simp [State.frameEnded]; done)
        all_goals exact key _ _ _ (by assumption) rfl rfl (by decide)

/-! ### Isolation and ABORT -/

/-- The completion that isolates the board and halts (R42, R115): the record completes, the board goes down if it is
powered, and the job halts ISOLATED. -/
theorem State.complete_isolates {s : State} {r : Record} (o : StepOutcome) (hm : Memory.wf s.mem)
    (hr : s.eng.copy = some r) (hj : s.eng.job = .running) (hp : s.PortFreeFor r) :
    let v := { s with line := lineAfterCompletion s r o }
    let off := if s.power.state.unpowered then v else poweredDown v .off
    s.complete o .isolate = { off with
      eng := haltedEngine s.eng .isolated, mem := (s.complete o .isolate).mem,
      port := { s.port with owner := ownerReleased s },
      line := lineAfterEnd off.line (haltedEngine s.eng .isolated) s.faults.queue.length } ∧
    ∀ a, Memory.read (s.complete o .isolate).mem a = outcomeByte s.mem s.eng.fetchIndex r o a := by
  have hf := s.eng.fetchIndex.isLt
  have hw14 : 16 * s.eng.fetchIndex.toNat + 14 < Config.memoryBytes := by simp [Config.memoryBytes]; omega
  have key : ∀ m : Memory, ∀ e : Engine, e.job = .running → haltedEngine e .isolated = haltedEngine s.eng .isolated →
      e.fetchIndex = s.eng.fetchIndex → e.loops = s.eng.loops →
      let v := { s with line := lineAfterCompletion s r o }
      let off := if s.power.state.unpowered then v else poweredDown v .off
      ({ s with mem := m, eng := e } : State).finish { record := r, outcome := o, stamp := s.clock, after := .isolate } =
        { off with
          eng := haltedEngine s.eng .isolated, mem := m, port := { s.port with owner := ownerReleased s },
          line := lineAfterEnd off.line (haltedEngine s.eng .isolated) s.faults.queue.length } := by
    intro m e hj he h1 h2
    have hl : lineAfterCompletion ({ s with mem := m, eng := e } : State) r o = lineAfterCompletion s r o := by
      simp [lineAfterCompletion, Engine.innermostRemaining, h1, h2]
    simp only [State.finish, hj, if_true, State.goOn]
    rw [State.progress_eq _ _ rfl, State.haltJob_eq]
    simp only [hl, State.isolateBoard]
    split
    · simp [he, ownerReleased]
    · rw [State.powerDown_eq]
      simp [poweredDown, he, ownerReleased]
  unfold State.complete
  rw [hr]
  simp only []
  by_cases hrep : reportFlag r = true
  · have hne := hp hrep
    simp only [hrep, if_true, hne, if_false, State.writeOutcome]
    have hk := fun m => key m { s.eng with copy := none, phase := .ready, judged := none, timer := none } hj rfl rfl rfl
    simp only [] at hk
    rw [hk]
    refine ⟨rfl, fun a => ?_⟩
    simp [outcomeByte, hrep, Memory.read_write hm, Memory.read_write (Memory.write_wf _ hm hw14)]
    split_ifs <;> first | rfl | omega
  · simp only [hrep, Bool.false_eq_true, if_false]
    have := key s.mem { s.eng with copy := none, phase := .ready, judged := none, timer := none } hj rfl rfl rfl
    simp only [] at this
    rw [this]
    exact ⟨rfl, fun a => by simp [outcomeByte, hrep]⟩

/-- ABORT in full (R27): the board isolated when it is powered, and the halt with its abandonment. -/
theorem State.abort_halts {s : State} (ha : s.eng.job.active = true) :
    HaltsAbandoning (if s.power.state.unpowered then s else poweredDown s .off) s.abort .aborted := by
  have key : s.abort = (s.isolateBoard).haltActive .aborted := by
    have e1 : s.isolateBoard.eng = s.eng := by unfold State.isolateBoard; split; rfl; rw [State.powerDown_eq]; rfl
    unfold State.abort State.haltActive
    rw [e1, if_pos ha]
    congr 1
    unfold State.isolateBoard
    have ep : s.abandon.power = s.power := by simp
    rw [ep]
    split
    · rfl
    · rw [State.powerDown_eq, State.powerDown_eq]
      unfold State.abandon State.writeBack poweredDown State.wait State.writeOutcome
      by_cases hj : s.eng.job = .running
      · cases hc : s.eng.copy with
        | none => simp [hj]
        | some r =>
          by_cases h1 : reportFlag r = true <;> by_cases h2 : s.port.owner = .bench <;> simp [hj, h1, h2]
      · simp [hj]
  have e2 : s.isolateBoard = if s.power.state.unpowered then s else poweredDown s .off := by
    unfold State.isolateBoard; rw [State.powerDown_eq]
  rw [key, e2]
  exact State.haltActive_halts _ _

/-! ### The port's return -/

/-- A LOAD or PEEK that enters service at the port's return (R21, last sentence). -/
theorem State.askAtReturn_asks (s : State) : AsksNext s s.askAtReturn := by
  have key : s.nextAsks = true ↔ (s.bench.service = .checking ∧ ∃ q ∈ s.bench.queue.head?, s.Admits q) := by
    unfold State.nextAsks Bench.inService
    have hA : ∀ q : Request, (decide (q.kind = .load ∧ loadRefusal s.eng q.payload = none) || decide (q.kind = .peek ∧ peekRefusal q.payload = none)) = true ↔ s.Admits q := by
      intro q
      simp only [Bool.or_eq_true, decide_eq_true_eq, State.Admits]
      apply or_congr
      · apply and_congr Iff.rfl
        unfold loadRefusal Config.captureBase
        simp only []
        by_cases h1 : q.payload.length < 3
        · simp [h1]
        · by_cases h2 : 24575 < leAt 2 q.payload 0 + (q.payload.length - 2) - 1
          · simp [h1, h2]; omega
          · by_cases h3 : 16384 ≤ leAt 2 q.payload 0 + (q.payload.length - 2) - 1
            · simp [h1, h2, h3]; omega
            · simp only [h1, h2, h3, if_false]
              have hr : s.eng.reachesLive (leAt 2 q.payload 0) (leAt 2 q.payload 0 + (q.payload.length - 2) - 1) = true ↔ ¬ (∀ n, leAt 2 q.payload 0 / 16 ≤ n → n ≤ (leAt 2 q.payload 0 + q.payload.length - 3) / 16 →
      ¬ (BitVec.ofNat 10 n - s.eng.retain).toNat < (s.eng.postIndex - s.eng.retain).toNat) := by
                constructor
                · intro h hn
                  obtain ⟨i, hi, h⟩ := List.any_eq_true.mp h
                  have hi := List.mem_range.mp hi
                  exact hn (leAt 2 q.payload 0 / 16 + i) (by omega) (by omega) (of_decide_eq_true h)
                · intro h
                  by_contra hn
                  apply h
                  intro n ha hb hl
                  apply hn
                  refine List.any_eq_true.mpr ⟨n - leAt 2 q.payload 0 / 16, List.mem_range.mpr (by omega), ?_⟩
                  rw [show leAt 2 q.payload 0 / 16 + (n - leAt 2 q.payload 0 / 16) = n by omega]
                  exact decide_eq_true hl
              split
              · rename_i h; rw [hr] at h; simp; intro _ _ ; simpa using h
              · rename_i h; rw [hr, not_not] at h; simp only [true_iff]; exact ⟨by omega, by omega, h⟩
      · apply and_congr Iff.rfl
        unfold peekRefusal
        simp only []
        by_cases h1 : q.payload.length ≠ 3
        · simp [h1]
        · by_cases h2 : (byteAt q.payload 2).toNat = 0 ∨ 30 < (byteAt q.payload 2).toNat
          · simp [h1, h2]; omega
          · by_cases h3 : 24575 < leAt 2 q.payload 0 + (byteAt q.payload 2).toNat - 1
            · rw [if_neg h1, if_neg h2, if_pos h3]; simp; omega
            · rw [if_neg h1, if_neg h2, if_neg h3]; simp; omega
    by_cases hs : s.bench.service = .checking
    · simp only [hs, if_true, true_and]
      rw [Option.any_eq_true]
      simp only [hA]
      rfl
    · simp [hs]
  unfold AsksNext State.askAtReturn
  simp only []
  refine ⟨fun h => ?_, fun h => ?_⟩
  · rw [if_pos (key.mpr h)]
  · rw [if_neg (fun h' => h (key.mp h'))]

/-- The grant at a release point that stands (R19, R20). -/
theorem State.releaseAtPoint_eq (u : State) : (if u.atReleasePoint then u.releasePort else u) = grantedAtRelease u := by
  unfold State.atReleasePoint grantedAtRelease
  rw [State.releasePort_eq]
  by_cases h1 : u.eng.job = .running <;> by_cases h2 : u.eng.phase = .ready <;> simp [h1, h2]

/-- The port's return with accesses that waited (R21). -/
theorem State.returnPort_waits {s : State} {w : EngineAccess} {ws : List EngineAccess} (h : s.port.waits = w :: ws) :
    s.returnPort = grantedAtRelease
      ((w :: ws).foldl State.makeAccess ({ s with port := { owner := .engine, waits := [] } } : State).askAtReturn) := by
  unfold State.returnPort
  rw [h]
  exact State.releaseAtPoint_eq _

end Sys2Proof.Machine
end

