-- ==== Sys2Proof/Laws/Commands.lean ====
section
/-! SUPPORT. The frame of each command: what it leaves as it was whenever it answers a next state, whatever its
operands and whether or not its event takes place. -/

namespace Sys2Proof.Machine

/-- A frame read to its end, whatever the port makes of it. -/
@[simp] theorem State.receiveFrame_frame (s : State) (f : Frame) :
    (s.receiveFrame f).clock = s.clock ∧
    (s.receiveFrame f).eng.fetchIndex = s.eng.fetchIndex ∧
    (s.receiveFrame f).eng.postIndex = s.eng.postIndex ∧
    (s.receiveFrame f).eng.loops = s.eng.loops ∧
    (s.receiveFrame f).probe.direction = s.probe.direction ∧
    (s.receiveFrame f).probe.polarity = s.probe.polarity ∧
    (s.receiveFrame f).probe.drive = s.probe.drive ∧
    (s.receiveFrame f).probe.source = s.probe.source ∧
    (s.receiveFrame f).probe.nextIndex = s.probe.nextIndex ∧
    (s.receiveFrame f).probe.validCount = s.probe.validCount ∧
    (s.receiveFrame f).check = s.check ∧
    (s.receiveFrame f).rail.channels = s.rail.channels ∧
    (s.receiveFrame f).rail.measured = s.rail.measured ∧
    (s.receiveFrame f).rail.tripMain = s.rail.tripMain ∧
    (s.receiveFrame f).rail.tripStandby = s.rail.tripStandby ∧
    (s.receiveFrame f).rail.overdrawCount = s.rail.overdrawCount ∧
    (s.receiveFrame f).rail.zeroCapture = s.rail.zeroCapture ∧
    (s.receiveFrame f).power.standby = s.power.standby ∧
    (s.receiveFrame f).power.main = s.power.main ∧
    (s.receiveFrame f).power.mainTrip = s.power.mainTrip ∧
    (s.receiveFrame f).power.standbyTrip = s.power.standbyTrip ∧
    (s.receiveFrame f).power.declared = s.power.declared ∧
    (s.receiveFrame f).power.rampTimer = s.power.rampTimer ∧
    (s.receiveFrame f).draw.held = s.draw.held ∧
    (s.receiveFrame f).faults.queue = s.faults.queue ∧
    (s.receiveFrame f).faults.nextSequence = s.faults.nextSequence ∧
    (s.receiveFrame f).faults.discarded = s.faults.discarded ∧
    (s.receiveFrame f).line.slot = s.line.slot ∧
    (s.receiveFrame f).line.rate = s.line.rate ∧
    (s.receiveFrame f).freeNext = s.freeNext ∧
    (s.receiveFrame f).pending = s.pending := by
  unfold State.receiveFrame State.handOn
  repeat' split
  all_goals simp [State.frameEnded]

/-- The frame in transmission completed. -/
@[simp] theorem State.frameCompleted_frame (s : State) (f : TxFrame) :
    (s.frameCompleted f).clock = s.clock ∧
    (s.frameCompleted f).eng.fetchIndex = s.eng.fetchIndex ∧
    (s.frameCompleted f).eng.postIndex = s.eng.postIndex ∧
    (s.frameCompleted f).eng.loops = s.eng.loops ∧
    (s.frameCompleted f).probe.direction = s.probe.direction ∧
    (s.frameCompleted f).probe.polarity = s.probe.polarity ∧
    (s.frameCompleted f).probe.drive = s.probe.drive ∧
    (s.frameCompleted f).probe.source = s.probe.source ∧
    (s.frameCompleted f).probe.nextIndex = s.probe.nextIndex ∧
    (s.frameCompleted f).probe.validCount = s.probe.validCount ∧
    (s.frameCompleted f).check = s.check ∧
    (s.frameCompleted f).rail.channels = s.rail.channels ∧
    (s.frameCompleted f).rail.measured = s.rail.measured ∧
    (s.frameCompleted f).rail.tripMain = s.rail.tripMain ∧
    (s.frameCompleted f).rail.tripStandby = s.rail.tripStandby ∧
    (s.frameCompleted f).rail.overdrawCount = s.rail.overdrawCount ∧
    (s.frameCompleted f).rail.zeroCapture = s.rail.zeroCapture ∧
    (s.frameCompleted f).power.standby = s.power.standby ∧
    (s.frameCompleted f).power.main = s.power.main ∧
    (s.frameCompleted f).power.mainTrip = s.power.mainTrip ∧
    (s.frameCompleted f).power.standbyTrip = s.power.standbyTrip ∧
    (s.frameCompleted f).power.declared = s.power.declared ∧
    (s.frameCompleted f).power.rampTimer = s.power.rampTimer ∧
    (s.frameCompleted f).draw.table = s.draw.table ∧
    (s.frameCompleted f).draw.held = s.draw.held ∧
    (s.frameCompleted f).faults = s.faults ∧
    (s.frameCompleted f).line.slot = s.line.slot ∧
    (s.frameCompleted f).line.rate = s.line.rate ∧
    (s.frameCompleted f).line.isSet = s.line.isSet ∧
    (s.frameCompleted f).line.params = s.line.params ∧
    (s.frameCompleted f).line.duplicate = s.line.duplicate ∧
    (s.frameCompleted f).line.receivedBad = s.line.receivedBad ∧
    (s.frameCompleted f).line.cutOwn = s.line.cutOwn ∧
    (s.frameCompleted f).bench = s.bench ∧
    (s.frameCompleted f).freeNext = s.freeNext ∧
    (s.frameCompleted f).pending = s.pending := by
  unfold State.frameCompleted
  simp only []
  split <;> simp

theorem execStationTick_frame {s t : State}  (h : execStationTick s = .next t) :
    t.mem = s.mem ∧
    t.port = s.port ∧
    t.eng = s.eng ∧
    t.probe = s.probe ∧
    t.check = s.check ∧
    t.rail = s.rail ∧
    t.power = s.power ∧
    t.draw = s.draw ∧
    t.faults.queue = s.faults.queue ∧
    t.faults.nextSequence = s.faults.nextSequence ∧
    t.faults.discarded = s.faults.discarded ∧
    t.faults.noticeOverflow = s.faults.noticeOverflow ∧
    t.line = s.line ∧
    t.bench = s.bench ∧
    t.freeNext = s.freeNext ∧
    t.pending = s.pending := by
  cases h; simp [Recorder.prune]

theorem execUpdateRound_frame {s t : State} {codes : Vector (BitVec 12) 8} (h : execUpdateRound codes s = .next t) :
    t.clock = s.clock ∧
    t.mem = s.mem ∧
    t.port = s.port ∧
    t.eng = s.eng ∧
    t.probe = s.probe ∧
    t.check = s.check ∧
    t.power = s.power ∧
    t.draw = s.draw ∧
    t.faults = s.faults ∧
    t.line = s.line ∧
    t.bench = s.bench ∧
    t.freeNext = s.freeNext ∧
    t.pending = s.pending := by
  cases h; simp

theorem execGuardFault_frame {s t : State} {channel : Fin 8} (h : execGuardFault channel s = .next t) :
    t.clock = s.clock ∧
    t.eng.fetchIndex = s.eng.fetchIndex ∧
    t.eng.postIndex = s.eng.postIndex ∧
    t.eng.loops = s.eng.loops ∧
    t.probe.direction = s.probe.direction ∧
    t.probe.polarity = s.probe.polarity ∧
    t.probe.drive = s.probe.drive ∧
    t.probe.source = s.probe.source ∧
    t.probe.nextIndex = s.probe.nextIndex ∧
    t.probe.validCount = s.probe.validCount ∧
    t.check = s.check ∧
    t.rail.measured = s.rail.measured ∧
    t.rail.tripMain = s.rail.tripMain ∧
    t.rail.tripStandby = s.rail.tripStandby ∧
    t.rail.overdrawCount = s.rail.overdrawCount ∧
    t.power.standby = s.power.standby ∧
    t.power.main = s.power.main ∧
    t.power.mainTrip = s.power.mainTrip ∧
    t.power.standbyTrip = s.power.standbyTrip ∧
    t.draw.table = s.draw.table ∧
    t.faults.notices = s.faults.notices ∧
    t.faults.noticeOverflow = s.faults.noticeOverflow ∧
    t.line.slot = s.line.slot ∧
    t.line.rate = s.line.rate ∧
    t.line.isSet = s.line.isSet ∧
    t.line.params = s.line.params ∧
    t.line.duplicate = s.line.duplicate ∧
    t.line.receivedBad = s.line.receivedBad ∧
    t.line.cutOwn = s.line.cutOwn ∧
    t.bench = s.bench ∧
    t.freeNext = s.freeNext ∧
    t.pending = s.pending := by
  unfold execGuardFault at h
  simp only [] at h
  repeat' split at h
  all_goals (cases h; try simp)

theorem execGuardRearm_frame {s t : State} {channel : Fin 8} (h : execGuardRearm channel s = .next t) :
    t.clock = s.clock ∧
    t.mem = s.mem ∧
    t.port = s.port ∧
    t.eng = s.eng ∧
    t.probe = s.probe ∧
    t.check = s.check ∧
    t.rail.measured = s.rail.measured ∧
    t.rail.tripMain = s.rail.tripMain ∧
    t.rail.tripStandby = s.rail.tripStandby ∧
    t.rail.overdrawCount = s.rail.overdrawCount ∧
    t.rail.zeroCapture = s.rail.zeroCapture ∧
    t.rail.average = s.rail.average ∧
    t.power = s.power ∧
    t.draw = s.draw ∧
    t.faults = s.faults ∧
    t.line = s.line ∧
    t.bench = s.bench ∧
    t.freeNext = s.freeNext ∧
    t.pending = s.pending := by
  unfold execGuardRearm at h
  simp only [] at h
  repeat' split at h
  all_goals (cases h; try simp)

theorem execTripDetection_frame {s t : State}  (h : execTripDetection s = .next t) :
    t.clock = s.clock ∧
    t.eng.fetchIndex = s.eng.fetchIndex ∧
    t.eng.postIndex = s.eng.postIndex ∧
    t.eng.loops = s.eng.loops ∧
    t.probe.direction = s.probe.direction ∧
    t.probe.polarity = s.probe.polarity ∧
    t.probe.drive = s.probe.drive ∧
    t.probe.source = s.probe.source ∧
    t.probe.nextIndex = s.probe.nextIndex ∧
    t.probe.validCount = s.probe.validCount ∧
    t.check = s.check ∧
    t.rail.channels = s.rail.channels ∧
    t.rail.measured = s.rail.measured ∧
    t.rail.tripMain = s.rail.tripMain ∧
    t.rail.tripStandby = s.rail.tripStandby ∧
    t.rail.overdrawCount = s.rail.overdrawCount ∧
    t.power.mainTrip = s.power.mainTrip ∧
    t.power.standbyTrip = s.power.standbyTrip ∧
    t.draw.table = s.draw.table ∧
    t.faults.notices = s.faults.notices ∧
    t.faults.noticeOverflow = s.faults.noticeOverflow ∧
    t.line.slot = s.line.slot ∧
    t.line.rate = s.line.rate ∧
    t.line.isSet = s.line.isSet ∧
    t.line.params = s.line.params ∧
    t.line.duplicate = s.line.duplicate ∧
    t.line.receivedBad = s.line.receivedBad ∧
    t.line.cutOwn = s.line.cutOwn ∧
    t.bench = s.bench ∧
    t.freeNext = s.freeNext ∧
    t.pending = s.pending := by
  unfold execTripDetection at h
  repeat' split at h
  all_goals (cases h; try simp)

theorem execOverdrawDetection_frame {s t : State}  (h : execOverdrawDetection s = .next t) :
    t.clock = s.clock ∧
    t.eng.fetchIndex = s.eng.fetchIndex ∧
    t.eng.postIndex = s.eng.postIndex ∧
    t.eng.loops = s.eng.loops ∧
    t.probe.direction = s.probe.direction ∧
    t.probe.polarity = s.probe.polarity ∧
    t.probe.drive = s.probe.drive ∧
    t.probe.source = s.probe.source ∧
    t.probe.nextIndex = s.probe.nextIndex ∧
    t.probe.validCount = s.probe.validCount ∧
    t.check = s.check ∧
    t.rail.channels = s.rail.channels ∧
    t.rail.measured = s.rail.measured ∧
    t.rail.tripMain = s.rail.tripMain ∧
    t.rail.tripStandby = s.rail.tripStandby ∧
    t.power.mainTrip = s.power.mainTrip ∧
    t.power.standbyTrip = s.power.standbyTrip ∧
    t.draw.table = s.draw.table ∧
    t.faults.notices = s.faults.notices ∧
    t.faults.noticeOverflow = s.faults.noticeOverflow ∧
    t.line.slot = s.line.slot ∧
    t.line.rate = s.line.rate ∧
    t.line.isSet = s.line.isSet ∧
    t.line.params = s.line.params ∧
    t.line.duplicate = s.line.duplicate ∧
    t.line.receivedBad = s.line.receivedBad ∧
    t.line.cutOwn = s.line.cutOwn ∧
    t.bench = s.bench ∧
    t.freeNext = s.freeNext ∧
    t.pending = s.pending := by
  unfold execOverdrawDetection at h
  simp only [] at h
  repeat' split at h
  all_goals (cases h; try simp)

theorem execZeroCaptureEnd_frame {s t : State}  (h : execZeroCaptureEnd s = .next t) :
    t.clock = s.clock ∧
    t.eng.fetchIndex = s.eng.fetchIndex ∧
    t.eng.postIndex = s.eng.postIndex ∧
    t.eng.loops = s.eng.loops ∧
    t.probe.direction = s.probe.direction ∧
    t.probe.polarity = s.probe.polarity ∧
    t.probe.drive = s.probe.drive ∧
    t.probe.source = s.probe.source ∧
    t.probe.nextIndex = s.probe.nextIndex ∧
    t.probe.validCount = s.probe.validCount ∧
    t.check = s.check ∧
    t.rail.measured = s.rail.measured ∧
    t.rail.tripMain = s.rail.tripMain ∧
    t.rail.tripStandby = s.rail.tripStandby ∧
    t.rail.overdrawCount = s.rail.overdrawCount ∧
    t.power.mainTrip = s.power.mainTrip ∧
    t.power.standbyTrip = s.power.standbyTrip ∧
    t.draw.table = s.draw.table ∧
    t.faults.notices = s.faults.notices ∧
    t.faults.noticeOverflow = s.faults.noticeOverflow ∧
    t.line.slot = s.line.slot ∧
    t.line.rate = s.line.rate ∧
    t.line.isSet = s.line.isSet ∧
    t.line.params = s.line.params ∧
    t.line.duplicate = s.line.duplicate ∧
    t.line.receivedBad = s.line.receivedBad ∧
    t.line.cutOwn = s.line.cutOwn ∧
    t.bench = s.bench ∧
    t.freeNext = s.freeNext ∧
    t.pending = s.pending := by
  unfold execZeroCaptureEnd at h
  simp only [] at h
  repeat' split at h
  all_goals (cases h; try simp)

theorem execRampExpiry_frame {s t : State}  (h : execRampExpiry s = .next t) :
    t.clock = s.clock ∧
    t.eng.postIndex = s.eng.postIndex ∧
    t.probe = s.probe ∧
    t.check = s.check ∧
    t.rail.channels = s.rail.channels ∧
    t.rail.measured = s.rail.measured ∧
    t.rail.tripMain = s.rail.tripMain ∧
    t.rail.tripStandby = s.rail.tripStandby ∧
    t.rail.overdrawCount = s.rail.overdrawCount ∧
    t.rail.average = s.rail.average ∧
    t.power.mainTrip = s.power.mainTrip ∧
    t.power.standbyTrip = s.power.standbyTrip ∧
    t.draw.table = s.draw.table ∧
    t.faults = s.faults ∧
    t.line.slot = s.line.slot ∧
    t.line.rate = s.line.rate ∧
    t.line.isSet = s.line.isSet ∧
    t.line.params = s.line.params ∧
    t.line.duplicate = s.line.duplicate ∧
    t.line.receivedBad = s.line.receivedBad ∧
    t.line.cutOwn = s.line.cutOwn ∧
    t.bench = s.bench ∧
    t.freeNext = s.freeNext ∧
    t.pending = s.pending := by
  unfold execRampExpiry at h
  repeat' split at h
  all_goals (cases h; try simp)

theorem execRailcheckAverageEnd_frame {s t : State}  (h : execRailcheckAverageEnd s = .next t) :
    t.clock = s.clock ∧
    t.eng.postIndex = s.eng.postIndex ∧
    t.probe.direction = s.probe.direction ∧
    t.probe.polarity = s.probe.polarity ∧
    t.probe.drive = s.probe.drive ∧
    t.probe.source = s.probe.source ∧
    t.probe.nextIndex = s.probe.nextIndex ∧
    t.probe.validCount = s.probe.validCount ∧
    t.check = s.check ∧
    t.rail.channels = s.rail.channels ∧
    t.rail.measured = s.rail.measured ∧
    t.rail.tripMain = s.rail.tripMain ∧
    t.rail.tripStandby = s.rail.tripStandby ∧
    t.rail.overdrawCount = s.rail.overdrawCount ∧
    t.power.mainTrip = s.power.mainTrip ∧
    t.power.standbyTrip = s.power.standbyTrip ∧
    t.draw.table = s.draw.table ∧
    t.faults.notices = s.faults.notices ∧
    t.faults.noticeOverflow = s.faults.noticeOverflow ∧
    t.line.slot = s.line.slot ∧
    t.line.rate = s.line.rate ∧
    t.line.isSet = s.line.isSet ∧
    t.line.params = s.line.params ∧
    t.line.duplicate = s.line.duplicate ∧
    t.line.receivedBad = s.line.receivedBad ∧
    t.line.cutOwn = s.line.cutOwn ∧
    t.bench = s.bench ∧
    t.freeNext = s.freeNext ∧
    t.pending = s.pending := by
  unfold execRailcheckAverageEnd at h
  simp only [] at h
  repeat' split at h
  all_goals (cases h; try simp)

theorem execSettleEnd_frame {s t : State} {testPoints : Levels} (h : execSettleEnd testPoints s = .next t) :
    t.clock = s.clock ∧
    t.eng.postIndex = s.eng.postIndex ∧
    t.probe.direction = s.probe.direction ∧
    t.probe.polarity = s.probe.polarity ∧
    t.probe.drive = s.probe.drive ∧
    t.probe.source = s.probe.source ∧
    t.rail.channels = s.rail.channels ∧
    t.rail.measured = s.rail.measured ∧
    t.rail.tripMain = s.rail.tripMain ∧
    t.rail.tripStandby = s.rail.tripStandby ∧
    t.rail.overdrawCount = s.rail.overdrawCount ∧
    t.power.mainTrip = s.power.mainTrip ∧
    t.power.standbyTrip = s.power.standbyTrip ∧
    t.draw.table = s.draw.table ∧
    t.faults.notices = s.faults.notices ∧
    t.faults.noticeOverflow = s.faults.noticeOverflow ∧
    t.line.slot = s.line.slot ∧
    t.line.rate = s.line.rate ∧
    t.line.isSet = s.line.isSet ∧
    t.line.params = s.line.params ∧
    t.line.duplicate = s.line.duplicate ∧
    t.line.receivedBad = s.line.receivedBad ∧
    t.line.cutOwn = s.line.cutOwn ∧
    t.bench = s.bench ∧
    t.freeNext = s.freeNext ∧
    t.pending = s.pending := by
  unfold execSettleEnd at h
  repeat' split at h
  all_goals (cases h; try simp)

theorem execHoldOffRelease_frame {s t : State} {testPoints : Levels} (h : execHoldOffRelease testPoints s = .next t) :
    t.clock = s.clock ∧
    t.eng.postIndex = s.eng.postIndex ∧
    t.probe.direction = s.probe.direction ∧
    t.probe.polarity = s.probe.polarity ∧
    t.probe.drive = s.probe.drive ∧
    t.probe.source = s.probe.source ∧
    t.rail.channels = s.rail.channels ∧
    t.rail.measured = s.rail.measured ∧
    t.rail.tripMain = s.rail.tripMain ∧
    t.rail.tripStandby = s.rail.tripStandby ∧
    t.rail.overdrawCount = s.rail.overdrawCount ∧
    t.power.mainTrip = s.power.mainTrip ∧
    t.power.standbyTrip = s.power.standbyTrip ∧
    t.draw.table = s.draw.table ∧
    t.faults.notices = s.faults.notices ∧
    t.faults.noticeOverflow = s.faults.noticeOverflow ∧
    t.line.slot = s.line.slot ∧
    t.line.rate = s.line.rate ∧
    t.line.isSet = s.line.isSet ∧
    t.line.params = s.line.params ∧
    t.line.duplicate = s.line.duplicate ∧
    t.line.receivedBad = s.line.receivedBad ∧
    t.line.cutOwn = s.line.cutOwn ∧
    t.bench = s.bench ∧
    t.freeNext = s.freeNext ∧
    t.pending = s.pending := by
  unfold execHoldOffRelease at h
  repeat' split at h
  all_goals (cases h; try simp)

theorem execQualifierEdge_frame {s t : State} {testPoints : Levels} (h : execQualifierEdge testPoints s = .next t) :
    t.clock = s.clock ∧
    t.eng.postIndex = s.eng.postIndex ∧
    t.probe.direction = s.probe.direction ∧
    t.probe.polarity = s.probe.polarity ∧
    t.probe.drive = s.probe.drive ∧
    t.probe.source = s.probe.source ∧
    t.rail.channels = s.rail.channels ∧
    t.rail.measured = s.rail.measured ∧
    t.rail.tripMain = s.rail.tripMain ∧
    t.rail.tripStandby = s.rail.tripStandby ∧
    t.rail.overdrawCount = s.rail.overdrawCount ∧
    t.power.mainTrip = s.power.mainTrip ∧
    t.power.standbyTrip = s.power.standbyTrip ∧
    t.draw.table = s.draw.table ∧
    t.faults.notices = s.faults.notices ∧
    t.faults.noticeOverflow = s.faults.noticeOverflow ∧
    t.line.slot = s.line.slot ∧
    t.line.rate = s.line.rate ∧
    t.line.isSet = s.line.isSet ∧
    t.line.params = s.line.params ∧
    t.line.duplicate = s.line.duplicate ∧
    t.line.receivedBad = s.line.receivedBad ∧
    t.line.cutOwn = s.line.cutOwn ∧
    t.bench = s.bench ∧
    t.freeNext = s.freeNext ∧
    t.pending = s.pending := by
  unfold execQualifierEdge at h
  repeat' split at h
  all_goals (cases h; try simp)

theorem execStrobeTimerExpiry_frame {s t : State} {testPoints : Levels} (h : execStrobeTimerExpiry testPoints s = .next t) :
    t.clock = s.clock ∧
    t.eng.postIndex = s.eng.postIndex ∧
    t.probe.direction = s.probe.direction ∧
    t.probe.polarity = s.probe.polarity ∧
    t.probe.drive = s.probe.drive ∧
    t.probe.source = s.probe.source ∧
    t.check = s.check ∧
    t.rail.channels = s.rail.channels ∧
    t.rail.measured = s.rail.measured ∧
    t.rail.tripMain = s.rail.tripMain ∧
    t.rail.tripStandby = s.rail.tripStandby ∧
    t.rail.overdrawCount = s.rail.overdrawCount ∧
    t.power.mainTrip = s.power.mainTrip ∧
    t.power.standbyTrip = s.power.standbyTrip ∧
    t.draw.table = s.draw.table ∧
    t.faults.notices = s.faults.notices ∧
    t.faults.noticeOverflow = s.faults.noticeOverflow ∧
    t.line.slot = s.line.slot ∧
    t.line.rate = s.line.rate ∧
    t.line.isSet = s.line.isSet ∧
    t.line.params = s.line.params ∧
    t.line.duplicate = s.line.duplicate ∧
    t.line.receivedBad = s.line.receivedBad ∧
    t.line.cutOwn = s.line.cutOwn ∧
    t.bench = s.bench ∧
    t.freeNext = s.freeNext ∧
    t.pending = s.pending := by
  unfold execStrobeTimerExpiry at h
  repeat' split at h
  all_goals (cases h; try simp)

theorem execWaitExpiry_frame {s t : State}  (h : execWaitExpiry s = .next t) :
    t.clock = s.clock ∧
    t.eng.postIndex = s.eng.postIndex ∧
    t.probe = s.probe ∧
    t.check = s.check ∧
    t.rail.channels = s.rail.channels ∧
    t.rail.measured = s.rail.measured ∧
    t.rail.tripMain = s.rail.tripMain ∧
    t.rail.tripStandby = s.rail.tripStandby ∧
    t.rail.overdrawCount = s.rail.overdrawCount ∧
    t.rail.average = s.rail.average ∧
    t.power.mainTrip = s.power.mainTrip ∧
    t.power.standbyTrip = s.power.standbyTrip ∧
    t.draw.table = s.draw.table ∧
    t.faults = s.faults ∧
    t.line.slot = s.line.slot ∧
    t.line.rate = s.line.rate ∧
    t.line.isSet = s.line.isSet ∧
    t.line.params = s.line.params ∧
    t.line.duplicate = s.line.duplicate ∧
    t.line.receivedBad = s.line.receivedBad ∧
    t.line.cutOwn = s.line.cutOwn ∧
    t.bench = s.bench ∧
    t.freeNext = s.freeNext ∧
    t.pending = s.pending := by
  unfold execWaitExpiry at h
  repeat' split at h
  all_goals (cases h; try simp)

theorem execRecoverExpiry_frame {s t : State}  (h : execRecoverExpiry s = .next t) :
    t.clock = s.clock ∧
    t.eng.postIndex = s.eng.postIndex ∧
    t.probe.direction = s.probe.direction ∧
    t.probe.polarity = s.probe.polarity ∧
    t.probe.drive = s.probe.drive ∧
    t.probe.source = s.probe.source ∧
    t.probe.nextIndex = s.probe.nextIndex ∧
    t.probe.validCount = s.probe.validCount ∧
    t.check = s.check ∧
    t.rail.channels = s.rail.channels ∧
    t.rail.measured = s.rail.measured ∧
    t.rail.tripMain = s.rail.tripMain ∧
    t.rail.tripStandby = s.rail.tripStandby ∧
    t.rail.overdrawCount = s.rail.overdrawCount ∧
    t.draw.table = s.draw.table ∧
    t.faults = s.faults ∧
    t.line.slot = s.line.slot ∧
    t.line.rate = s.line.rate ∧
    t.line.isSet = s.line.isSet ∧
    t.line.params = s.line.params ∧
    t.line.duplicate = s.line.duplicate ∧
    t.line.receivedBad = s.line.receivedBad ∧
    t.line.cutOwn = s.line.cutOwn ∧
    t.bench = s.bench ∧
    t.freeNext = s.freeNext ∧
    t.pending = s.pending := by
  unfold execRecoverExpiry at h
  simp only [] at h
  repeat' split at h
  all_goals (cases h <;> first | simp [State.dispatchPower_frame ‹_›] | simp)

theorem execStepLanes_frame {s t : State}  (h : execStepLanes s = .next t) :
    t.clock = s.clock ∧
    t.eng.postIndex = s.eng.postIndex ∧
    t.probe.drive = s.probe.drive ∧
    t.probe.nextIndex = s.probe.nextIndex ∧
    t.probe.validCount = s.probe.validCount ∧
    t.probe.strobe = s.probe.strobe ∧
    t.check = s.check ∧
    t.rail.channels = s.rail.channels ∧
    t.rail.measured = s.rail.measured ∧
    t.rail.tripMain = s.rail.tripMain ∧
    t.rail.tripStandby = s.rail.tripStandby ∧
    t.rail.overdrawCount = s.rail.overdrawCount ∧
    t.rail.average = s.rail.average ∧
    t.power.mainTrip = s.power.mainTrip ∧
    t.power.standbyTrip = s.power.standbyTrip ∧
    t.draw.table = s.draw.table ∧
    t.faults = s.faults ∧
    t.line.slot = s.line.slot ∧
    t.line.rate = s.line.rate ∧
    t.line.isSet = s.line.isSet ∧
    t.line.params = s.line.params ∧
    t.line.duplicate = s.line.duplicate ∧
    t.line.receivedBad = s.line.receivedBad ∧
    t.line.cutOwn = s.line.cutOwn ∧
    t.bench = s.bench ∧
    t.freeNext = s.freeNext ∧
    t.pending = s.pending := by
  unfold execStepLanes at h
  repeat' split at h
  all_goals (cases h; try simp)

theorem execStepDrive_frame {s t : State}  (h : execStepDrive s = .next t) :
    t.clock = s.clock ∧
    t.eng.postIndex = s.eng.postIndex ∧
    t.probe.direction = s.probe.direction ∧
    t.probe.polarity = s.probe.polarity ∧
    t.probe.source = s.probe.source ∧
    t.probe.nextIndex = s.probe.nextIndex ∧
    t.probe.validCount = s.probe.validCount ∧
    t.probe.strobe = s.probe.strobe ∧
    t.check = s.check ∧
    t.rail.channels = s.rail.channels ∧
    t.rail.measured = s.rail.measured ∧
    t.rail.tripMain = s.rail.tripMain ∧
    t.rail.tripStandby = s.rail.tripStandby ∧
    t.rail.overdrawCount = s.rail.overdrawCount ∧
    t.rail.average = s.rail.average ∧
    t.power.mainTrip = s.power.mainTrip ∧
    t.power.standbyTrip = s.power.standbyTrip ∧
    t.draw.table = s.draw.table ∧
    t.faults = s.faults ∧
    t.line.slot = s.line.slot ∧
    t.line.rate = s.line.rate ∧
    t.line.isSet = s.line.isSet ∧
    t.line.params = s.line.params ∧
    t.line.duplicate = s.line.duplicate ∧
    t.line.receivedBad = s.line.receivedBad ∧
    t.line.cutOwn = s.line.cutOwn ∧
    t.bench = s.bench ∧
    t.freeNext = s.freeNext ∧
    t.pending = s.pending := by
  unfold execStepDrive at h
  repeat' split at h
  all_goals (cases h; try simp)

theorem execStepSample_frame {s t : State}  (h : execStepSample s = .next t) :
    t.clock = s.clock ∧
    t.mem = s.mem ∧
    t.port.waits = s.port.waits ∧
    t.eng.job = s.eng.job ∧
    t.eng.fetchIndex = s.eng.fetchIndex ∧
    t.eng.postIndex = s.eng.postIndex ∧
    t.eng.loops = s.eng.loops ∧
    t.eng.copy = s.eng.copy ∧
    t.eng.attempt = s.eng.attempt ∧
    t.eng.judged = s.eng.judged ∧
    t.eng.latch = s.eng.latch ∧
    t.eng.haltReason = s.eng.haltReason ∧
    t.eng.haltIndex = s.eng.haltIndex ∧
    t.probe.direction = s.probe.direction ∧
    t.probe.polarity = s.probe.polarity ∧
    t.probe.drive = s.probe.drive ∧
    t.probe.source = s.probe.source ∧
    t.probe.nextIndex = s.probe.nextIndex ∧
    t.probe.validCount = s.probe.validCount ∧
    t.check = s.check ∧
    t.rail = s.rail ∧
    t.power = s.power ∧
    t.draw = s.draw ∧
    t.faults = s.faults ∧
    t.line = s.line ∧
    t.bench = s.bench ∧
    t.freeNext = s.freeNext ∧
    t.pending = s.pending := by
  unfold execStepSample at h
  repeat' split at h
  all_goals (cases h; try simp)

theorem execStepField_frame {s t : State}  (h : execStepField s = .next t) :
    t.clock = s.clock ∧
    t.eng.postIndex = s.eng.postIndex ∧
    t.probe = s.probe ∧
    t.rail.channels = s.rail.channels ∧
    t.rail.measured = s.rail.measured ∧
    t.rail.tripMain = s.rail.tripMain ∧
    t.rail.tripStandby = s.rail.tripStandby ∧
    t.rail.overdrawCount = s.rail.overdrawCount ∧
    t.rail.average = s.rail.average ∧
    t.power.mainTrip = s.power.mainTrip ∧
    t.power.standbyTrip = s.power.standbyTrip ∧
    t.draw.table = s.draw.table ∧
    t.faults = s.faults ∧
    t.line.slot = s.line.slot ∧
    t.line.rate = s.line.rate ∧
    t.line.isSet = s.line.isSet ∧
    t.line.params = s.line.params ∧
    t.line.duplicate = s.line.duplicate ∧
    t.line.receivedBad = s.line.receivedBad ∧
    t.line.cutOwn = s.line.cutOwn ∧
    t.bench = s.bench ∧
    t.freeNext = s.freeNext ∧
    t.pending = s.pending := by
  unfold execStepField at h
  repeat' split at h
  all_goals (cases h; try simp)

theorem execStepLimits_frame {s t : State}  (h : execStepLimits s = .next t) :
    t.clock = s.clock ∧
    t.eng.postIndex = s.eng.postIndex ∧
    t.probe = s.probe ∧
    t.rail.channels = s.rail.channels ∧
    t.rail.measured = s.rail.measured ∧
    t.rail.tripMain = s.rail.tripMain ∧
    t.rail.tripStandby = s.rail.tripStandby ∧
    t.rail.overdrawCount = s.rail.overdrawCount ∧
    t.rail.average = s.rail.average ∧
    t.power.mainTrip = s.power.mainTrip ∧
    t.power.standbyTrip = s.power.standbyTrip ∧
    t.draw.table = s.draw.table ∧
    t.faults = s.faults ∧
    t.line.slot = s.line.slot ∧
    t.line.rate = s.line.rate ∧
    t.line.isSet = s.line.isSet ∧
    t.line.params = s.line.params ∧
    t.line.duplicate = s.line.duplicate ∧
    t.line.receivedBad = s.line.receivedBad ∧
    t.line.cutOwn = s.line.cutOwn ∧
    t.bench = s.bench ∧
    t.freeNext = s.freeNext ∧
    t.pending = s.pending := by
  unfold execStepLimits at h
  repeat' split at h
  all_goals (cases h; try simp)

theorem execStepRailcheck_frame {s t : State}  (h : execStepRailcheck s = .next t) :
    t.clock = s.clock ∧
    t.mem = s.mem ∧
    t.port.waits = s.port.waits ∧
    t.eng.job = s.eng.job ∧
    t.eng.fetchIndex = s.eng.fetchIndex ∧
    t.eng.postIndex = s.eng.postIndex ∧
    t.eng.loops = s.eng.loops ∧
    t.eng.copy = s.eng.copy ∧
    t.eng.attempt = s.eng.attempt ∧
    t.eng.judged = s.eng.judged ∧
    t.eng.latch = s.eng.latch ∧
    t.eng.haltReason = s.eng.haltReason ∧
    t.eng.haltIndex = s.eng.haltIndex ∧
    t.probe = s.probe ∧
    t.check = s.check ∧
    t.rail.channels = s.rail.channels ∧
    t.rail.measured = s.rail.measured ∧
    t.rail.tripMain = s.rail.tripMain ∧
    t.rail.tripStandby = s.rail.tripStandby ∧
    t.rail.overdrawCount = s.rail.overdrawCount ∧
    t.rail.zeroCapture = s.rail.zeroCapture ∧
    t.power = s.power ∧
    t.draw = s.draw ∧
    t.faults = s.faults ∧
    t.line = s.line ∧
    t.bench = s.bench ∧
    t.freeNext = s.freeNext ∧
    t.pending = s.pending := by
  unfold execStepRailcheck at h
  repeat' split at h
  all_goals (cases h; try simp)

theorem execStepGuard_frame {s t : State}  (h : execStepGuard s = .next t) :
    t.clock = s.clock ∧
    t.eng.postIndex = s.eng.postIndex ∧
    t.probe = s.probe ∧
    t.check = s.check ∧
    t.rail.measured = s.rail.measured ∧
    t.rail.tripMain = s.rail.tripMain ∧
    t.rail.tripStandby = s.rail.tripStandby ∧
    t.rail.overdrawCount = s.rail.overdrawCount ∧
    t.rail.average = s.rail.average ∧
    t.power.mainTrip = s.power.mainTrip ∧
    t.power.standbyTrip = s.power.standbyTrip ∧
    t.draw.table = s.draw.table ∧
    t.faults = s.faults ∧
    t.line.slot = s.line.slot ∧
    t.line.rate = s.line.rate ∧
    t.line.isSet = s.line.isSet ∧
    t.line.params = s.line.params ∧
    t.line.duplicate = s.line.duplicate ∧
    t.line.receivedBad = s.line.receivedBad ∧
    t.line.cutOwn = s.line.cutOwn ∧
    t.bench = s.bench ∧
    t.freeNext = s.freeNext ∧
    t.pending = s.pending := by
  unfold execStepGuard at h
  repeat' split at h
  all_goals (cases h; try simp)

theorem execStepScale_frame {s t : State}  (h : execStepScale s = .next t) :
    t.clock = s.clock ∧
    t.eng.postIndex = s.eng.postIndex ∧
    t.probe = s.probe ∧
    t.check = s.check ∧
    t.rail.measured = s.rail.measured ∧
    t.rail.tripMain = s.rail.tripMain ∧
    t.rail.tripStandby = s.rail.tripStandby ∧
    t.rail.overdrawCount = s.rail.overdrawCount ∧
    t.rail.average = s.rail.average ∧
    t.power.mainTrip = s.power.mainTrip ∧
    t.power.standbyTrip = s.power.standbyTrip ∧
    t.draw.table = s.draw.table ∧
    t.faults = s.faults ∧
    t.line.slot = s.line.slot ∧
    t.line.rate = s.line.rate ∧
    t.line.isSet = s.line.isSet ∧
    t.line.params = s.line.params ∧
    t.line.duplicate = s.line.duplicate ∧
    t.line.receivedBad = s.line.receivedBad ∧
    t.line.cutOwn = s.line.cutOwn ∧
    t.bench = s.bench ∧
    t.freeNext = s.freeNext ∧
    t.pending = s.pending := by
  unfold execStepScale at h
  repeat' split at h
  all_goals (cases h; try simp)

theorem execStepPower_frame {s t : State}  (h : execStepPower s = .next t) :
    t.clock = s.clock ∧
    t.eng.postIndex = s.eng.postIndex ∧
    t.probe.direction = s.probe.direction ∧
    t.probe.polarity = s.probe.polarity ∧
    t.probe.drive = s.probe.drive ∧
    t.probe.source = s.probe.source ∧
    t.probe.nextIndex = s.probe.nextIndex ∧
    t.probe.validCount = s.probe.validCount ∧
    t.check = s.check ∧
    t.rail.channels = s.rail.channels ∧
    t.rail.measured = s.rail.measured ∧
    t.rail.tripMain = s.rail.tripMain ∧
    t.rail.tripStandby = s.rail.tripStandby ∧
    t.rail.overdrawCount = s.rail.overdrawCount ∧
    t.draw.table = s.draw.table ∧
    t.faults = s.faults ∧
    t.line.slot = s.line.slot ∧
    t.line.rate = s.line.rate ∧
    t.line.isSet = s.line.isSet ∧
    t.line.params = s.line.params ∧
    t.line.duplicate = s.line.duplicate ∧
    t.line.receivedBad = s.line.receivedBad ∧
    t.line.cutOwn = s.line.cutOwn ∧
    t.bench = s.bench ∧
    t.freeNext = s.freeNext ∧
    t.pending = s.pending := by
  unfold execStepPower at h
  repeat' split at h
  all_goals (cases h <;> first | simp [State.dispatchPower_frame ‹_›] | simp)

theorem execStepWait_frame {s t : State}  (h : execStepWait s = .next t) :
    t.clock = s.clock ∧
    t.eng.postIndex = s.eng.postIndex ∧
    t.probe = s.probe ∧
    t.check = s.check ∧
    t.rail.channels = s.rail.channels ∧
    t.rail.measured = s.rail.measured ∧
    t.rail.tripMain = s.rail.tripMain ∧
    t.rail.tripStandby = s.rail.tripStandby ∧
    t.rail.overdrawCount = s.rail.overdrawCount ∧
    t.rail.average = s.rail.average ∧
    t.power.mainTrip = s.power.mainTrip ∧
    t.power.standbyTrip = s.power.standbyTrip ∧
    t.draw.table = s.draw.table ∧
    t.faults = s.faults ∧
    t.line.slot = s.line.slot ∧
    t.line.rate = s.line.rate ∧
    t.line.isSet = s.line.isSet ∧
    t.line.params = s.line.params ∧
    t.line.duplicate = s.line.duplicate ∧
    t.line.receivedBad = s.line.receivedBad ∧
    t.line.cutOwn = s.line.cutOwn ∧
    t.bench = s.bench ∧
    t.freeNext = s.freeNext ∧
    t.pending = s.pending := by
  unfold execStepWait at h
  repeat' split at h
  all_goals (cases h; try simp)

theorem execStepRepeat_frame {s t : State}  (h : execStepRepeat s = .next t) :
    t.clock = s.clock ∧
    t.eng.postIndex = s.eng.postIndex ∧
    t.probe = s.probe ∧
    t.check = s.check ∧
    t.rail.channels = s.rail.channels ∧
    t.rail.measured = s.rail.measured ∧
    t.rail.tripMain = s.rail.tripMain ∧
    t.rail.tripStandby = s.rail.tripStandby ∧
    t.rail.overdrawCount = s.rail.overdrawCount ∧
    t.rail.average = s.rail.average ∧
    t.power.mainTrip = s.power.mainTrip ∧
    t.power.standbyTrip = s.power.standbyTrip ∧
    t.draw.table = s.draw.table ∧
    t.faults = s.faults ∧
    t.line.slot = s.line.slot ∧
    t.line.rate = s.line.rate ∧
    t.line.isSet = s.line.isSet ∧
    t.line.params = s.line.params ∧
    t.line.duplicate = s.line.duplicate ∧
    t.line.receivedBad = s.line.receivedBad ∧
    t.line.cutOwn = s.line.cutOwn ∧
    t.bench = s.bench ∧
    t.freeNext = s.freeNext ∧
    t.pending = s.pending := by
  unfold execStepRepeat at h
  repeat' split at h
  all_goals (cases h; try simp)

theorem execStepMark_frame {s t : State}  (h : execStepMark s = .next t) :
    t.clock = s.clock ∧
    t.eng.postIndex = s.eng.postIndex ∧
    t.probe = s.probe ∧
    t.check = s.check ∧
    t.rail.channels = s.rail.channels ∧
    t.rail.measured = s.rail.measured ∧
    t.rail.tripMain = s.rail.tripMain ∧
    t.rail.tripStandby = s.rail.tripStandby ∧
    t.rail.overdrawCount = s.rail.overdrawCount ∧
    t.rail.average = s.rail.average ∧
    t.power.mainTrip = s.power.mainTrip ∧
    t.power.standbyTrip = s.power.standbyTrip ∧
    t.draw.table = s.draw.table ∧
    t.faults = s.faults ∧
    t.line.slot = s.line.slot ∧
    t.line.rate = s.line.rate ∧
    t.line.isSet = s.line.isSet ∧
    t.line.params = s.line.params ∧
    t.line.duplicate = s.line.duplicate ∧
    t.line.receivedBad = s.line.receivedBad ∧
    t.line.cutOwn = s.line.cutOwn ∧
    t.bench = s.bench ∧
    t.freeNext = s.freeNext ∧
    t.pending = s.pending := by
  unfold execStepMark at h
  repeat' split at h
  all_goals (cases h; try simp)

theorem execStepStop_frame {s t : State}  (h : execStepStop s = .next t) :
    t.clock = s.clock ∧
    t.eng.postIndex = s.eng.postIndex ∧
    t.probe = s.probe ∧
    t.check = s.check ∧
    t.rail.channels = s.rail.channels ∧
    t.rail.measured = s.rail.measured ∧
    t.rail.tripMain = s.rail.tripMain ∧
    t.rail.tripStandby = s.rail.tripStandby ∧
    t.rail.overdrawCount = s.rail.overdrawCount ∧
    t.rail.average = s.rail.average ∧
    t.power.mainTrip = s.power.mainTrip ∧
    t.power.standbyTrip = s.power.standbyTrip ∧
    t.draw.table = s.draw.table ∧
    t.faults = s.faults ∧
    t.line.slot = s.line.slot ∧
    t.line.rate = s.line.rate ∧
    t.line.isSet = s.line.isSet ∧
    t.line.params = s.line.params ∧
    t.line.duplicate = s.line.duplicate ∧
    t.line.receivedBad = s.line.receivedBad ∧
    t.line.cutOwn = s.line.cutOwn ∧
    t.bench = s.bench ∧
    t.freeNext = s.freeNext ∧
    t.pending = s.pending := by
  unfold execStepStop at h
  repeat' split at h
  all_goals (cases h; try simp)

theorem execUnknownStepKind_frame {s t : State}  (h : execUnknownStepKind s = .next t) :
    t.clock = s.clock ∧
    t.eng.fetchIndex = s.eng.fetchIndex ∧
    t.eng.postIndex = s.eng.postIndex ∧
    t.eng.loops = s.eng.loops ∧
    t.probe = s.probe ∧
    t.check = s.check ∧
    t.rail = s.rail ∧
    t.power = s.power ∧
    t.draw = s.draw ∧
    t.faults = s.faults ∧
    t.line.slot = s.line.slot ∧
    t.line.rate = s.line.rate ∧
    t.line.isSet = s.line.isSet ∧
    t.line.params = s.line.params ∧
    t.line.duplicate = s.line.duplicate ∧
    t.line.receivedBad = s.line.receivedBad ∧
    t.line.cutOwn = s.line.cutOwn ∧
    t.bench = s.bench ∧
    t.freeNext = s.freeNext ∧
    t.pending = s.pending := by
  unfold execUnknownStepKind at h
  repeat' split at h
  all_goals (cases h; try simp)

theorem execCoincidenceJudgement_frame {s t : State}  (h : execCoincidenceJudgement s = .next t) :
    t.clock = s.clock ∧
    t.eng.postIndex = s.eng.postIndex ∧
    t.probe.direction = s.probe.direction ∧
    t.probe.polarity = s.probe.polarity ∧
    t.probe.drive = s.probe.drive ∧
    t.probe.source = s.probe.source ∧
    t.probe.nextIndex = s.probe.nextIndex ∧
    t.probe.validCount = s.probe.validCount ∧
    t.check = s.check ∧
    t.rail.channels = s.rail.channels ∧
    t.rail.measured = s.rail.measured ∧
    t.rail.tripMain = s.rail.tripMain ∧
    t.rail.tripStandby = s.rail.tripStandby ∧
    t.rail.overdrawCount = s.rail.overdrawCount ∧
    t.power.mainTrip = s.power.mainTrip ∧
    t.power.standbyTrip = s.power.standbyTrip ∧
    t.draw.table = s.draw.table ∧
    t.faults.nextSequence = s.faults.nextSequence ∧
    t.faults.discarded = s.faults.discarded ∧
    t.faults.notices = s.faults.notices ∧
    t.faults.noticeOverflow = s.faults.noticeOverflow ∧
    t.line.slot = s.line.slot ∧
    t.line.rate = s.line.rate ∧
    t.line.isSet = s.line.isSet ∧
    t.line.params = s.line.params ∧
    t.line.duplicate = s.line.duplicate ∧
    t.line.receivedBad = s.line.receivedBad ∧
    t.line.cutOwn = s.line.cutOwn ∧
    t.bench = s.bench ∧
    t.freeNext = s.freeNext ∧
    t.pending = s.pending := by
  unfold execCoincidenceJudgement at h
  simp only [] at h
  repeat' split at h
  all_goals (cases h; try simp)

theorem execFrameFail_frame {s t : State} {source dest : BitVec 5} {payload : List Byte} (h : execFrameFail source dest payload s = .next t) :
    t.clock = s.clock ∧
    t.eng.fetchIndex = s.eng.fetchIndex ∧
    t.eng.postIndex = s.eng.postIndex ∧
    t.eng.loops = s.eng.loops ∧
    t.probe.direction = s.probe.direction ∧
    t.probe.polarity = s.probe.polarity ∧
    t.probe.drive = s.probe.drive ∧
    t.probe.source = s.probe.source ∧
    t.probe.nextIndex = s.probe.nextIndex ∧
    t.probe.validCount = s.probe.validCount ∧
    t.check = s.check ∧
    t.rail.channels = s.rail.channels ∧
    t.rail.measured = s.rail.measured ∧
    t.rail.tripMain = s.rail.tripMain ∧
    t.rail.tripStandby = s.rail.tripStandby ∧
    t.rail.overdrawCount = s.rail.overdrawCount ∧
    t.rail.zeroCapture = s.rail.zeroCapture ∧
    t.power.standby = s.power.standby ∧
    t.power.main = s.power.main ∧
    t.power.mainTrip = s.power.mainTrip ∧
    t.power.standbyTrip = s.power.standbyTrip ∧
    t.power.declared = s.power.declared ∧
    t.power.rampTimer = s.power.rampTimer ∧
    t.draw.held = s.draw.held ∧
    t.faults.queue = s.faults.queue ∧
    t.faults.nextSequence = s.faults.nextSequence ∧
    t.faults.discarded = s.faults.discarded ∧
    t.line.slot = s.line.slot ∧
    t.line.rate = s.line.rate ∧
    t.freeNext = s.freeNext ∧
    t.pending = s.pending := by
  cases h; simp

theorem execFrameClaim_frame {s t : State} {source dest : BitVec 5} {payload : List Byte} (h : execFrameClaim source dest payload s = .next t) :
    t.clock = s.clock ∧
    t.eng.fetchIndex = s.eng.fetchIndex ∧
    t.eng.postIndex = s.eng.postIndex ∧
    t.eng.loops = s.eng.loops ∧
    t.probe.direction = s.probe.direction ∧
    t.probe.polarity = s.probe.polarity ∧
    t.probe.drive = s.probe.drive ∧
    t.probe.source = s.probe.source ∧
    t.probe.nextIndex = s.probe.nextIndex ∧
    t.probe.validCount = s.probe.validCount ∧
    t.check = s.check ∧
    t.rail.channels = s.rail.channels ∧
    t.rail.measured = s.rail.measured ∧
    t.rail.tripMain = s.rail.tripMain ∧
    t.rail.tripStandby = s.rail.tripStandby ∧
    t.rail.overdrawCount = s.rail.overdrawCount ∧
    t.rail.zeroCapture = s.rail.zeroCapture ∧
    t.power.standby = s.power.standby ∧
    t.power.main = s.power.main ∧
    t.power.mainTrip = s.power.mainTrip ∧
    t.power.standbyTrip = s.power.standbyTrip ∧
    t.power.declared = s.power.declared ∧
    t.power.rampTimer = s.power.rampTimer ∧
    t.draw.held = s.draw.held ∧
    t.faults.queue = s.faults.queue ∧
    t.faults.nextSequence = s.faults.nextSequence ∧
    t.faults.discarded = s.faults.discarded ∧
    t.line.slot = s.line.slot ∧
    t.line.rate = s.line.rate ∧
    t.freeNext = s.freeNext ∧
    t.pending = s.pending := by
  cases h; simp

theorem execFrameDraw_frame {s t : State} {source dest : BitVec 5} {payload : List Byte} (h : execFrameDraw source dest payload s = .next t) :
    t.clock = s.clock ∧
    t.eng.fetchIndex = s.eng.fetchIndex ∧
    t.eng.postIndex = s.eng.postIndex ∧
    t.eng.loops = s.eng.loops ∧
    t.probe.direction = s.probe.direction ∧
    t.probe.polarity = s.probe.polarity ∧
    t.probe.drive = s.probe.drive ∧
    t.probe.source = s.probe.source ∧
    t.probe.nextIndex = s.probe.nextIndex ∧
    t.probe.validCount = s.probe.validCount ∧
    t.check = s.check ∧
    t.rail.channels = s.rail.channels ∧
    t.rail.measured = s.rail.measured ∧
    t.rail.tripMain = s.rail.tripMain ∧
    t.rail.tripStandby = s.rail.tripStandby ∧
    t.rail.overdrawCount = s.rail.overdrawCount ∧
    t.rail.zeroCapture = s.rail.zeroCapture ∧
    t.power.standby = s.power.standby ∧
    t.power.main = s.power.main ∧
    t.power.mainTrip = s.power.mainTrip ∧
    t.power.standbyTrip = s.power.standbyTrip ∧
    t.power.declared = s.power.declared ∧
    t.power.rampTimer = s.power.rampTimer ∧
    t.draw.held = s.draw.held ∧
    t.faults.queue = s.faults.queue ∧
    t.faults.nextSequence = s.faults.nextSequence ∧
    t.faults.discarded = s.faults.discarded ∧
    t.line.slot = s.line.slot ∧
    t.line.rate = s.line.rate ∧
    t.freeNext = s.freeNext ∧
    t.pending = s.pending := by
  cases h; simp

theorem execFrameJoin_frame {s t : State} {source dest : BitVec 5} {payload : List Byte} (h : execFrameJoin source dest payload s = .next t) :
    t.clock = s.clock ∧
    t.eng.fetchIndex = s.eng.fetchIndex ∧
    t.eng.postIndex = s.eng.postIndex ∧
    t.eng.loops = s.eng.loops ∧
    t.probe.direction = s.probe.direction ∧
    t.probe.polarity = s.probe.polarity ∧
    t.probe.drive = s.probe.drive ∧
    t.probe.source = s.probe.source ∧
    t.probe.nextIndex = s.probe.nextIndex ∧
    t.probe.validCount = s.probe.validCount ∧
    t.check = s.check ∧
    t.rail.channels = s.rail.channels ∧
    t.rail.measured = s.rail.measured ∧
    t.rail.tripMain = s.rail.tripMain ∧
    t.rail.tripStandby = s.rail.tripStandby ∧
    t.rail.overdrawCount = s.rail.overdrawCount ∧
    t.rail.zeroCapture = s.rail.zeroCapture ∧
    t.power.standby = s.power.standby ∧
    t.power.main = s.power.main ∧
    t.power.mainTrip = s.power.mainTrip ∧
    t.power.standbyTrip = s.power.standbyTrip ∧
    t.power.declared = s.power.declared ∧
    t.power.rampTimer = s.power.rampTimer ∧
    t.draw.held = s.draw.held ∧
    t.faults.queue = s.faults.queue ∧
    t.faults.nextSequence = s.faults.nextSequence ∧
    t.faults.discarded = s.faults.discarded ∧
    t.line.slot = s.line.slot ∧
    t.line.rate = s.line.rate ∧
    t.freeNext = s.freeNext ∧
    t.pending = s.pending := by
  cases h; simp

theorem execFrameSetup_frame {s t : State} {source dest : BitVec 5} {payload : List Byte} (h : execFrameSetup source dest payload s = .next t) :
    t.clock = s.clock ∧
    t.eng.fetchIndex = s.eng.fetchIndex ∧
    t.eng.postIndex = s.eng.postIndex ∧
    t.eng.loops = s.eng.loops ∧
    t.probe.direction = s.probe.direction ∧
    t.probe.polarity = s.probe.polarity ∧
    t.probe.drive = s.probe.drive ∧
    t.probe.source = s.probe.source ∧
    t.probe.nextIndex = s.probe.nextIndex ∧
    t.probe.validCount = s.probe.validCount ∧
    t.check = s.check ∧
    t.rail.channels = s.rail.channels ∧
    t.rail.measured = s.rail.measured ∧
    t.rail.tripMain = s.rail.tripMain ∧
    t.rail.tripStandby = s.rail.tripStandby ∧
    t.rail.overdrawCount = s.rail.overdrawCount ∧
    t.rail.zeroCapture = s.rail.zeroCapture ∧
    t.power.standby = s.power.standby ∧
    t.power.main = s.power.main ∧
    t.power.mainTrip = s.power.mainTrip ∧
    t.power.standbyTrip = s.power.standbyTrip ∧
    t.power.declared = s.power.declared ∧
    t.power.rampTimer = s.power.rampTimer ∧
    t.draw.held = s.draw.held ∧
    t.faults.queue = s.faults.queue ∧
    t.faults.nextSequence = s.faults.nextSequence ∧
    t.faults.discarded = s.faults.discarded ∧
    t.line.slot = s.line.slot ∧
    t.line.rate = s.line.rate ∧
    t.freeNext = s.freeNext ∧
    t.pending = s.pending := by
  cases h; simp

theorem execOwnClaimTaken_frame {s t : State}  (h : execOwnClaimTaken s = .next t) :
    t.clock = s.clock ∧
    t.eng.fetchIndex = s.eng.fetchIndex ∧
    t.eng.postIndex = s.eng.postIndex ∧
    t.eng.loops = s.eng.loops ∧
    t.probe.direction = s.probe.direction ∧
    t.probe.polarity = s.probe.polarity ∧
    t.probe.drive = s.probe.drive ∧
    t.probe.source = s.probe.source ∧
    t.probe.nextIndex = s.probe.nextIndex ∧
    t.probe.validCount = s.probe.validCount ∧
    t.check = s.check ∧
    t.rail.channels = s.rail.channels ∧
    t.rail.measured = s.rail.measured ∧
    t.rail.tripMain = s.rail.tripMain ∧
    t.rail.tripStandby = s.rail.tripStandby ∧
    t.rail.overdrawCount = s.rail.overdrawCount ∧
    t.rail.zeroCapture = s.rail.zeroCapture ∧
    t.power.standby = s.power.standby ∧
    t.power.main = s.power.main ∧
    t.power.mainTrip = s.power.mainTrip ∧
    t.power.standbyTrip = s.power.standbyTrip ∧
    t.power.declared = s.power.declared ∧
    t.power.rampTimer = s.power.rampTimer ∧
    t.draw.table = s.draw.table ∧
    t.draw.held = s.draw.held ∧
    t.faults = s.faults ∧
    t.line.slot = s.line.slot ∧
    t.line.rate = s.line.rate ∧
    t.line.isSet = s.line.isSet ∧
    t.line.params = s.line.params ∧
    t.line.duplicate = s.line.duplicate ∧
    t.line.receivedBad = s.line.receivedBad ∧
    t.line.cutOwn = s.line.cutOwn ∧
    t.bench = s.bench ∧
    t.freeNext = s.freeNext ∧
    t.pending = s.pending := by
  unfold execOwnClaimTaken at h
  repeat' split at h
  all_goals (cases h; try simp)

theorem execDuplicateSlotFrame_frame {s t : State} {frame : Frame} (h : execDuplicateSlotFrame frame s = .next t) :
    t.clock = s.clock ∧
    t.eng.fetchIndex = s.eng.fetchIndex ∧
    t.eng.postIndex = s.eng.postIndex ∧
    t.eng.loops = s.eng.loops ∧
    t.probe.direction = s.probe.direction ∧
    t.probe.polarity = s.probe.polarity ∧
    t.probe.drive = s.probe.drive ∧
    t.probe.source = s.probe.source ∧
    t.probe.nextIndex = s.probe.nextIndex ∧
    t.probe.validCount = s.probe.validCount ∧
    t.check = s.check ∧
    t.rail.channels = s.rail.channels ∧
    t.rail.measured = s.rail.measured ∧
    t.rail.tripMain = s.rail.tripMain ∧
    t.rail.tripStandby = s.rail.tripStandby ∧
    t.rail.overdrawCount = s.rail.overdrawCount ∧
    t.rail.zeroCapture = s.rail.zeroCapture ∧
    t.power.standby = s.power.standby ∧
    t.power.main = s.power.main ∧
    t.power.mainTrip = s.power.mainTrip ∧
    t.power.standbyTrip = s.power.standbyTrip ∧
    t.power.declared = s.power.declared ∧
    t.power.rampTimer = s.power.rampTimer ∧
    t.draw.held = s.draw.held ∧
    t.faults.queue = s.faults.queue ∧
    t.faults.nextSequence = s.faults.nextSequence ∧
    t.faults.discarded = s.faults.discarded ∧
    t.line.slot = s.line.slot ∧
    t.line.rate = s.line.rate ∧
    t.freeNext = s.freeNext ∧
    t.pending = s.pending := by
  cases h; simp

theorem execFrameReceivedBad_frame {s t : State} {frame : Frame} {framing : Framing}
    (h : execFrameReceivedBad frame framing s = .next t) :
    t.clock = s.clock ∧
    t.eng.fetchIndex = s.eng.fetchIndex ∧
    t.eng.postIndex = s.eng.postIndex ∧
    t.eng.loops = s.eng.loops ∧
    t.probe.direction = s.probe.direction ∧
    t.probe.polarity = s.probe.polarity ∧
    t.probe.drive = s.probe.drive ∧
    t.probe.source = s.probe.source ∧
    t.probe.nextIndex = s.probe.nextIndex ∧
    t.probe.validCount = s.probe.validCount ∧
    t.check = s.check ∧
    t.rail.channels = s.rail.channels ∧
    t.rail.measured = s.rail.measured ∧
    t.rail.tripMain = s.rail.tripMain ∧
    t.rail.tripStandby = s.rail.tripStandby ∧
    t.rail.overdrawCount = s.rail.overdrawCount ∧
    t.rail.zeroCapture = s.rail.zeroCapture ∧
    t.power.standby = s.power.standby ∧
    t.power.main = s.power.main ∧
    t.power.mainTrip = s.power.mainTrip ∧
    t.power.standbyTrip = s.power.standbyTrip ∧
    t.power.declared = s.power.declared ∧
    t.power.rampTimer = s.power.rampTimer ∧
    t.draw.held = s.draw.held ∧
    t.faults.queue = s.faults.queue ∧
    t.faults.nextSequence = s.faults.nextSequence ∧
    t.faults.discarded = s.faults.discarded ∧
    t.line.slot = s.line.slot ∧
    t.line.rate = s.line.rate ∧
    t.freeNext = s.freeNext ∧
    t.pending = s.pending := by
  unfold execFrameReceivedBad at h
  repeat' split at h
  all_goals (cases h; try simp [State.frameEnded])

theorem execFramePassedOver_frame {s t : State} {frame : Frame} (h : execFramePassedOver frame s = .next t) :
    t.clock = s.clock ∧
    t.eng.fetchIndex = s.eng.fetchIndex ∧
    t.eng.postIndex = s.eng.postIndex ∧
    t.eng.loops = s.eng.loops ∧
    t.probe.direction = s.probe.direction ∧
    t.probe.polarity = s.probe.polarity ∧
    t.probe.drive = s.probe.drive ∧
    t.probe.source = s.probe.source ∧
    t.probe.nextIndex = s.probe.nextIndex ∧
    t.probe.validCount = s.probe.validCount ∧
    t.check = s.check ∧
    t.rail.channels = s.rail.channels ∧
    t.rail.measured = s.rail.measured ∧
    t.rail.tripMain = s.rail.tripMain ∧
    t.rail.tripStandby = s.rail.tripStandby ∧
    t.rail.overdrawCount = s.rail.overdrawCount ∧
    t.rail.zeroCapture = s.rail.zeroCapture ∧
    t.power.standby = s.power.standby ∧
    t.power.main = s.power.main ∧
    t.power.mainTrip = s.power.mainTrip ∧
    t.power.standbyTrip = s.power.standbyTrip ∧
    t.power.declared = s.power.declared ∧
    t.power.rampTimer = s.power.rampTimer ∧
    t.draw.held = s.draw.held ∧
    t.faults.queue = s.faults.queue ∧
    t.faults.nextSequence = s.faults.nextSequence ∧
    t.faults.discarded = s.faults.discarded ∧
    t.line.slot = s.line.slot ∧
    t.line.rate = s.line.rate ∧
    t.freeNext = s.freeNext ∧
    t.pending = s.pending := by
  cases h; simp

theorem execPendingExpiry_frame {s t : State} {slot : Fin 30} (h : execPendingExpiry slot s = .next t) :
    t.clock = s.clock ∧
    t.mem = s.mem ∧
    t.port = s.port ∧
    t.eng = s.eng ∧
    t.probe = s.probe ∧
    t.check = s.check ∧
    t.rail = s.rail ∧
    t.power = s.power ∧
    t.draw.held = s.draw.held ∧
    t.draw.claimState = s.draw.claimState ∧
    t.draw.claim = s.draw.claim ∧
    t.draw.mark = s.draw.mark ∧
    t.draw.windowTimer = s.draw.windowTimer ∧
    t.draw.backoffTimer = s.draw.backoffTimer ∧
    t.faults = s.faults ∧
    t.line = s.line ∧
    t.bench = s.bench ∧
    t.freeNext = s.freeNext ∧
    t.pending = s.pending := by
  unfold execPendingExpiry at h
  repeat' split at h
  all_goals (cases h; try simp)

theorem execClaimJudgement_frame {s t : State}  (h : execClaimJudgement s = .next t) :
    t.clock = s.clock ∧
    t.eng.postIndex = s.eng.postIndex ∧
    t.probe.direction = s.probe.direction ∧
    t.probe.polarity = s.probe.polarity ∧
    t.probe.drive = s.probe.drive ∧
    t.probe.source = s.probe.source ∧
    t.probe.nextIndex = s.probe.nextIndex ∧
    t.probe.validCount = s.probe.validCount ∧
    t.check = s.check ∧
    t.rail.channels = s.rail.channels ∧
    t.rail.measured = s.rail.measured ∧
    t.rail.tripMain = s.rail.tripMain ∧
    t.rail.tripStandby = s.rail.tripStandby ∧
    t.rail.overdrawCount = s.rail.overdrawCount ∧
    t.power.mainTrip = s.power.mainTrip ∧
    t.power.standbyTrip = s.power.standbyTrip ∧
    t.draw.table = s.draw.table ∧
    t.faults = s.faults ∧
    t.line.slot = s.line.slot ∧
    t.line.rate = s.line.rate ∧
    t.line.isSet = s.line.isSet ∧
    t.line.params = s.line.params ∧
    t.line.duplicate = s.line.duplicate ∧
    t.line.receivedBad = s.line.receivedBad ∧
    t.line.cutOwn = s.line.cutOwn ∧
    t.bench = s.bench ∧
    t.freeNext = s.freeNext ∧
    t.pending = s.pending := by
  unfold execClaimJudgement at h
  repeat' split at h
  all_goals (cases h; try simp)

theorem execBackoffExpiry_frame {s t : State}  (h : execBackoffExpiry s = .next t) :
    t.clock = s.clock ∧
    t.eng.fetchIndex = s.eng.fetchIndex ∧
    t.eng.postIndex = s.eng.postIndex ∧
    t.eng.loops = s.eng.loops ∧
    t.probe.direction = s.probe.direction ∧
    t.probe.polarity = s.probe.polarity ∧
    t.probe.drive = s.probe.drive ∧
    t.probe.source = s.probe.source ∧
    t.probe.nextIndex = s.probe.nextIndex ∧
    t.probe.validCount = s.probe.validCount ∧
    t.check = s.check ∧
    t.rail.channels = s.rail.channels ∧
    t.rail.measured = s.rail.measured ∧
    t.rail.tripMain = s.rail.tripMain ∧
    t.rail.tripStandby = s.rail.tripStandby ∧
    t.rail.overdrawCount = s.rail.overdrawCount ∧
    t.rail.zeroCapture = s.rail.zeroCapture ∧
    t.power.standby = s.power.standby ∧
    t.power.main = s.power.main ∧
    t.power.mainTrip = s.power.mainTrip ∧
    t.power.standbyTrip = s.power.standbyTrip ∧
    t.power.declared = s.power.declared ∧
    t.power.rampTimer = s.power.rampTimer ∧
    t.draw.table = s.draw.table ∧
    t.draw.held = s.draw.held ∧
    t.faults = s.faults ∧
    t.line.slot = s.line.slot ∧
    t.line.rate = s.line.rate ∧
    t.line.isSet = s.line.isSet ∧
    t.line.params = s.line.params ∧
    t.line.duplicate = s.line.duplicate ∧
    t.line.receivedBad = s.line.receivedBad ∧
    t.line.cutOwn = s.line.cutOwn ∧
    t.bench = s.bench ∧
    t.freeNext = s.freeNext ∧
    t.pending = s.pending := by
  unfold execBackoffExpiry at h
  repeat' split at h
  all_goals (cases h; try simp)

theorem execFrameBegin_frame {s t : State}  (h : execFrameBegin s = .next t) :
    t.clock = s.clock ∧
    t.mem = s.mem ∧
    t.port = s.port ∧
    t.eng = s.eng ∧
    t.probe = s.probe ∧
    t.check = s.check ∧
    t.rail = s.rail ∧
    t.power = s.power ∧
    t.draw = s.draw ∧
    t.faults = s.faults ∧
    t.line.slot = s.line.slot ∧
    t.line.rate = s.line.rate ∧
    t.line.isSet = s.line.isSet ∧
    t.line.params = s.line.params ∧
    t.line.duplicate = s.line.duplicate ∧
    t.line.notSent = s.line.notSent ∧
    t.line.receivedBad = s.line.receivedBad ∧
    t.bench = s.bench ∧
    t.freeNext = s.freeNext ∧
    t.pending = s.pending := by
  unfold execFrameBegin at h
  repeat' split at h
  all_goals (cases h; try simp)

theorem execContentionLost_frame {s t : State}  (h : execContentionLost s = .next t) :
    t.clock = s.clock ∧
    t.mem = s.mem ∧
    t.port = s.port ∧
    t.eng = s.eng ∧
    t.probe = s.probe ∧
    t.check = s.check ∧
    t.rail = s.rail ∧
    t.power = s.power ∧
    t.draw = s.draw ∧
    t.faults = s.faults ∧
    t.line.slot = s.line.slot ∧
    t.line.rate = s.line.rate ∧
    t.line.isSet = s.line.isSet ∧
    t.line.params = s.line.params ∧
    t.line.duplicate = s.line.duplicate ∧
    t.line.notSent = s.line.notSent ∧
    t.line.receivedBad = s.line.receivedBad ∧
    t.line.cutOwn = s.line.cutOwn ∧
    t.bench = s.bench ∧
    t.freeNext = s.freeNext ∧
    t.pending = s.pending := by
  unfold execContentionLost at h
  repeat' split at h
  all_goals (cases h; try simp)

theorem execBitError_frame {s t : State}  (h : execBitError s = .next t) :
    t.clock = s.clock ∧
    t.eng.fetchIndex = s.eng.fetchIndex ∧
    t.eng.postIndex = s.eng.postIndex ∧
    t.eng.loops = s.eng.loops ∧
    t.probe.direction = s.probe.direction ∧
    t.probe.polarity = s.probe.polarity ∧
    t.probe.drive = s.probe.drive ∧
    t.probe.source = s.probe.source ∧
    t.probe.nextIndex = s.probe.nextIndex ∧
    t.probe.validCount = s.probe.validCount ∧
    t.check = s.check ∧
    t.rail.channels = s.rail.channels ∧
    t.rail.measured = s.rail.measured ∧
    t.rail.tripMain = s.rail.tripMain ∧
    t.rail.tripStandby = s.rail.tripStandby ∧
    t.rail.overdrawCount = s.rail.overdrawCount ∧
    t.rail.zeroCapture = s.rail.zeroCapture ∧
    t.power.standby = s.power.standby ∧
    t.power.main = s.power.main ∧
    t.power.mainTrip = s.power.mainTrip ∧
    t.power.standbyTrip = s.power.standbyTrip ∧
    t.power.declared = s.power.declared ∧
    t.power.rampTimer = s.power.rampTimer ∧
    t.draw.table = s.draw.table ∧
    t.draw.held = s.draw.held ∧
    t.faults = s.faults ∧
    t.line.slot = s.line.slot ∧
    t.line.rate = s.line.rate ∧
    t.line.isSet = s.line.isSet ∧
    t.line.params = s.line.params ∧
    t.line.duplicate = s.line.duplicate ∧
    t.line.receivedBad = s.line.receivedBad ∧
    t.bench = s.bench ∧
    t.freeNext = s.freeNext ∧
    t.pending = s.pending := by
  unfold execBitError at h
  simp only [] at h
  repeat' split at h
  all_goals (cases h; try simp)

theorem execFrameSent_frame {s t : State}  (h : execFrameSent s = .next t) :
    t.clock = s.clock ∧
    t.eng.fetchIndex = s.eng.fetchIndex ∧
    t.eng.postIndex = s.eng.postIndex ∧
    t.eng.loops = s.eng.loops ∧
    t.probe.direction = s.probe.direction ∧
    t.probe.polarity = s.probe.polarity ∧
    t.probe.drive = s.probe.drive ∧
    t.probe.source = s.probe.source ∧
    t.probe.nextIndex = s.probe.nextIndex ∧
    t.probe.validCount = s.probe.validCount ∧
    t.check = s.check ∧
    t.rail.channels = s.rail.channels ∧
    t.rail.measured = s.rail.measured ∧
    t.rail.tripMain = s.rail.tripMain ∧
    t.rail.tripStandby = s.rail.tripStandby ∧
    t.rail.overdrawCount = s.rail.overdrawCount ∧
    t.rail.zeroCapture = s.rail.zeroCapture ∧
    t.power.standby = s.power.standby ∧
    t.power.main = s.power.main ∧
    t.power.mainTrip = s.power.mainTrip ∧
    t.power.standbyTrip = s.power.standbyTrip ∧
    t.power.declared = s.power.declared ∧
    t.power.rampTimer = s.power.rampTimer ∧
    t.draw.table = s.draw.table ∧
    t.draw.held = s.draw.held ∧
    t.faults = s.faults ∧
    t.line.slot = s.line.slot ∧
    t.line.rate = s.line.rate ∧
    t.line.isSet = s.line.isSet ∧
    t.line.params = s.line.params ∧
    t.line.duplicate = s.line.duplicate ∧
    t.line.receivedBad = s.line.receivedBad ∧
    t.line.cutOwn = s.line.cutOwn ∧
    t.bench = s.bench ∧
    t.freeNext = s.freeNext ∧
    t.pending = s.pending := by
  unfold execFrameSent at h
  repeat' split at h
  all_goals (cases h; try simp)

theorem execBenchRequestArrival_frame {s t : State} {frame : Frame} (h : execBenchRequestArrival frame s = .next t) :
    t.clock = s.clock ∧
    t.eng.fetchIndex = s.eng.fetchIndex ∧
    t.eng.postIndex = s.eng.postIndex ∧
    t.eng.loops = s.eng.loops ∧
    t.probe.direction = s.probe.direction ∧
    t.probe.polarity = s.probe.polarity ∧
    t.probe.drive = s.probe.drive ∧
    t.probe.source = s.probe.source ∧
    t.probe.nextIndex = s.probe.nextIndex ∧
    t.probe.validCount = s.probe.validCount ∧
    t.check = s.check ∧
    t.rail.channels = s.rail.channels ∧
    t.rail.measured = s.rail.measured ∧
    t.rail.tripMain = s.rail.tripMain ∧
    t.rail.tripStandby = s.rail.tripStandby ∧
    t.rail.overdrawCount = s.rail.overdrawCount ∧
    t.rail.zeroCapture = s.rail.zeroCapture ∧
    t.power.standby = s.power.standby ∧
    t.power.main = s.power.main ∧
    t.power.mainTrip = s.power.mainTrip ∧
    t.power.standbyTrip = s.power.standbyTrip ∧
    t.power.declared = s.power.declared ∧
    t.power.rampTimer = s.power.rampTimer ∧
    t.draw.held = s.draw.held ∧
    t.faults.queue = s.faults.queue ∧
    t.faults.nextSequence = s.faults.nextSequence ∧
    t.faults.discarded = s.faults.discarded ∧
    t.line.slot = s.line.slot ∧
    t.line.rate = s.line.rate ∧
    t.freeNext = s.freeNext ∧
    t.pending = s.pending := by
  cases h; simp

theorem execServeLoad_frame {s t : State}  (h : execServeLoad s = .next t) :
    t.clock = s.clock ∧
    t.mem = s.mem ∧
    t.port.waits = s.port.waits ∧
    t.eng = s.eng ∧
    t.probe = s.probe ∧
    t.check = s.check ∧
    t.rail = s.rail ∧
    t.power = s.power ∧
    t.draw = s.draw ∧
    t.faults = s.faults ∧
    t.line.slot = s.line.slot ∧
    t.line.rate = s.line.rate ∧
    t.line.isSet = s.line.isSet ∧
    t.line.params = s.line.params ∧
    t.line.duplicate = s.line.duplicate ∧
    t.line.receivedBad = s.line.receivedBad ∧
    t.line.cutOwn = s.line.cutOwn ∧
    t.bench.discarded = s.bench.discarded ∧
    t.freeNext = s.freeNext ∧
    t.pending = s.pending := by
  unfold execServeLoad at h
  repeat' split at h
  all_goals (cases h; try simp)

theorem execServePost_frame {s t : State}  (h : execServePost s = .next t) :
    t.clock = s.clock ∧
    t.probe = s.probe ∧
    t.check = s.check ∧
    t.rail.channels = s.rail.channels ∧
    t.rail.measured = s.rail.measured ∧
    t.rail.tripMain = s.rail.tripMain ∧
    t.rail.tripStandby = s.rail.tripStandby ∧
    t.rail.overdrawCount = s.rail.overdrawCount ∧
    t.rail.average = s.rail.average ∧
    t.power.mainTrip = s.power.mainTrip ∧
    t.power.standbyTrip = s.power.standbyTrip ∧
    t.draw.table = s.draw.table ∧
    t.faults = s.faults ∧
    t.line.slot = s.line.slot ∧
    t.line.rate = s.line.rate ∧
    t.line.isSet = s.line.isSet ∧
    t.line.params = s.line.params ∧
    t.line.duplicate = s.line.duplicate ∧
    t.line.receivedBad = s.line.receivedBad ∧
    t.line.cutOwn = s.line.cutOwn ∧
    t.bench.discarded = s.bench.discarded ∧
    t.freeNext = s.freeNext ∧
    t.pending = s.pending := by
  unfold execServePost at h
  repeat' split at h
  all_goals (cases h; try simp)

theorem execServePeek_frame {s t : State}  (h : execServePeek s = .next t) :
    t.clock = s.clock ∧
    t.mem = s.mem ∧
    t.port.waits = s.port.waits ∧
    t.eng = s.eng ∧
    t.probe = s.probe ∧
    t.check = s.check ∧
    t.rail = s.rail ∧
    t.power = s.power ∧
    t.draw = s.draw ∧
    t.faults = s.faults ∧
    t.line.slot = s.line.slot ∧
    t.line.rate = s.line.rate ∧
    t.line.isSet = s.line.isSet ∧
    t.line.params = s.line.params ∧
    t.line.duplicate = s.line.duplicate ∧
    t.line.receivedBad = s.line.receivedBad ∧
    t.line.cutOwn = s.line.cutOwn ∧
    t.bench.discarded = s.bench.discarded ∧
    t.freeNext = s.freeNext ∧
    t.pending = s.pending := by
  unfold execServePeek at h
  repeat' split at h
  all_goals (cases h; try simp)

theorem execBenchAccessGrant_frame {s t : State}  (h : execBenchAccessGrant s = .next t) :
    t.clock = s.clock ∧
    t.eng.postIndex = s.eng.postIndex ∧
    t.probe.direction = s.probe.direction ∧
    t.probe.polarity = s.probe.polarity ∧
    t.probe.drive = s.probe.drive ∧
    t.probe.source = s.probe.source ∧
    t.probe.strobe = s.probe.strobe ∧
    t.check = s.check ∧
    t.rail.channels = s.rail.channels ∧
    t.rail.measured = s.rail.measured ∧
    t.rail.tripMain = s.rail.tripMain ∧
    t.rail.tripStandby = s.rail.tripStandby ∧
    t.rail.overdrawCount = s.rail.overdrawCount ∧
    t.rail.average = s.rail.average ∧
    t.power.mainTrip = s.power.mainTrip ∧
    t.power.standbyTrip = s.power.standbyTrip ∧
    t.draw.table = s.draw.table ∧
    t.faults = s.faults ∧
    t.line.slot = s.line.slot ∧
    t.line.rate = s.line.rate ∧
    t.line.isSet = s.line.isSet ∧
    t.line.params = s.line.params ∧
    t.line.duplicate = s.line.duplicate ∧
    t.line.receivedBad = s.line.receivedBad ∧
    t.line.cutOwn = s.line.cutOwn ∧
    t.bench.discarded = s.bench.discarded ∧
    t.freeNext = s.freeNext ∧
    t.pending = s.pending := by
  unfold execBenchAccessGrant at h
  simp only [] at h
  repeat' split at h
  all_goals (cases h; try simp)

theorem execServeUnknownAction_frame {s t : State}  (h : execServeUnknownAction s = .next t) :
    t.clock = s.clock ∧
    t.mem = s.mem ∧
    t.port = s.port ∧
    t.eng = s.eng ∧
    t.probe = s.probe ∧
    t.check = s.check ∧
    t.rail = s.rail ∧
    t.power = s.power ∧
    t.draw = s.draw ∧
    t.faults = s.faults ∧
    t.line.slot = s.line.slot ∧
    t.line.rate = s.line.rate ∧
    t.line.isSet = s.line.isSet ∧
    t.line.params = s.line.params ∧
    t.line.duplicate = s.line.duplicate ∧
    t.line.receivedBad = s.line.receivedBad ∧
    t.line.cutOwn = s.line.cutOwn ∧
    t.bench.discarded = s.bench.discarded ∧
    t.pending = s.pending := by
  unfold execServeUnknownAction at h
  simp only [] at h
  repeat' split at h
  all_goals (cases h; try simp)

theorem execServeQueryStatus_frame {s t : State}  (h : execServeQueryStatus s = .next t) :
    t.clock = s.clock ∧
    t.mem = s.mem ∧
    t.port = s.port ∧
    t.eng = s.eng ∧
    t.probe = s.probe ∧
    t.check = s.check ∧
    t.rail = s.rail ∧
    t.power = s.power ∧
    t.draw = s.draw ∧
    t.faults = s.faults ∧
    t.line.slot = s.line.slot ∧
    t.line.rate = s.line.rate ∧
    t.line.isSet = s.line.isSet ∧
    t.line.params = s.line.params ∧
    t.line.duplicate = s.line.duplicate ∧
    t.line.receivedBad = s.line.receivedBad ∧
    t.line.cutOwn = s.line.cutOwn ∧
    t.bench.discarded = s.bench.discarded ∧
    t.freeNext = s.freeNext ∧
    t.pending = s.pending := by
  unfold execServeQueryStatus at h
  repeat' split at h
  all_goals (cases h; try simp)

theorem execServeQueryReadings_frame {s t : State}  (h : execServeQueryReadings s = .next t) :
    t.clock = s.clock ∧
    t.mem = s.mem ∧
    t.port = s.port ∧
    t.eng = s.eng ∧
    t.probe = s.probe ∧
    t.check = s.check ∧
    t.rail = s.rail ∧
    t.power = s.power ∧
    t.draw = s.draw ∧
    t.faults = s.faults ∧
    t.line.slot = s.line.slot ∧
    t.line.rate = s.line.rate ∧
    t.line.isSet = s.line.isSet ∧
    t.line.params = s.line.params ∧
    t.line.duplicate = s.line.duplicate ∧
    t.line.receivedBad = s.line.receivedBad ∧
    t.line.cutOwn = s.line.cutOwn ∧
    t.bench.discarded = s.bench.discarded ∧
    t.freeNext = s.freeNext ∧
    t.pending = s.pending := by
  unfold execServeQueryReadings at h
  repeat' split at h
  all_goals (cases h; try simp)

theorem execServeQueryUnknown_frame {s t : State}  (h : execServeQueryUnknown s = .next t) :
    t.clock = s.clock ∧
    t.mem = s.mem ∧
    t.port = s.port ∧
    t.eng = s.eng ∧
    t.probe = s.probe ∧
    t.check = s.check ∧
    t.rail = s.rail ∧
    t.power = s.power ∧
    t.draw = s.draw ∧
    t.faults = s.faults ∧
    t.line.slot = s.line.slot ∧
    t.line.rate = s.line.rate ∧
    t.line.isSet = s.line.isSet ∧
    t.line.params = s.line.params ∧
    t.line.duplicate = s.line.duplicate ∧
    t.line.receivedBad = s.line.receivedBad ∧
    t.line.cutOwn = s.line.cutOwn ∧
    t.bench.discarded = s.bench.discarded ∧
    t.freeNext = s.freeNext ∧
    t.pending = s.pending := by
  unfold execServeQueryUnknown at h
  repeat' split at h
  all_goals (cases h; try simp)

theorem execServeFaultRead_frame {s t : State}  (h : execServeFaultRead s = .next t) :
    t.clock = s.clock ∧
    t.mem = s.mem ∧
    t.port = s.port ∧
    t.eng = s.eng ∧
    t.probe = s.probe ∧
    t.check = s.check ∧
    t.rail = s.rail ∧
    t.power = s.power ∧
    t.draw = s.draw ∧
    t.faults = s.faults ∧
    t.line.slot = s.line.slot ∧
    t.line.rate = s.line.rate ∧
    t.line.isSet = s.line.isSet ∧
    t.line.params = s.line.params ∧
    t.line.duplicate = s.line.duplicate ∧
    t.line.receivedBad = s.line.receivedBad ∧
    t.line.cutOwn = s.line.cutOwn ∧
    t.bench.discarded = s.bench.discarded ∧
    t.freeNext = s.freeNext ∧
    t.pending = s.pending := by
  unfold execServeFaultRead at h
  repeat' split at h
  all_goals (cases h; try simp)

theorem execServeFaultTrim_frame {s t : State}  (h : execServeFaultTrim s = .next t) :
    t.clock = s.clock ∧
    t.mem = s.mem ∧
    t.port = s.port ∧
    t.eng = s.eng ∧
    t.probe = s.probe ∧
    t.check = s.check ∧
    t.rail = s.rail ∧
    t.power = s.power ∧
    t.draw = s.draw ∧
    t.faults.nextSequence = s.faults.nextSequence ∧
    t.faults.discarded = s.faults.discarded ∧
    t.faults.notices = s.faults.notices ∧
    t.faults.noticeOverflow = s.faults.noticeOverflow ∧
    t.line.slot = s.line.slot ∧
    t.line.rate = s.line.rate ∧
    t.line.isSet = s.line.isSet ∧
    t.line.params = s.line.params ∧
    t.line.duplicate = s.line.duplicate ∧
    t.line.receivedBad = s.line.receivedBad ∧
    t.line.cutOwn = s.line.cutOwn ∧
    t.bench.discarded = s.bench.discarded ∧
    t.freeNext = s.freeNext ∧
    t.pending = s.pending := by
  unfold execServeFaultTrim at h
  repeat' split at h
  all_goals (cases h; try simp)

theorem execServeStart_frame {s t : State} (h : execServeStart s = .next t) :
    t.clock = s.clock ∧
    t.mem = s.mem ∧
    t.eng.fetchIndex = s.eng.fetchIndex ∧
    t.eng.postIndex = s.eng.postIndex ∧
    t.eng.loops = s.eng.loops ∧
    t.eng.judged = s.eng.judged ∧
    t.eng.timer = s.eng.timer ∧
    t.probe = s.probe ∧
    t.check = s.check ∧
    t.rail = s.rail ∧
    t.power = s.power ∧
    t.draw = s.draw ∧
    t.faults = s.faults ∧
    t.line.slot = s.line.slot ∧
    t.line.rate = s.line.rate ∧
    t.line.isSet = s.line.isSet ∧
    t.line.params = s.line.params ∧
    t.line.duplicate = s.line.duplicate ∧
    t.line.receivedBad = s.line.receivedBad ∧
    t.line.cutOwn = s.line.cutOwn ∧
    t.bench.discarded = s.bench.discarded ∧
    t.freeNext = s.freeNext ∧
    t.pending = s.pending := by
  unfold execServeStart at h
  split at h
  · cases h; simp
  · rename_i q _
    cases h
    rcases s.controlReply_cases q 1 (s.startVerdict q.payload) with ⟨c, -, hr⟩ | ⟨u, hu, hr⟩
    · rw [hr]; simp
    · unfold State.startVerdict at hu
      repeat' split at hu
      all_goals (cases hu <;> rw [hr] <;> simp)

theorem execServePause_frame {s t : State} (h : execServePause s = .next t) :
    t.clock = s.clock ∧
    t.mem = s.mem ∧
    t.port = s.port ∧
    t.eng.phase = s.eng.phase ∧
    t.eng.fetchIndex = s.eng.fetchIndex ∧
    t.eng.postIndex = s.eng.postIndex ∧
    t.eng.loops = s.eng.loops ∧
    t.eng.attempt = s.eng.attempt ∧
    t.eng.judged = s.eng.judged ∧
    t.eng.haltReason = s.eng.haltReason ∧
    t.eng.haltIndex = s.eng.haltIndex ∧
    t.eng.timer = s.eng.timer ∧
    t.probe = s.probe ∧
    t.check = s.check ∧
    t.rail = s.rail ∧
    t.power = s.power ∧
    t.draw = s.draw ∧
    t.faults = s.faults ∧
    t.line.slot = s.line.slot ∧
    t.line.rate = s.line.rate ∧
    t.line.isSet = s.line.isSet ∧
    t.line.params = s.line.params ∧
    t.line.duplicate = s.line.duplicate ∧
    t.line.receivedBad = s.line.receivedBad ∧
    t.line.cutOwn = s.line.cutOwn ∧
    t.bench.discarded = s.bench.discarded ∧
    t.freeNext = s.freeNext ∧
    t.pending = s.pending := by
  unfold execServePause at h
  split at h
  · cases h; simp
  · rename_i q _
    cases h
    rcases s.controlReply_cases q 2 (s.pauseVerdict q.payload) with ⟨c, -, hr⟩ | ⟨u, hu, hr⟩
    · rw [hr]; simp
    · unfold State.pauseVerdict at hu
      repeat' split at hu
      all_goals (cases hu <;> rw [hr] <;> simp)

theorem execServeResume_frame {s t : State} (h : execServeResume s = .next t) :
    t.clock = s.clock ∧
    t.mem = s.mem ∧
    t.eng.fetchIndex = s.eng.fetchIndex ∧
    t.eng.postIndex = s.eng.postIndex ∧
    t.eng.loops = s.eng.loops ∧
    t.eng.attempt = s.eng.attempt ∧
    t.eng.judged = s.eng.judged ∧
    t.eng.haltReason = s.eng.haltReason ∧
    t.eng.haltIndex = s.eng.haltIndex ∧
    t.eng.timer = s.eng.timer ∧
    t.probe = s.probe ∧
    t.check = s.check ∧
    t.rail = s.rail ∧
    t.power = s.power ∧
    t.draw = s.draw ∧
    t.faults = s.faults ∧
    t.line.slot = s.line.slot ∧
    t.line.rate = s.line.rate ∧
    t.line.isSet = s.line.isSet ∧
    t.line.params = s.line.params ∧
    t.line.duplicate = s.line.duplicate ∧
    t.line.receivedBad = s.line.receivedBad ∧
    t.line.cutOwn = s.line.cutOwn ∧
    t.bench.discarded = s.bench.discarded ∧
    t.freeNext = s.freeNext ∧
    t.pending = s.pending := by
  unfold execServeResume at h
  split at h
  · cases h; simp
  · rename_i q _
    cases h
    rcases s.controlReply_cases q 3 (s.resumeVerdict q.payload) with ⟨c, -, hr⟩ | ⟨u, hu, hr⟩
    · rw [hr]; simp
    · unfold State.resumeVerdict at hu
      repeat' split at hu
      all_goals (cases hu <;> rw [hr] <;> simp)

theorem execServeAbort_frame {s t : State} (h : execServeAbort s = .next t) :
    t.clock = s.clock ∧
    t.eng.fetchIndex = s.eng.fetchIndex ∧
    t.eng.postIndex = s.eng.postIndex ∧
    t.eng.loops = s.eng.loops ∧
    t.probe.direction = s.probe.direction ∧
    t.probe.polarity = s.probe.polarity ∧
    t.probe.drive = s.probe.drive ∧
    t.probe.source = s.probe.source ∧
    t.probe.nextIndex = s.probe.nextIndex ∧
    t.probe.validCount = s.probe.validCount ∧
    t.check = s.check ∧
    t.rail.channels = s.rail.channels ∧
    t.rail.measured = s.rail.measured ∧
    t.rail.tripMain = s.rail.tripMain ∧
    t.rail.tripStandby = s.rail.tripStandby ∧
    t.rail.overdrawCount = s.rail.overdrawCount ∧
    t.power.mainTrip = s.power.mainTrip ∧
    t.power.standbyTrip = s.power.standbyTrip ∧
    t.draw.table = s.draw.table ∧
    t.faults = s.faults ∧
    t.line.slot = s.line.slot ∧
    t.line.rate = s.line.rate ∧
    t.line.isSet = s.line.isSet ∧
    t.line.params = s.line.params ∧
    t.line.duplicate = s.line.duplicate ∧
    t.line.receivedBad = s.line.receivedBad ∧
    t.line.cutOwn = s.line.cutOwn ∧
    t.bench.discarded = s.bench.discarded ∧
    t.freeNext = s.freeNext ∧
    t.pending = s.pending := by
  unfold execServeAbort at h
  split at h
  · cases h; simp
  · rename_i q _
    cases h
    rcases s.controlReply_cases q 4 (s.abortVerdict q.payload) with ⟨c, -, hr⟩ | ⟨u, hu, hr⟩
    · rw [hr]; simp
    · unfold State.abortVerdict at hu
      repeat' split at hu
      all_goals (cases hu <;> rw [hr] <;> simp)

theorem execServeClear_frame {s t : State} (h : execServeClear s = .next t) :
    t.clock = s.clock ∧
    t.mem = s.mem ∧
    t.port = s.port ∧
    t.eng.postIndex = s.eng.postIndex ∧
    t.probe.nextIndex = s.probe.nextIndex ∧
    t.probe.validCount = s.probe.validCount ∧
    t.probe.strobe = s.probe.strobe ∧
    t.draw.table = s.draw.table ∧
    t.faults.nextSequence = s.faults.nextSequence ∧
    t.faults.discarded = s.faults.discarded ∧
    t.faults.notices = s.faults.notices ∧
    t.faults.noticeOverflow = s.faults.noticeOverflow ∧
    t.line.slot = s.line.slot ∧
    t.line.rate = s.line.rate ∧
    t.line.isSet = s.line.isSet ∧
    t.line.params = s.line.params ∧
    t.line.duplicate = s.line.duplicate ∧
    t.line.receivedBad = s.line.receivedBad ∧
    t.line.cutOwn = s.line.cutOwn ∧
    t.bench.discarded = s.bench.discarded ∧
    t.freeNext = s.freeNext ∧
    t.pending = s.pending := by
  unfold execServeClear at h
  split at h
  · cases h; simp
  · rename_i q _
    cases h
    rcases s.controlReply_cases q 5 (s.clearVerdict q.payload) with ⟨c, -, hr⟩ | ⟨u, hu, hr⟩
    · rw [hr]; simp
    · unfold State.clearVerdict at hu
      repeat' split at hu
      all_goals (cases hu <;> rw [hr] <;> simp)

theorem execServeRing_frame {s t : State} (h : execServeRing s = .next t) :
    t.clock = s.clock ∧
    t.mem = s.mem ∧
    t.port = s.port ∧
    t.eng.job = s.eng.job ∧
    t.eng.phase = s.eng.phase ∧
    t.eng.loops = s.eng.loops ∧
    t.eng.copy = s.eng.copy ∧
    t.eng.attempt = s.eng.attempt ∧
    t.eng.judged = s.eng.judged ∧
    t.eng.latch = s.eng.latch ∧
    t.eng.haltReason = s.eng.haltReason ∧
    t.eng.haltIndex = s.eng.haltIndex ∧
    t.eng.timer = s.eng.timer ∧
    t.probe = s.probe ∧
    t.check = s.check ∧
    t.rail = s.rail ∧
    t.power = s.power ∧
    t.draw = s.draw ∧
    t.faults = s.faults ∧
    t.line.slot = s.line.slot ∧
    t.line.rate = s.line.rate ∧
    t.line.isSet = s.line.isSet ∧
    t.line.params = s.line.params ∧
    t.line.duplicate = s.line.duplicate ∧
    t.line.receivedBad = s.line.receivedBad ∧
    t.line.cutOwn = s.line.cutOwn ∧
    t.bench.discarded = s.bench.discarded ∧
    t.freeNext = s.freeNext ∧
    t.pending = s.pending := by
  unfold execServeRing at h
  split at h
  · cases h; simp
  · rename_i q _
    cases h
    rcases s.controlReply_cases q 6 (s.ringVerdict q.payload) with ⟨c, -, hr⟩ | ⟨u, hu, hr⟩
    · rw [hr]; simp
    · unfold State.ringVerdict at hu
      repeat' split at hu
      all_goals (cases hu <;> rw [hr] <;> simp)

end Sys2Proof.Machine
end

