-- ==== Sys2Proof/Tests/Slice0.lean ====
section
/-! SUPPORT. Tests. The `wf` tests show each check of WellFormed refusing an ill-formed command, the `test` theorems
take one step on a small state and compare it with the spec's worked examples or with its rules by hand, and the
`witness` theorems show that the hypotheses of the statements can be met together, clause by clause. -/

namespace Sys2Proof.Tests

open Sys2Proof.Machine

/-! ### Well-formedness -/

theorem wf_refuses_long_fail : Instr.wf (.frameFail 3 31 (List.replicate 33 0)) = false := by decide
theorem wf_refuses_long_claim : Instr.wf (.frameClaim 3 31 (List.replicate 33 0)) = false := by decide
theorem wf_refuses_long_draw : Instr.wf (.frameDraw 3 31 (List.replicate 33 0)) = false := by decide
theorem wf_refuses_long_join : Instr.wf (.frameJoin 3 31 (List.replicate 33 0)) = false := by decide
theorem wf_refuses_long_setup : Instr.wf (.frameSetup 30 31 (List.replicate 33 0)) = false := by decide
theorem wf_refuses_long_duplicate :
    Instr.wf (.duplicateSlotFrame { source := 3, dest := 31, kind := 3, payload := List.replicate 33 0 }) = false := by decide
theorem wf_refuses_long_passed :
    Instr.wf (.framePassedOver { source := 3, dest := 31, kind := 3, payload := List.replicate 33 0 }) = false := by decide
theorem wf_refuses_request_of_a_peer_kind :
    Instr.wf (.benchRequestArrival { source := 30, dest := 31, kind := 4, payload := [] }) = false := by decide
theorem wf_refuses_long_request :
    Instr.wf (.benchRequestArrival { source := 30, dest := 31, kind := 5, payload := List.replicate 33 0 }) = false := by decide
theorem wf_refuses_raw_short_payload :
    Instr.wf (.frameReceivedBad { source := 1, dest := 31, kind := 2, payload := [0] } { length := 2, check := 0 }) = false := by decide
theorem wf_refuses_raw_payload_past_32 :
    Instr.wf (.frameReceivedBad { source := 1, dest := 31, kind := 2, payload := [0] } { length := 33, check := 0 }) = false := by decide
theorem wf_accepts_full_load :
    Instr.wf (.benchRequestArrival { source := 30, dest := 31, kind := 5, payload := List.replicate 32 0 }) = true := by decide

/-- The table gives no row any bits, so no word spells a command. -/
theorem test_no_row_gives_bits : decodeTableWord 8 0x5A = none := by decide

/-! ### Small states -/

/-- The state that a command leaves; a stop shows as the reset state. -/
def after (i : Instr) (s : State) : State := match exec i s with | .next t => t | .fault _ | .refused _ => State.reset

/-- A record from its sixteen bytes. -/
def record (bytes : List Nat) : Record := BitVec.ofNat 128 (leNat (bytes.map (BitVec.ofNat 8)))

/-- Station 4 after a SETUP: budget 3000 dW, Tc 100 ms, W 5 ms, Q 2, settle delay 2000 ms. -/
def station : State :=
  { State.reset with line := { LinePort.reset 4 .kbit1000 with
      isSet := true, params := { budget := 3000, claimWindow := 100, coincidence := 5, quorum := 2, settleDelay := 2000 } } }

/-- The station RUNNING at F with P nine records on, the record `r` fetched and awaiting dispatch. -/
def at' (f : RingIndex) (r : Record) (s : State) : State :=
  { s with eng := { s.eng with job := .running, fetchIndex := f, postIndex := f + 9, copy := some r } }

/-- The record `r` in flight in a phase. -/
def inPhase (p : StepPhase) (r : Record) (s : State) : State := let t := at' 4 r s; { t with eng := { t.eng with phase := p } }

/-- The request `q` in service at the station. -/
def serving (k : FrameKind) (payload : List Byte) (s : State) : State :=
  { s with bench := { s.bench with queue := [{ kind := k, payload := payload, toAll := false }], service := .checking } }

/-- The power state and switches of a board that holds `d` and has declared it. -/
def powered (p : PowerState) (d : Draw) (s : State) : State :=
  { s with power := { s.power with state := p, standby := true, main := decide (p = .on), declared := d },
           draw := { s.draw with held := d } }

/-- The timer in TIMING and RECOVER. -/
def timed (start : Time) (span : Nat) (now : Time) (s : State) : State :=
  { s with clock := now, eng := { s.eng with timer := some { start := start, span := span } } }

/-- The SAMPLE's strobe. -/
def strobing (b : Strobe) (now : Time) (s : State) : State := { s with clock := now, probe := { s.probe with strobe := some b } }

/-- A move of the Power Path. -/
def moving (m : Move) (p : PowerState) (s : State) : State := { s with power := { s.power with state := p, move := some m } }

/-- The Move of 6.7 of spec/06: from OFF to ON, asking 1200 dW. -/
def move67 (stage : MoveStage) (order : Option Nat) : Move :=
  { start := .off, target := .on, asked := 1200, ramp := 50, waitLimit := 30, stage := stage, claimOrder := order }

/-- A step fault, PROVISIONAL, of sequence 41 and stamp 20,000 (8.10 of spec/08). -/
def fault41 : FaultRecord :=
  { sequence := 41, stamp := 20000, stepIndex := some 300, attempt := 0, cls := .provisional, peerCount := 0,
    guardAction := none,
    info := { kind := .railLow, source := .railcheck, channel := some 0, observed := some 4, refA := some 5, refB := some 6 } }

/-- The same from a guard under ISOLATE. -/
def guardFault41 : FaultRecord := { fault41 with info := { fault41.info with source := .guard }, guardAction := some .isolate }

/-- The fault queue holds the fault, and its window end is reached with the notices of 8.10. -/
def judging (f : FaultRecord) (s : State) : State :=
  { s with clock := 20005, faults := { s.faults with
      queue := [f], nextSequence := 42,
      notices := [{ slot := 3, arrival := 19996 }, { slot := 11, arrival := 20001 }, { slot := 11, arrival := 20003 }] } }

/-- The same with the notices of one slot alone, which stays below the quorum. -/
def judgingAlone (f : FaultRecord) (s : State) : State :=
  { judging f s with faults := { (judging f s).faults with notices := [{ slot := 11, arrival := 20005 }] } }

/-- The own claim of 1000 dW in its window, taken at 5,001, with the view of 7.7 at station 9. -/
def claiming (held2 held4 : Draw) (s : State) : State :=
  { s with clock := 5101, draw := { s.draw with
      claimState := .claiming, claim := some { heldNow := 0, asking := 1000, t0 := some 5001 }, windowTimer := some 5101,
      table := (s.draw.table.set 2 { held := held2, pending := none }).set 5 { held := held4, pending := none } } }

def lanes : Record := record [1, 1, 9, 0xFF, 0x01, 1]
def drive : Record := record [2, 0, 0x81, 0x0F, 0, 0, 0, 0, 0, 0, 0xF0]
def sample : Record := record [3, 5, 200, 0, 5, 9, 0, 8]
def sampleOpen : Record := record [3, 5, 0, 0, 0, 255, 0, 255]
def fieldRec : Record := record [4, 0, 16, 8, 1, 0, 3, 0, 9, 2]
def fieldEdge : Record := record [4, 0, 32, 32, 0, 1, 0, 0, 0, 0]
def limits : Record := record [5, 0, 2, 0, 0xFB, 0xFF, 0xFF, 0xFF, 2, 0, 0, 0]
def limitsEqual : Record := record [5, 0, 1, 0, 80, 0, 0, 0, 240, 0, 0, 0]
def railcheck : Record := record [6, 1, 0, 4, 0x88, 0x2C, 0x38, 0x31]
def guardRec : Record := record [7, 0, 2, 0, 0x8E, 0x12, 0x82, 0x14, 1, 1]
def scale : Record := record [8, 0, 255, 0, 0x33, 0x50, 0xFF, 0xFF]
def powerOn : Record := record [9, 1, 2, 30, 0xB0, 0x04, 0xE0, 0x2E, 0x20, 0x03, 50, 0]
def powerStandby : Record := record [9, 0, 1, 0, 150, 0, 0, 0, 0, 0, 0, 0]
def powerOff : Record := record [9, 0, 0, 0, 0xFF, 0xFF]
def wait : Record := record [10, 1, 200, 0, 0, 0]
def waitZero : Record := record [10, 2, 0, 0, 0, 0]
def repeat' : Record := record [11, 0, 2, 0, 5]
def repeatSkip : Record := record [11, 0, 0, 0, 5]
def mark : Record := record [12, 3]
def stop : Record := record [13, 3]
def unknown : Record := record [14, 1, 0, 0, 0, 0, 0, 0, 0, 0, 0, 0, 0, 0, 0, 7]

/-! ### One step of each command -/

/-- R184, R82. -/
theorem test_reset : (after (.reset 7 2) (powered .on 900 station)).power.main = false ∧
    (after (.reset 7 2) station).line.rate = .kbit500 ∧ (after (.reset 7 2) station).line.slot = 7 := by decide
/-- R1, R142: 8.10 of spec/08, the entry of 19,994 is 11 ms old at 20,005 and 2W is 10. -/
theorem test_tick_prunes : ((after .stationTick { judging fault41 station with
    clock := 20004, faults := { station.faults with notices := [{ slot := 3, arrival := 19994 }, { slot := 3, arrival := 19996 }] } }).faults.notices) =
    [{ slot := 3, arrival := 19996 }] := by decide
/-- The rails of 5.11 of spec/05. -/
def rails511 : State :=
  let c (i : Fin 8) (z : BitVec 12) (g : BitVec 16) (l : Nat) (f : Int) : Channel :=
    { station.rail.channels.get i with zero := z, gain := g, stepLimit := l, filtered := f, seed := false }
  { powered .on 1200 station with rail := { station.rail with
      channels := (((station.rail.channels.set 0 (c 0 0 16384 0 12008)).set 1 (c 1 12 20531 100 9100)).set 2
        (c 2 0 8192 0 5020)).set 3 (c 3 3 4096 0 409) } }
def codes511 : Vector (BitVec 12) 8 := #v[3002, 1857, 2510, 412, 0, 0, 0, 0]
theorem test_round_readings : let t := after (.updateRound codes511) rails511
    (t.rail.channels.get 1).scaled = 9248 ∧ (t.rail.channels.get 1).filtered = 9200 ∧
    (t.rail.channels.get 0).filtered = 12008 ∧ t.rail.measured = 1125 := by decide
theorem test_round_next : (after (.updateRound codes511) (after (.updateRound codes511) rails511)).rail.measured = 1131 := by decide
/-- 5.12 of spec/05, round 7: the third outside round in a row, and the fault. -/
def guarded (count : Nat) (state : GuardState) (f : Int) : State :=
  { powered .standby 150 station with rail := station.rail.setChannel 2 { station.rail.channels.get 2 with
      filtered := f, seed := false,
      guard := { enabled := true, low := 4750, high := 5250, debounce := 3, action := .log, state := state, count := count } } }
theorem test_round_counts_guard :
    ((after (.updateRound #v[0, 0, 2340, 0, 0, 0, 0, 0]) (guarded 2 .armed 4690)).rail.channels.get 2).guard.count = 3 := by decide
theorem test_guard_fault : let t := after (.guardFault 2) (guarded 3 .armed 4680)
    (t.rail.channels.get 2).guard.state = .resting ∧ t.faults.queue.map (fun f => (f.info.kind, f.info.observed)) = [(.railLow, some 4680)] := by decide
theorem test_guard_rearm : ((after (.guardRearm 2) (guarded 3 .resting 4780)).rail.channels.get 2).guard.state = .armed := by decide
/-- 6.8 of spec/06. -/
def tripping : State :=
  let s := powered .ramping 1200 (moving (move67 .ramping (some 10016)) .ramping (inPhase .awaitPower powerOn station))
  { s with power := { s.power with main := true, mainTrip := 12000 },
           rail := { s.rail.setChannel 1 { s.rail.channels.get 1 with scaled := 14115 } with tripMain := 2 } }
theorem test_trip : let t := after .tripDetection tripping
    t.power.state = .tripped ∧ t.power.main = false ∧ t.draw.held = 0 ∧ t.eng.haltReason = some .tripped ∧
    t.faults.queue.map (fun f => (f.info.observed, f.info.refA, f.stepIndex)) = [(some 14115, some 12000, some 4)] := by decide
def overdrawing : State := let s := powered .on 1200 station; { s with rail := { s.rail with overdrawCount := 50, measured := 1351 } }
theorem test_overdraw : let t := after .overdrawDetection overdrawing
    t.power.state = .off ∧ t.draw.held = 0 ∧ t.faults.queue.map (fun f => (f.info.observed, f.info.refA)) = [(some 1351, some 1200)] := by decide
/-- 5.13 of spec/05, with sums 192 and 3680; the move of 6.7 of spec/06 from OFF. -/
def zeroing (sumMain sumStandby : Nat) (held : Draw) : State :=
  let s := moving (move67 .zeroing none)
    .zeroing (inPhase .awaitPower powerOn station)
  { s with clock := 10016, draw := { s.draw with held := held },
           rail := { s.rail with zeroCapture := some { onMain := true, onStandby := true, sumMain := sumMain,
                                                       sumStandby := sumStandby, rounds := 16 } } }
theorem test_zero_capture_done : let t := after .zeroCaptureEnd (zeroing 192 48 0)
    (t.rail.channels.get 1).zero = 12 ∧ (t.rail.channels.get 3).zero = 3 ∧ t.power.state = .claiming ∧
    t.line.queue.map (fun f => f.payload) = [[0, 0, 0xB0, 0x04]] := by decide
theorem test_zero_capture_backfeed : let t := after .zeroCaptureEnd (zeroing 3680 48 0)
    (t.rail.channels.get 3).zero = 0 ∧ t.power.state = .off ∧ t.eng.phase = .judging ∧
    t.faults.queue.map (fun f => (f.info.kind, f.info.channel, f.info.observed)) = [(.backfeed, some 1, some 230)] := by decide
def ramping : State :=
  let s := powered .ramping 1200 (moving (move67 .ramping (some 10016)) .ramping (inPhase .awaitPower powerOn station))
  { s with clock := 10408, power := { s.power with rampTimer := some { start := 10358, span := 50 } } }
theorem test_ramp_expiry : let t := after .rampExpiry ramping
    t.power.state = .on ∧ t.power.declared = 1200 ∧ t.power.move = none ∧ t.eng.fetchIndex = 5 ∧
    Memory.read t.mem 78 = 1 := by decide
/-- 12.4 of spec/12: 45,000 over four rounds averages 11,250, below 11,400; 48,020 averages 12,005. -/
def averaging (sum : Int) (attempt : BitVec 3) : State :=
  let s := inPhase .average railcheck station
  { s with eng := { s.eng with attempt := attempt },
           rail := { s.rail with average := some { channel := 0, count := 4, sum := sum, rounds := 4 } } }
theorem test_railcheck_low : let t := after .railcheckAverageEnd (averaging 45000 0)
    t.eng.phase = .judging ∧ t.eng.judged = some 1 ∧
    t.faults.queue.map (fun f => (f.info.kind, f.info.observed, f.info.refA)) = [(.railLow, some 11250, some 11400)] := by decide
theorem test_railcheck_retried_pass : let t := after .railcheckAverageEnd (averaging 48020 1)
    Memory.read t.mem 78 = 3 ∧ t.eng.attempt = 0 ∧ t.eng.fetchIndex = 5 := by decide
/-- 3.6 of spec/03: BUSY on line 8, inverted; lane 2 QUALIFIED; line 2 driven 1 and held low. -/
def gated : State :=
  let s := inPhase .strobe sample station
  { s with probe := { s.probe with direction := 0xFF, polarity := 0x100, drive := 0x0F, source := 4, nextIndex := 37, validCount := 37 },
           check := { s.check with field := { s.check.field with startLine := 16 } } }
theorem test_settle_end_holds_off : let t := (after (.settleEnd 0x0B)
    (strobing { stage := .settle, start := 81400, levels := 0 } 81400 (inPhase .settle sample { gated with eng := station.eng })))
    t.eng.phase = .strobe ∧ t.probe.strobe = some { stage := .holdOff, start := 81400, levels := 0 } := by decide
theorem test_hold_off_release : (after (.holdOffRelease 0x10B)
    (strobing { stage := .holdOff, start := 81400, levels := 0 } 81402 gated)).probe.strobe =
    some { stage := .qualifier, start := 81400, levels := 0x0B } := by decide
theorem test_qualifier_edge : let t := (after (.qualifierEdge 0xA5030B)
    (strobing { stage := .qualifier, start := 81400, levels := 0x0B } 81404 gated))
    t.probe.nextIndex = 38 ∧ Memory.read t.mem (16384 + 16 * 37 + 6) = 0x0B ∧ Memory.read t.mem (16384 + 16 * 37 + 8) = 0xA5 ∧
    Memory.read t.mem (16384 + 16 * 37 + 14) = 6 ∧ Memory.read t.mem (16384 + 16 * 37 + 15) = 1 ∧ Memory.read t.mem 78 = 2 := by decide
theorem test_strobe_timeout : let t := (after (.strobeTimerExpiry 0xA5010B)
    (strobing { stage := .qualifier, start := 81400, levels := 0x0B } 81405 gated))
    t.eng.phase = .judging ∧ Memory.read t.mem (16384 + 16 * 37 + 14) = 1 ∧ t.check = gated.check ∧
    t.faults.queue.map (fun f => (f.info.kind, f.info.refA)) = [(.strobeTimeout, some 1)] := by decide
theorem test_wait_expiry : (after .waitExpiry (timed 100 200 300 (inPhase .timing wait station))).eng.fetchIndex = 5 ∧
    (after .waitExpiry (timed 100 200 299 (inPhase .timing wait station))).eng.fetchIndex = 4 := by decide
/-- 2.10 of spec/02: the retry starts again in SETTLE. -/
theorem test_recover_expiry : let t := after .recoverExpiry (timed 100 3000 3100 (inPhase .recover sample station))
    t.eng.attempt = 1 ∧ t.eng.phase = .settle ∧ t.eng.fetchIndex = 4 := by decide

/-- R52: lane 9 is taken as lane 7. -/
theorem test_lanes : let t := after .stepLanes (at' 4 lanes station)
    t.probe.direction = 0xFF00000000000000 ∧ t.probe.polarity = 0x0100000000000000 ∧ t.probe.source = 0x80 := by decide
theorem test_drive : (after .stepDrive (at' 4 drive { station with probe := { station.probe with drive := 0x0000FF0000000000 } })).probe.drive =
    0xF000FF000000000F := by decide
theorem test_sample : (after .stepSample (at' 4 sample station)).eng.phase = .settle := by decide
theorem test_field : (after .stepField (at' 4 fieldRec station)).check =
    { station.check with field := { startLine := 16, width := 8, decode := .gray, signedness := .unsigned, changeLimit := 3,
                                    retryLimit := 7, action := .isolate }, vprev := none } := by decide
/-- 4.10 of spec/04: -5 to 2 is refused under UNSIGNED and admitted under SIGNED. -/
theorem test_limits : (after .stepLimits (at' 4 limits station)).eng.haltReason = some .illegalStep ∧
    (after .stepLimits (at' 4 limits { station with check := { station.check with field := { station.check.field with signedness := .signed } } })).check.limits =
      { mode := .range, a := 0xFFFFFFFB, b := 2 } := by decide
theorem test_railcheck : (after .stepRailcheck (at' 4 railcheck station)).rail.average =
    some { channel := 0, count := 4, sum := 0, rounds := 0 } := by decide
theorem test_guard : ((after .stepGuard (at' 4 guardRec (powered .standby 150 station))).rail.channels.get 2).guard =
    { enabled := true, low := 4750, high := 5250, debounce := 1, action := .isolate, state := .armed, count := 0 } := by decide
theorem test_scale : let c := (after .stepScale (at' 4 scale station)).rail.channels.get 7
    c.gain = 20531 ∧ c.stepLimit = 32767 ∧ c.seed = true := by decide
/-- 6.7 of spec/06, and 6.9: ON to STANDBY with 150 dW declared. -/
theorem test_power_upward : let t := after .stepPower (at' 4 powerOn station)
    t.power.state = .zeroing ∧ t.power.mainTrip = 12000 ∧ t.power.standbyTrip = 800 ∧ t.eng.phase = .awaitPower := by decide
theorem test_power_downward : let t := after .stepPower (at' 4 powerStandby (powered .on 1200 station))
    t.power.state = .standby ∧ t.power.main = false ∧ t.draw.held = 150 ∧ t.power.declared = 150 ∧
    t.line.queue.map (fun f => f.payload) = [[150, 0]] := by decide
theorem test_wait : (after .stepWait (at' 4 wait station)).eng.timer = some { start := 0, span := 200 } := by decide
/-- 2.9 of spec/02: record 40. -/
theorem test_repeat : let t := after .stepRepeat (at' 40 repeat' station)
    t.eng.loops = [{ bodyStart := 41, bodyEnd := 45, remaining := 2 }] ∧ t.eng.fetchIndex = 41 := by decide
/-- R25: a REPEAT whose body is not posted leaves RUNNING, and the pause latch with it. -/
theorem test_repeat_clears_latch :
    let s := at' 40 repeat' station
    let t := after .stepRepeat { s with eng := { s.eng with postIndex := 41, latch := true } }
    t.eng.job = .starved ∧ t.eng.latch = false := by decide
theorem test_loop_end_cascades :
    loopEnd [{ bodyStart := 43, bodyEnd := 45, remaining := 1 }, { bodyStart := 41, bodyEnd := 45, remaining := 2 }] 45 =
    ([{ bodyStart := 41, bodyEnd := 45, remaining := 1 }], 41) := by decide
theorem test_mark : let t := after .stepMark (at' 4 mark station)
    t.eng.fetchIndex = 5 ∧ t.line.queue.map (fun f => f.payload) = [[1, 4, 0, 1, 0, 0, 0, 0, 0, 0]] := by decide
/-- 2.9 of spec/02: ENDED with the halt index past the STOP. -/
theorem test_stop : let t := after .stepStop (at' 46 stop station)
    t.eng.job = .ended ∧ t.eng.haltIndex = some 47 ∧ t.line.queue.map (fun f => f.payload.take 5) = [[1, 46, 0, 1, 0], [0, 5, 0, 47, 0]] := by decide
theorem test_unknown_kind : let t := after .unknownStepKind (at' 4 unknown station)
    t.eng.haltReason = some .illegalStep ∧ Memory.read t.mem 78 = 7 ∧ Memory.read t.mem 79 = 7 := by decide
/-- 8.10 of spec/08. -/
theorem test_judgement_rack :
    let s := judging fault41 (inPhase .judging railcheck { station with check := { station.check with field := { station.check.field with retryLimit := 3 } } })
    let t := after .coincidenceJudgement { s with eng := { s.eng with judged := some 41 } }
    t.faults.queue.map (fun f => (f.cls, f.peerCount)) = [(.rack, 2)] ∧ t.eng.phase = .recover := by decide
theorem test_judgement_board :
    let s := judgingAlone fault41 (inPhase .judging railcheck station)
    let t := after .coincidenceJudgement { s with eng := { s.eng with judged := some 41 } }
    t.faults.queue.map (fun f => (f.cls, f.peerCount)) = [(.board, 1)] ∧ t.eng.haltReason = some .faultHalt ∧
    Memory.read t.mem 78 = 4 ∧ Memory.read t.mem 79 = 1 := by decide
theorem test_fail : (after (.frameFail 3 31 [0, 0, 255, 1, 0]) station).faults.notices = [{ slot := 3, arrival := 0 }] := by decide
/-- 7.7 of spec/07: a CLAIM heard in CLAIMING carries a clear mark. -/
theorem test_claim : ((after (.frameClaim 9 31 [0, 0, 0xE8, 3]) (claiming 1500 0 { station with clock := 5001 })).draw.table.get 9).pending =
    some { asking := 1000, expiry := 5201, beforeMine := false } := by decide
theorem test_draw : ((after (.frameDraw 2 31 [0xF4, 1]) (claiming 1500 0 station)).draw.table.get 2).held = 500 := by decide
theorem test_join_is_answered : (after (.frameJoin 3 31 []) (powered .on 900 station)).line.queue.map (fun f => (f.kind, f.payload)) =
    [(.draw, [0x84, 3])] := by decide
/-- 12.1 of spec/12: budget 2500, Tc 100, W 10, Q 1, settle 2000. -/
theorem test_setup : let t := after (.frameSetup 30 31 [0xC4, 9, 100, 0, 10, 1, 0xD0, 7]) { station with line := LinePort.reset 3 .kbit1000 }
    t.line.isSet = true ∧ t.line.params = { budget := 2500, claimWindow := 100, coincidence := 10, quorum := 1, settleDelay := 2000 } ∧
    t.line.queue.map (fun f => f.kind) = [.join] := by decide
theorem test_duplicate : let t := (after (.duplicateSlotFrame { source := 4, dest := 31, kind := 3, payload := [] })
    { station with line := { station.line with queue := [newFrame .draw 31 [0, 0]] } })
    t.line.duplicate = true ∧ t.line.queue = [] ∧ t.line.notSent = 1 := by decide
set_option maxRecDepth 4000 in
theorem test_bad : (after (.frameReceivedBad { source := 1, dest := 31, kind := 3, payload := [] } { length := 0, check := 0 }) station).line.receivedBad = 1 := by decide
set_option maxRecDepth 4000 in
/-- R156: the frame cut by BIT_ERROR is not counted at the station that cut it; the next bad frame is. -/
theorem test_own_cut_frame :
    let raw : RawFrame := { source := 4, dest := 31, kind := 2, length := 2, payload := [0, 0], check := 0 }
    let cut := after .bitError { station with line := { station.line with queue := [{ newFrame .draw 31 [0, 0] with sending := true }] } }
    (after (.frameReceivedBad raw.toFrame raw.toFraming) cut).line.receivedBad = 0 ∧
    (after (.frameReceivedBad raw.toFrame raw.toFraming) (after (.frameReceivedBad raw.toFrame raw.toFraming) cut)).line.receivedBad = 1 := by decide
theorem test_passed_over : (after (.framePassedOver { source := 1, dest := 30, kind := 12, payload := [5, 0] }) station) = station := by decide
theorem test_pending_expiry : (after (.pendingExpiry 4) { station with clock := 5100, draw := { station.draw with
    table := station.draw.table.set 4 { held := 0, pending := some { asking := 1200, expiry := 5100, beforeMine := true } } } }).draw.table.get 4 =
    { held := 1200, pending := none } := by decide
/-- 7.7 of spec/07 at 5,101: 1000 + 1500 + 1200 is above 3000, and the backoff of slot 4 is 100 + 32. -/
theorem test_claim_refused : let t := after .claimJudgement (claiming 1500 1200 station)
    t.draw.claimState = .deferred ∧ t.draw.backoffTimer = some 5233 ∧ t.line.queue.map (fun f => f.payload) = [[0, 0]] := by decide
/-- 7.7 at 5,374: 1000 + 500 + 1200 is within 3000. -/
theorem test_claim_granted : (after .claimJudgement (claiming 500 1200 station)).draw.held = 1000 := by decide
theorem test_backoff : let s := claiming 0 0 station
    (after .backoffExpiry { s with draw := { s.draw with claimState := .deferred, backoffTimer := some 5101 } }).line.queue.map
      (fun f => (f.kind, f.payload)) = [(.claim, [0, 0, 0xE8, 3])] := by decide
/-- 9.10 of spec/09: the FAIL sheds the REPORT END and stands ahead of the DRAW in transmission. -/
def full910 : LinePort :=
  { station.line with queue := [{ newFrame .draw 31 [] with sending := true }, newFrame .reply 30 [1], newFrame .reply 30 [2],
      newFrame .report 30 [3], newFrame .reply 30 [4], newFrame .reply 30 [5], newFrame .report 30 [6], newFrame .report 30 [7]] }
theorem test_queue_sheds : (full910.offer (newFrame .fail 31 [])).1.queue.map (fun f => f.payload) = [[], [], [1], [2], [3], [4], [5], [6]] ∧
    (full910.offer (newFrame .fail 31 [])).1.queue.map (fun f => f.sending) = [false, true, false, false, false, false, false, false] := by decide
theorem test_frame_begin : (after .frameBegin { station with line := { station.line with queue := [newFrame .draw 31 [0, 0]] } }).line.queue.map
    (fun f => f.sending) = [true] := by decide
theorem test_contention_lost : (after .contentionLost { station with line := { station.line with queue := [{ newFrame .draw 31 [0, 0] with sending := true }] } }).line.queue =
    [newFrame .draw 31 [0, 0]] := by decide
theorem test_bit_error_drops_at_sixteen : let t := after .bitError { station with line := { station.line with
    queue := [{ newFrame .draw 31 [0, 0] with sending := true, attempts := 15 }] } }
    t.line.queue = [] ∧ t.line.notSent = 1 := by decide
theorem test_frame_sent : (after .frameSent { station with line := full910 }).line.queue.length = 7 := by decide
def ownClaimOut : State :=
  { station with clock := 5000, line := { station.line with queue := [{ newFrame .claim 31 [0, 0, 0xB0, 4] with sending := true }] },
                 draw := { station.draw with claimState := .queued, mark := .current, claim := some { heldNow := 0, asking := 1200, t0 := none } } }
theorem test_own_claim_taken : let t := after .ownClaimTaken ownClaimOut
    t.draw.claimState = .claiming ∧ t.draw.windowTimer = some 5100 ∧ t.draw.claim = some { heldNow := 0, asking := 1200, t0 := some 5000 } := by decide
theorem test_request_arrives : (after (.benchRequestArrival { source := 30, dest := 4, kind := 9, payload := [1] }) station).bench =
    { queue := [{ kind := .query, payload := [1], toAll := false }], service := .checking, discarded := 0 } := by decide
/-- R12: with K at 0 and P at 9, record 8 is live and record 9 is not. -/
theorem test_load_protected : (after .serveLoad (serving .load [143, 0, 1] (at' 0 mark station))).line.queue.map (fun f => f.payload) = [[5, 1, 3]] ∧
    (after .serveLoad (serving .load [144, 0, 1] (at' 0 mark station))).bench.service = .waitingPort := by decide
theorem test_post : (after .servePost (serving .post [47, 0] station)).eng.postIndex = 47 ∧
    (after .servePost (serving .post [47, 0] station)).line.queue.map (fun f => f.payload) = [[6, 0]] := by decide
theorem test_peek_range : (after .servePeek (serving .peek [0xFF, 0x5F, 2] station)).line.queue.map (fun f => f.payload) = [[7, 1, 6]] ∧
    (after .servePeek (serving .peek [0xFF, 0x5F, 1] station)).port.owner = .bench := by decide
def granted (k : FrameKind) (p : List Byte) : State :=
  { station with port := { owner := .bench, waits := [] },
                 bench := { queue := [{ kind := k, payload := p, toAll := false }], service := .waitingPort, discarded := 0 } }
theorem test_grant : Memory.read (after .benchAccessGrant (granted .load [2, 1, 0xAA, 0xBB])).mem 259 = 0xBB ∧
    (after .benchAccessGrant { granted .peek [2, 1, 2] with mem := [(259, 0xBB)] }).line.queue.map (fun f => f.payload) =
      [[2, 0x81, 0, 0xBB]] := by decide
theorem test_start : (after .serveStart (serving .control [1] station)).eng.job = .starved ∧
    (after .serveStart (serving .control [1] { station with eng := { station.eng with postIndex := 1 } })).eng.copy = some 0 := by decide
theorem test_pause : (after .servePause (serving .control [2] (at' 4 wait station))).eng.latch = true := by decide
theorem test_resume : (after .serveResume (serving .control [3] { station with eng := { station.eng with job := .paused, postIndex := 1 } })).eng.job = .running := by decide
theorem test_abort : let t := after .serveAbort (serving .control [4] (powered .on 900 (at' 4 wait station)))
    t.eng.haltReason = some .aborted ∧ t.power.state = .off ∧ t.draw.held = 0 ∧ Memory.read t.mem 78 = 6 ∧
    t.line.queue.map (fun f => f.kind) = [.draw, .report, .reply] := by decide
theorem test_clear : let t := after .serveClear (serving .control [5] { powered .on 900 station with eng := { station.eng with job := .halted, postIndex := 5 } })
    t.eng.job = .idle ∧ t.eng.fetchIndex = 5 ∧ t.power.state = .off ∧ t.draw.held = 0 := by decide
theorem test_ring : (after .serveRing (serving .control [6, 0xFF, 3] station)).eng.postIndex = 1023 := by decide
theorem test_unknown_action : (after .serveUnknownAction (serving .control [7] station)).line.queue.map (fun f => f.payload) = [[8, 1, 6, 7]] := by decide
/-- 12.5 of spec/12: HALTED, ISOLATED, F 4, P 9, K 4, loop depth 1, fault count 2. -/
theorem test_status : (after .serveQueryStatus (serving .query [1] { station with
    eng := { station.eng with job := .halted, haltReason := some .isolated, haltIndex := some 4, fetchIndex := 4, postIndex := 9,
                              loops := [{ bodyStart := 4, bodyEnd := 6, remaining := 1 }] },
    faults := { station.faults with queue := [{ fault41 with cls := .rack }, { fault41 with cls := .board }] } })).line.queue.map (fun f => f.payload) =
    [[9, 3, 68, 2, 4, 0, 4, 0, 9, 0, 4, 0, 32, 0, 0, 0, 0, 0, 0, 0, 2, 0, 0, 0, 0, 0, 0, 0, 0, 0, 0]] := by decide
theorem test_readings : (after .serveQueryReadings (serving .query [2] rails511)).line.queue.map (fun f => f.payload.take 6) =
    [[9, 4, 0xE8, 0x2E, 0x8C, 0x23]] := by decide
theorem test_query_unknown : (after .serveQueryUnknown (serving .query [3] station)).line.queue.map (fun f => f.payload) = [[9, 1, 6]] := by decide
theorem test_fault_read : (after .serveFaultRead (serving .faultRead [1] (judging fault41 station))).line.queue.map (fun f => f.payload) = [[10, 6, 1]] ∧
    (after .serveFaultRead (serving .faultRead [0] (judging fault41 station))).line.queue.map (fun f => f.payload.length) = [27] := by decide
/-- 8.11 of spec/08 in small: the trim stops at the first PROVISIONAL record. -/
theorem test_fault_trim : (after .serveFaultTrim (serving .faultTrim [30] { station with faults := { station.faults with
    queue := [{ fault41 with cls := .rack }, { fault41 with cls := .board }, fault41] } })).faults.queue = [fault41] := by decide

/-! ### The field path -/

/-- 4.8 of spec/04: Gray 1011 on lines 16 to 19 is 13, two above 11, and within 10 to 14. -/
def gray48 : CheckContext :=
  { field := { startLine := 16, width := 4, decode := .gray, signedness := .unsigned, changeLimit := 3, retryLimit := 0, action := .halt },
    limits := { mode := .range, a := 10, b := 14 }, vprev := some 11 }
theorem test_gray_field : fieldPath gray48 0xB0000 = (.pass, { gray48 with vprev := some 13 }) := by decide
/-- 4.9 of spec/04, pass 6: 9 against 1 folds to -8. -/
theorem test_field_jump : (fieldPath { gray48 with vprev := some 1 } 0xD0000).1 = .jump := by decide
/-- 4.11 of spec/04. -/
theorem test_masked_equality :
    let c : CheckContext := { field := { State.reset.check.field with startLine := 24 }, limits := { mode := .equal, a := 336, b := 240 }, vprev := none }
    (fieldPath c 0x5F000000).1 = .pass ∧ (fieldPath c 0x63000000).1 = .mismatch := by decide
set_option maxRecDepth 8000 in
/-- R153: a DRAW of 500 from station 2, bit by bit, with a dominant bit turned recessive, is received bad. -/
theorem test_frame_tracked : rawBad (trackFrame (lineBits 1 { source := 2, dest := 31, kind := 2, payload := [0xF4, 1] })) = false ∧
    rawBad (trackFrame ((lineBits 1 { source := 2, dest := 31, kind := 2, payload := [0xF4, 1] }).set 14 true)) = true := by decide


/-! ### The two stops -/

theorem test_absent_address : exec .benchAccessGrant (granted .peek [0xFF, 0x5F, 2]) = .fault .absentAddress := rfl
theorem test_power_in_zeroing : exec .stepPower (at' 4 powerOff (powered .zeroing 0 station)) = .fault .powerStateAtDispatch := rfl

/-! ### Witnesses

Each theorem shows concrete states and operands that meet the hypotheses of the statement it is named after, clause by
clause, at the ends of the ranges that a clause names. -/

/-- The command waiting alone. -/
def queued (i : Instr) (s : State) : State := { s with pending := [i] }
/-- Seven frames in the transmit queue: one place is left. -/
def seven : State := { station with line := { full910 with queue := full910.queue.tail } }
/-- `n` classified records ahead in the fault queue. -/
def crowded (n : Nat) (s : State) : State :=
  { s with faults := { s.faults with queue := List.replicate n { fault41 with cls := .board } ++ s.faults.queue } }
def benchOwns (s : State) : State := { s with port := { s.port with owner := .bench } }

theorem witness_StepRunsTheOldestCommand : State.reset.pending = [] := rfl

theorem witness_StepKeepsMemoryForm :
    Memory.wf (queued .benchAccessGrant (granted .load [2, 1, 0xAA, 0xBB])).mem ∧
    step (queued .benchAccessGrant (granted .load [2, 1, 0xAA, 0xBB])) =
      .next (after .benchAccessGrant (granted .load [2, 1, 0xAA, 0xBB])) := ⟨by decide, rfl⟩

theorem witness_StepKeepsSwitchesHeld :
    (queued .claimJudgement (moving (move67 .claiming (some 10016)) .claiming (claiming 500 1200 station))).SwitchesHeld ∧
    step (queued .claimJudgement (moving (move67 .claiming (some 10016)) .claiming (claiming 500 1200 station))) =
      .next (after .claimJudgement (moving (move67 .claiming (some 10016)) .claiming (claiming 500 1200 station))) := by
  refine ⟨⟨by decide, ?_, ?_⟩, rfl⟩ <;> · intro _ h; injection h with h; subst h; decide

theorem witness_StepKeepsTheQueuesInOrderAndBounds :
    (queued .coincidenceJudgement (crowded 31 (judging fault41 station))).FaultQueueOrdered ∧
    step (queued .coincidenceJudgement (crowded 31 (judging fault41 station))) =
      .next (after .coincidenceJudgement (crowded 31 (judging fault41 station))) ∧
    (queued .frameSent { station with line := full910 }).QueuesBounded ∧
    step (queued .frameSent { station with line := full910 }) = .next (after .frameSent { station with line := full910 }) :=
  ⟨by unfold State.FaultQueueOrdered; decide, rfl, by unfold State.QueuesBounded; decide, rfl⟩

theorem witness_StepKeepsCheckAndRailRanges :
    (queued .stepField (at' 4 fieldEdge { station with check := gray48 })).ContextReadable ∧
    step (queued .stepField (at' 4 fieldEdge { station with check := gray48 })) =
      .next (after .stepField (at' 4 fieldEdge { station with check := gray48 })) ∧
    (queued .zeroCaptureEnd (zeroing 3200 48 1200)).RailsInRange ∧
    step (queued .zeroCaptureEnd (zeroing 3200 48 1200)) = .next (after .zeroCaptureEnd (zeroing 3200 48 1200)) := by
  refine ⟨⟨by decide, by decide, by decide, ?_⟩, rfl, ?_, rfl⟩
  · intro _ h; injection h with h; subst h; decide
  · unfold State.RailsInRange Channel.InRange; decide

theorem witness_StepKeepsServiceAndHaltFields :
    (queued .serveClear (serving .control [5] station)).ServiceConsistent ∧
    step (queued .serveClear (serving .control [5] station)) = .next (after .serveClear (serving .control [5] station)) ∧
    (queued .stepStop (at' 46 stop station)).HaltFieldsRight ∧
    step (queued .stepStop (at' 46 stop station)) = .next (after .stepStop (at' 46 stop station)) :=
  ⟨by unfold State.ServiceConsistent; decide, rfl, ⟨rfl, rfl⟩, rfl⟩

/-- A zero capture just complete in an upward move with nothing held, and a peer's CLAIM at station 4. -/
theorem witness_StepKeepsPowerStatesAndTheOwnClaim :
    (queued .zeroCaptureEnd (zeroing 192 48 0)).PowerInOrder ∧
    step (queued .zeroCaptureEnd (zeroing 192 48 0)) = .next (after .zeroCaptureEnd (zeroing 192 48 0)) ∧
    (queued (.frameClaim 9 31 [0, 0, 0xE8, 3]) station).OwnEntryUnused ∧
    step (queued (.frameClaim 9 31 [0, 0, 0xE8, 3]) station) = .next (after (.frameClaim 9 31 [0, 0, 0xE8, 3]) station) := by
  refine ⟨⟨⟨rfl, _, rfl, rfl, rfl⟩, ?_, ?_, by decide, by decide, by decide, by decide, by decide, by decide⟩, rfl, ?_, rfl⟩
  · unfold DrawUnit.InOrder; decide
  · intro m h; injection h with h; subst h; decide
  · unfold State.OwnEntryUnused; decide

/-- F on the common body end of two active loops across the ring's wrap, the outer one in its last pass. -/
def nested : State :=
  let s := at' 1 mark station
  { s with eng := { s.eng with loops := [{ bodyStart := 0, bodyEnd := 1, remaining := 2 },
                                         { bodyStart := 1022, bodyEnd := 1, remaining := 1 }] } }
theorem witness_StepKeepsTheRingInOrder :
    (queued .stepMark nested).ServiceConsistent ∧ (queued .stepMark nested).PowerInOrder ∧
    (queued .stepMark nested).RingInOrder ∧ step (queued .stepMark nested) = .next (after .stepMark nested) := by
  refine ⟨by unfold State.ServiceConsistent; decide, ⟨⟨rfl, rfl, rfl⟩, ?_, (fun _ h => nomatch h), ?_⟩, ?_, rfl⟩
  · unfold DrawUnit.InOrder; decide
  · refine ⟨by decide, by decide, by decide, by decide, by decide, by decide⟩
  · exact ⟨by decide, by decide, by decide, by decide, by decide, by decide, (fun _ h => nomatch h), by decide, by decide,
      (fun h => nomatch h), (fun _ _ _ _ h => nomatch h)⟩

/-- A MARK with the line SET and the duplicate flag set; a SETUP that sets the line; a JOIN that sets the flag. -/
def doubled : State := { station with line := { station.line with duplicate := true } }
theorem witness_ClockPostIndexStrapsAndSetupMoveOnlyByTheirCommands :
    (exec .stepMark (at' 4 mark doubled) = .next (after .stepMark (at' 4 mark doubled)) ∧
      (∀ slot rate, Instr.stepMark ≠ .reset slot rate) ∧
      (at' 4 mark doubled).line.isSet = true ∧ (at' 4 mark doubled).line.duplicate = true) ∧
    (let setup := Instr.frameSetup 30 31 [0xC4, 9, 100, 0, 10, 1, 0xD0, 7]
     exec setup State.reset = .next (after setup State.reset) ∧ (∀ slot rate, setup ≠ .reset slot rate) ∧
     (after setup State.reset).line.isSet ≠ State.reset.line.isSet) ∧
    (exec (.frameJoin 4 31 []) station = .next (after (.frameJoin 4 31 []) station) ∧
      (after (.frameJoin 4 31 []) station).line.duplicate ≠ station.line.duplicate) :=
  ⟨⟨rfl, (fun _ _ h => nomatch h), rfl, rfl⟩, ⟨rfl, (fun _ _ h => nomatch h), by decide⟩, rfl, by decide⟩

theorem witness_RecordOperandsWrittenOnlyByLoad :
    exec .stepMark (at' 4 mark station) = .next (after .stepMark (at' 4 mark station)) ∧ Memory.wf (at' 4 mark station).mem ∧
    (∀ slot rate, Instr.stepMark ≠ .reset slot rate) ∧ Instr.stepMark ≠ .benchAccessGrant ∧
    16381 < 16384 ∧ 16381 % 16 < 14 := ⟨rfl, by decide, (fun _ _ h => nomatch h), by decide, by decide, by decide⟩

theorem witness_SettingsChangeOnlyByTheirCommands :
    exec .zeroCaptureEnd (zeroing 192 48 1200) = .next (after .zeroCaptureEnd (zeroing 192 48 1200)) ∧
    (∀ slot rate, Instr.zeroCaptureEnd ≠ .reset slot rate) ∧ ((0 : Fin 8) ≠ 1 ∧ (0 : Fin 8) ≠ 3) ∧
    (∀ l, Instr.zeroCaptureEnd ≠ .settleEnd l) ∧ (∀ l, Instr.zeroCaptureEnd ≠ .holdOffRelease l) ∧
    (∀ l, Instr.zeroCaptureEnd ≠ .qualifierEdge l) ∧
    ((29 : Fin 30).val ≠ (zeroing 192 48 1200).line.slot.toNat ∧ Instr.zeroCaptureEnd ≠ .pendingExpiry 29 ∧
      ∀ f, frameRead .zeroCaptureEnd = some f → f.source.toNat = (29 : Fin 30).val → ¬ isPeerFrame f ∨ f.kind = 0) ∧
    ((4 : Fin 30).val = (zeroing 192 48 1200).line.slot.toNat ∧
      ((zeroing 192 48 1200).draw.table.get 4).pending = none) :=
  ⟨rfl, (fun _ _ h => nomatch h), by decide, (fun _ h => nomatch h), (fun _ h => nomatch h), (fun _ h => nomatch h),
   ⟨by decide, by decide, fun _ h => nomatch h⟩, by decide⟩

theorem witness_SwitchesCloseAndDrawRisesOnlyWhereTheRulesSay :
    exec .zeroCaptureEnd (zeroing 192 48 1200) = .next (after .zeroCaptureEnd (zeroing 192 48 1200)) ∧
    (zeroing 192 48 1200).power.standby = false ∧ (after .zeroCaptureEnd (zeroing 192 48 1200)).power.standby = true ∧
    (zeroing 192 48 1200).power.main = false ∧ (after .zeroCaptureEnd (zeroing 192 48 1200)).power.main = true :=
  ⟨rfl, by decide, by decide, by decide, by decide⟩

theorem witness_TrackedFrameIsTheFrameSent :
    ({ source := 4, dest := 31, kind := 3, payload := [] } : Frame).wf = true ∧
    ({ source := 4, dest := 30, kind := 9, payload := List.replicate 32 0xFF } : Frame).wf = true := by decide

/-- One state for each clause: DISABLED; INACTIVE, ARMED and RESTING on an active and on an inactive channel; a capture
before and at its sixteenth round, an average before and at its count. -/
theorem witness_UpdateRoundJudgesGuardsAndCountsDetections :
    let of := fun (s : State) => ((s.rail.channels.get 2).guard.state, s.power.state)
    let summed := fun n => ({ station with rail := { station.rail with
      zeroCapture := some { onMain := true, onStandby := false, sumMain := 0, sumStandby := 0, rounds := n } } } : State)
    (of station = (.disabled, .off) ∧
      of { guarded 0 .inactive 5000 with power := station.power } = (.inactive, .off) ∧
      of { guarded 2 .armed 4750 with power := station.power } = (.armed, .off) ∧
      of (guarded 0 .inactive 5251) = (.inactive, .standby) ∧ of (guarded 2 .armed 4749) = (.armed, .standby) ∧
      of (guarded 2 .resting 5250) = (.resting, .standby)) ∧
    ((summed 15).rail.zeroCapture.any (fun z => decide (z.rounds < 16)) = true ∧
      (summed 16).rail.zeroCapture.any (fun z => decide (16 ≤ z.rounds)) = true ∧ station.rail.zeroCapture = none) ∧
    ((after .stepRailcheck (at' 4 railcheck station)).rail.average.any (fun a => decide (a.rounds < a.count)) = true ∧
      (averaging 45000 0).rail.average.any (fun a => decide (a.count ≤ a.rounds)) = true ∧ station.rail.average = none) := by
  decide

theorem witness_GuardFaultIsRecordedAndGuardRearms :
    let s := crowded 31 { guarded 3 .armed 4680 with line := seven.line }
    (s.rail.channels.get 2).guard.state = .armed ∧ (s.rail.channels.get 2).guard.debounce ≤ (s.rail.channels.get 2).guard.count ∧
    s.faults.queue.length < 32 ∧ s.line.accepts ∧
    ((guarded 3 .resting 4780).rail.channels.get 2).guard.state = .resting ∧
    ((guarded 3 .resting 4780).rail.channels.get 2).guard.debounce ≤ ((guarded 3 .resting 4780).rail.channels.get 2).guard.count := by
  unfold LinePort.accepts; decide

/-- By MAIN with room for one record, by the standby channel with MAIN open, with the queue full of PROVISIONAL ones, and
not due: MAIN open at the count 2, MAIN closed at the count 1. -/
def trippingStandby : State :=
  let s := powered .standby 150 station
  { s with rail := { s.rail with tripStandby := 2 } }
theorem witness_TripPowersDownRecordsAndHalts :
    let flood := { trippingStandby with faults := { station.faults with queue := List.replicate 32 fault41 } }
    ((crowded 31 tripping).power.main = true ∧ (crowded 31 tripping).rail.tripMain = 2) ∧
    (crowded 31 tripping).power.move ≠ none ∧ (crowded 31 tripping).faults.queue.length < 32 ∧
    (crowded 31 tripping).eng.job.active = true ∧ Memory.wf (crowded 31 tripping).mem ∧
    (trippingStandby.power.standby = true ∧ trippingStandby.rail.tripStandby = 2 ∧ trippingStandby.power.main = false) ∧
    (32 ≤ flood.faults.queue.length ∧ ∀ f ∈ flood.faults.queue, f.cls = .provisional) ∧
    (let opened := { tripping with power := { tripping.power with main := false } }
     let once := { tripping with rail := { tripping.rail with tripMain := 1 } }
     ∀ s ∈ [opened, once], ¬ (s.power.main = true ∧ s.rail.tripMain = 2) ∧
       ¬ (s.power.standby = true ∧ s.rail.tripStandby = 2)) := by decide

theorem witness_OverdrawIsolatesRecordsAndHalts :
    overdrawing.rail.overdrawCount = 50 ∧ overdrawing.power.state = .on ∧ (crowded 31 overdrawing).faults.queue.length < 32 ∧
    (crowded 31 overdrawing).rail.overdrawCount = 50 ∧ Memory.wf overdrawing.mem ∧
    ({ overdrawing with power := station.power } : State).power.state ≠ .standby ∧
    ({ overdrawing with power := station.power } : State).power.state ≠ .on := by decide

/-- A due guard fault and a RAILCHECK below its window, each at a queue of 32: one record classified among PROVISIONAL ones,
and none, with the job active and not. -/
def full32 (fs : List FaultRecord) (s : State) : State :=
  { s with faults := { s.faults with queue := fs ++ List.replicate (32 - fs.length) fault41 } }
theorem witness_FaultsAtAFullQueueDiscardOrFlood :
    let lost := { fault41 with cls := .rack }
    let due := guarded 3 .armed 4680
    (∀ fs ∈ [[], [lost]], ((full32 fs due).rail.channels.get 2).guard.state = .armed ∧
      ((full32 fs due).rail.channels.get 2).guard.debounce ≤ ((full32 fs due).rail.channels.get 2).guard.count ∧
      32 ≤ (full32 fs due).faults.queue.length ∧ (full32 fs due).line.accepts) ∧
    ((full32 [lost] due).faults.queue = [] ++ lost :: List.replicate 31 fault41 ∧ lost.cls ≠ .provisional) ∧
    ((∀ f ∈ (full32 [] due).faults.queue, f.cls = .provisional) ∧ (full32 [] due).eng.job.active = false ∧
      (full32 [] (at' 4 mark due)).eng.job.active = true) ∧
    (∀ fs ∈ [[], [lost]], (full32 fs (averaging 45000 0)).InPhase .average railcheck ∧
      (full32 fs (averaging 45000 0)).rail.average = some { channel := 0, count := 4, sum := 45000, rounds := 4 } ∧
      (full32 fs (averaging 45000 0)).line.accepts) ∧
    ((2 * 45000 + 4) / (2 * 4) < (halfOf railcheck 4).toInt ∧ (full32 [] (averaging 45000 0)).power.move = none) := by
  unfold State.InPhase LinePort.accepts; dsimp only
  refine ⟨?_, ?_, ?_, ?_, ?_⟩ <;> decide

/-- The premises common to the statements on dispatched records, for a record with REPORT and a bench access asked for. -/
def asked (r : Record) : State := { at' 1023 r station with port := { owner := .asked, waits := [] } }
theorem witness_dispatch (r : Record) :
    (asked r).AwaitsDispatch r ∧ Memory.wf (asked r).mem ∧ (asked r).PortFreeFor r :=
  ⟨⟨rfl, rfl, rfl, rfl⟩, (by show Memory.wf []; decide), (fun _ h => nomatch h)⟩

/-- Lane 9, above the range, with `witness_dispatch`. -/
theorem witness_LanesAndDriveSetTheProbeLanes :
    kindOf lanes = 1 ∧ kindOf drive = 2 ∧ reportFlag lanes = true ∧ (63 : Nat) < 64 ∧ (7 : Nat) < 8 := by decide
/-- The lowest width, and width 32 up to line 63; LIMITS of each mode, RANGE with the lower limit equal to the upper. -/
theorem witness_FieldAndLimitsReplaceTheirPartOfTheContext :
    (kindOf fieldEdge = 4 ∧ 1 ≤ (byteOf fieldEdge 3).toNat ∧ (byteOf fieldEdge 3).toNat ≤ 32 ∧
      (byteOf fieldEdge 2).toNat + (byteOf fieldEdge 3).toNat ≤ 64) ∧
    (let r := record [4, 0, 63, 1]
     kindOf r = 4 ∧ 1 ≤ (byteOf r 3).toNat ∧ (byteOf r 3).toNat ≤ 32 ∧ (byteOf r 2).toNat + (byteOf r 3).toNat ≤ 64) ∧
    (kindOf limitsEqual = 5 ∧ byteOf limitsEqual 2 ≠ 2) ∧
    (let r := record [5, 0, 2, 0, 9, 0, 0, 0, 9, 0, 0, 0]
     kindOf r = 5 ∧ byteOf r 2 = 2 ∧ ¬ (wordOf r 8).toNat < (wordOf r 4).toNat ∧ ¬ (wordOf r 8).toInt < (wordOf r 4).toInt) := by
  decide
theorem witness_GuardAndScaleSetOneChannel : kindOf guardRec = 7 ∧ kindOf scale = 8 ∧ (byteOf scale 2).toNat = 255 := by decide
theorem witness_MarkWaitSampleAndRailcheckAreDispatched :
    kindOf mark = 12 ∧ (kindOf waitZero = 10 ∧ wordOf waitZero 2 = 0) ∧ (kindOf wait = 10 ∧ wordOf wait 2 ≠ 0) ∧
    kindOf sample = 3 ∧ kindOf railcheck = 6 := by decide
theorem witness_StopEndsTheJob : kindOf stop = 13 := by decide

/-- F at 1023 and a body of five records, just posted and just not; a count of 0 at full depth. -/
def body (posted : Nat) (r : Record) : State :=
  { asked r with eng := { (asked r).eng with postIndex := (asked r).eng.fetchIndex + BitVec.ofNat 10 posted } }
theorem witness_RepeatRunsOnceItsBodyIsPostedAndLoopsEnd :
    (asked repeat').AwaitsDispatch repeat' ∧ kindOf repeat' = 11 ∧ (byteOf repeat' 4).setWidth 10 ≠ (0 : RingIndex) ∧
    (asked repeat').eng.loops = [] ∧ halfOf repeatSkip 2 = 0 ∧ kindOf repeatSkip = 11 ∧ halfOf repeat' 2 ≠ 0 ∧
    (let s := body 5 repeat'
     (s.eng.postIndex - s.eng.fetchIndex).toNat ≤ ((byteOf repeat' 4).setWidth 10 : RingIndex).toNat) ∧
    (let s := body 6 repeat'
     ((byteOf repeat' 4).setWidth 10 : RingIndex).toNat < (s.eng.postIndex - s.eng.fetchIndex).toNat) ∧
    (let l := { bodyStart := 1020, bodyEnd := 4, remaining := 1 : LoopEntry }
     ((1023 + 5 : RingIndex) - l.bodyStart).toNat ≤ (l.bodyEnd - l.bodyStart).toNat) := by
  unfold State.AwaitsDispatch; decide

/-- One record for each refusal, each at the edge of its range. -/
theorem witness_RecordsThatCannotRunAreRefused :
    kindOf (record [0, 1]) = 0 ∧ 13 < kindOf unknown ∧
    (let r := record [4, 0, 0, 0]; kindOf r = 4 ∧ byteOf r 3 = 0) ∧
    (let r := record [4, 0, 0, 33]; kindOf r = 4 ∧ 32 < (byteOf r 3).toNat) ∧
    (let r := record [4, 0, 33, 32]; kindOf r = 4 ∧ 64 < (byteOf r 2).toNat + (byteOf r 3).toNat) ∧
    (kindOf limits = 5 ∧ byteOf limits 2 = 2 ∧ (wordOf limits 8).toNat < (wordOf limits 4).toNat) ∧
    (let r := record [5, 0, 2, 0, 2, 0, 0, 0, 0xFB, 0xFF, 0xFF, 0xFF]
     kindOf r = 5 ∧ byteOf r 2 = 2 ∧ (wordOf r 8).toInt < (wordOf r 4).toInt) ∧
    (let r := record [9, 0, 1, 0, 0, 0]; kindOf r = 9 ∧ byteOf r 2 = 1 ∧ halfOf r 4 = 0) ∧
    (let r := record [9, 0, 2, 0, 0, 0]; kindOf r = 9 ∧ byteOf r 2 = 2 ∧ halfOf r 4 = 0) ∧
    (let r := record [11, 0, 1, 0, 0]; kindOf r = 11 ∧ byteOf r 4 = 0) ∧
    (let l := { bodyStart := 1020, bodyEnd := 3, remaining := 1 : LoopEntry }
     (l.bodyEnd - l.bodyStart).toNat < ((1023 + 5 : RingIndex) - l.bodyStart).toNat) ∧
    (halfOf repeat' 2 ≠ 0 ∧ 4 ≤ (List.replicate 4 ({ bodyStart := 1020, bodyEnd := 4, remaining := 1 } : LoopEntry)).length) := by
  decide

/-- WAIT just out, at TIMING with the port free and with the bench holding it; RECOVER with no delay on three kinds. -/
def waited : State := timed 100 200 300 (inPhase .timing wait station)
theorem witness_WaitAndRecoverTimersRunOut :
    (waited.eng.timer = some { start := 100, span := 200 } ∧ 200 ≤ (waited.clock - 100).toNat ∧ waited.InPhase .timing wait ∧
      Memory.wf waited.mem ∧ waited.PortFreeFor wait) ∧
    ((benchOwns waited).InPhase .timing wait ∧ (benchOwns waited).port.owner = .bench ∧ reportFlag wait = true ∧
      (benchOwns waited).eng.timer = waited.eng.timer ∧ (benchOwns waited).clock = waited.clock) ∧
    (let s := fun r => timed 0xFFFFFFFF 0 0xFFFFFFFF (inPhase .recover r station)
     (s sample).InPhase .recover sample ∧ (s sample).port.waits = [] ∧ kindOf sample = 3 ∧
     (s railcheck).InPhase .recover railcheck ∧ kindOf railcheck = 6 ∧
     (s powerOn).InPhase .recover powerOn ∧ kindOf powerOn = 9 ∧
     (s sample).eng.timer = some { start := 0xFFFFFFFF, span := 0 } ∧ 0 ≤ ((s sample).clock - 0xFFFFFFFF).toNat) := by
  unfold State.InPhase State.PortFreeFor; decide

/-- The dispatched POWER record on a powered board. -/
def board (p : PowerState) (held declared : Draw) (r : Record) : State :=
  let s := powered p held (at' 4 r station)
  { s with power := { s.power with declared := declared } }
/-- OFF from OFF and from ON; the same target at an equal and at a lower declared draw; ON to STANDBY at the held draw and
below it. `powerStandby` declares 150 dW, `powerOn` 1200 dW. -/
theorem witness_PowerRecordsThatCompleteAtOnce :
    let ready := fun (s : State) r => s.AwaitsDispatch r ∧ Memory.wf s.mem ∧ s.PortFreeFor r ∧ kindOf r = 9 ∧ s.power.move = none
    (ready (board .off 0 0 powerOff) powerOff ∧ byteOf powerOff 2 ≠ 1 ∧ byteOf powerOff 2 ≠ 2) ∧
    ready (board .on 900 900 powerOff) powerOff ∧
    (ready (board .standby 150 150 powerStandby) powerStandby ∧ byteOf powerStandby 2 = 1 ∧ halfOf powerStandby 4 = 150) ∧
    ready (board .standby 151 151 powerStandby) powerStandby ∧
    (ready (board .on 1201 1201 powerOn) powerOn ∧ byteOf powerOn 2 = 2 ∧ halfOf powerOn 4 = 1200) ∧
    ready (board .on 150 150 powerStandby) powerStandby ∧ ready (board .on 151 151 powerStandby) powerStandby ∧
    ((benchOwns (board .on 1201 1201 powerOn)).AwaitsDispatch powerOn ∧ reportFlag powerOn = true) := by
  unfold State.AwaitsDispatch State.PortFreeFor; dsimp only
  refine ⟨?_, ?_, ?_, ?_, ?_, ?_, ?_, ?_⟩ <;> decide
/-- From OFF to each target and from STANDBY to ON; the declared draw one above what is declared or held. -/
theorem witness_PowerRecordsThatStartAMove :
    let ready := fun (s : State) r => s.AwaitsDispatch r ∧ kindOf r = 9 ∧ halfOf r 4 ≠ 0 ∧ s.draw.mark = .none_ ∧ s.line.accepts
    (let s := { board .standby 149 149 powerStandby with draw := { station.draw with held := 149, mark := .stale } }
     s.AwaitsDispatch powerStandby ∧ s.draw.mark = .stale) ∧
    (ready (board .off 0 0 powerOn) powerOn ∧ byteOf powerOn 2 = 2) ∧
    (ready (board .off 0 0 powerStandby) powerStandby ∧ byteOf powerStandby 2 = 1) ∧
    ready (board .standby 150 150 powerOn) powerOn ∧
    ready (board .standby 149 149 powerStandby) powerStandby ∧ ready (board .on 1199 1199 powerOn) powerOn ∧
    ready (board .on 149 149 powerStandby) powerStandby := by
  unfold State.AwaitsDispatch LinePort.accepts; dsimp only
  refine ⟨?_, ?_⟩ <;> decide

/-- Candidates at 200, with less and with as much held as asked for; a candidate at 201 on either channel. -/
theorem witness_ZeroCaptureEndsDoneOrInBackfeed :
    (∀ held, (zeroing 3207 48 held).rail.zeroCapture =
        some { onMain := true, onStandby := true, sumMain := 3207, sumStandby := 48, rounds := 16 } ∧
      (zeroing 3207 48 held).power.move = some (move67 .zeroing none)) ∧
    (3207 + 8) / 16 ≤ 200 ∧ (48 + 8) / 16 ≤ 200 ∧ 200 < (3208 + 8) / 16 ∧
    ((zeroing 3207 48 1200).draw.held = 1200 ∧ (move67 .zeroing none).asked = 1200) ∧
    ((zeroing 3207 48 0).draw.mark = .none_ ∧ (zeroing 3207 48 0).line.accepts) ∧
    (let s := zeroing 48 3208 0
     s.eng.job = .running ∧ s.eng.copy = some powerOn ∧ s.RecordsPlainly ∧ s.rail.zeroCapture.isSome = true ∧
     s.draw.claimState = .none_ ∧ (full32 [] s).faults.floods ∧ ¬ s.faults.floods) := by
  refine ⟨fun _ => ⟨rfl, rfl⟩, ?_⟩
  unfold State.RecordsPlainly LinePort.accepts Recorder.floods; decide

theorem witness_RampExpiryReachesTheTarget :
    ramping.power.move = some (move67 .ramping (some 10016)) ∧ ramping.power.rampTimer = some { start := 10358, span := 50 } ∧
    50 ≤ (ramping.clock - 10358).toNat ∧ ramping.InPhase .awaitPower powerOn ∧ Memory.wf ramping.mem ∧
    ramping.PortFreeFor powerOn ∧ (benchOwns ramping).InPhase .awaitPower powerOn ∧ reportFlag powerOn = true := by
  unfold State.InPhase State.PortFreeFor; decide

/-- The four ends: SETTLE, the hold-off wait, and the qualifier line on its level; BUSY is line 8, the qualifier line 9. -/
def settling (r : Record) : State :=
  strobing { stage := .settle, start := 81400, levels := 0 } 81400 (inPhase .settle r { gated with eng := station.eng })
theorem witness_StrobeCompletesOnItsCapturedLevels :
    let plain := fun s : State => { s with probe := { s.probe with source := 0 } }
    let s1 := plain (settling sampleOpen)
    let s2 := plain (strobing { stage := .holdOff, start := 81400, levels := 0 } 81402 gated)
    let s3 := strobing { stage := .qualifier, start := 81400, levels := 0x0B } 81404 gated
    (s1.InPhase .settle sampleOpen ∧ settleElapsed 81400 s1.clock (halfOf sampleOpen 2).toNat = true ∧
      63 < (byteOf sampleOpen 7).toNat ∧ s1.probe.source = 0 ∧ Memory.wf s1.mem ∧ s1.port.owner ≠ .bench ∧ s1.RecordsPlainly) ∧
    (s2.InPhase .strobe sample ∧ s2.probe.source = 0 ∧
      ((0x10B : Levels) ^^^ s2.probe.polarity).getLsbD (byteOf sample 7).toNat = false ∧ s2.RecordsPlainly) ∧
    (s3.InPhase .strobe sample ∧ (byteOf sample 5).toNat ≤ 63 ∧
      ((0xA5030B : Levels) ^^^ s3.probe.polarity).getLsbD (byteOf sample 5).toNat = decide (byteOf sample 6 ≠ 1) ∧
      Memory.wf s3.mem ∧ s3.port.owner ≠ .bench ∧ s3.RecordsPlainly) ∧
    ((benchOwns s3).InPhase .strobe sample ∧ (benchOwns s3).port.owner = .bench ∧ (benchOwns s3).RecordsPlainly ∧
      noCaptureFlag sample = false) := by
  unfold State.InPhase State.RecordsPlainly LinePort.accepts; decide
/-- A MISMATCH and a JUMP, each with room, at a queue of 32 with one record classified and with none, and on a silent line. -/
def silent (s : State) : State := { s with line := { s.line with duplicate := true } }
theorem witness_StrobeCompletesOnItsCapturedLevels_faults :
    let plain := fun vprev : Option Int =>
      { strobing { stage := .holdOff, start := 81400, levels := 0 } 81402 gated with
        probe := { gated.probe with source := 0, strobe := some { stage := .holdOff, start := 81400, levels := 0 } },
        check := { gray48 with vprev := vprev } }
    (∀ vprev ∈ [none, some 11],
      ∀ s ∈ [plain vprev, full32 [] (plain vprev), full32 [{ fault41 with cls := .rack }] (plain vprev), silent (plain vprev)],
        s.InPhase .strobe sample ∧ s.probe.source = 0 ∧ Memory.wf s.mem ∧ s.port.owner ≠ .bench ∧ checkFlag sample = true ∧
        s.probe.strobe = some { stage := .holdOff, start := 81400, levels := 0 } ∧
        ((0x10B : Levels) ^^^ s.probe.polarity).getLsbD (byteOf sample 7).toNat = false ∧
        (fieldPath s.check ((0x10B : Levels) ^^^ s.probe.polarity)).1 = (if vprev = none then .mismatch else .jump)) ∧
    (full32 [] (plain none)).faults.floods ∧ ¬ (full32 [{ fault41 with cls := .rack }] (plain none)).faults.floods ∧
    (plain none).RecordsPlainly ∧ (plain (some 11)).RecordsPlainly := by
  unfold State.InPhase State.RecordsPlainly LinePort.accepts Recorder.floods; decide
theorem witness_StrobeWaitsForHoldOffAndQualifier :
    let s := settling sample
    let h := strobing { stage := .holdOff, start := 81400, levels := 0 } 81402 gated
    (s.InPhase .settle sample ∧ settleElapsed 81400 s.clock (halfOf sample 2).toNat = true) ∧
    ((byteOf sample 7).toNat ≤ 63 ∧ ((0x0B : Levels) ^^^ s.probe.polarity).getLsbD (byteOf sample 7).toNat = true ∧
      ((0x10B : Levels) ^^^ s.probe.polarity).getLsbD (byteOf sample 7).toNat = false) ∧
    (s.probe.source ≠ 0 ∧ (byteOf sample 5).toNat ≤ 63) ∧
    (h.InPhase .strobe sample ∧ h.probe.source ≠ 0) := by
  unfold State.InPhase; decide
theorem witness_StrobeTimeoutStoresAnEntryAndIsJudged :
    let s := strobing { stage := .qualifier, start := 81400, levels := 0x0B } 81405 gated
    s.InPhase .strobe sample ∧ max 1 (byteOf sample 4).toNat ≤ (s.clock - 81400).toNat ∧ Memory.wf s.mem ∧
    noCaptureFlag sample = false ∧ s.port.owner ≠ .bench ∧ s.RecordsPlainly ∧
    (benchOwns s).InPhase .strobe sample ∧ (benchOwns s).port.owner = .bench ∧ (benchOwns s).RecordsPlainly ∧
    (∀ u ∈ [full32 [] s, full32 [{ fault41 with cls := .rack }] s, silent s], u.InPhase .strobe sample ∧
      u.probe.strobe = s.probe.strobe ∧ u.clock = s.clock ∧ Memory.wf u.mem ∧ u.port.owner ≠ .bench) ∧
    (full32 [] s).faults.floods ∧ ¬ (full32 [{ fault41 with cls := .rack }] s).faults.floods := by
  unfold State.InPhase State.RecordsPlainly LinePort.accepts Recorder.floods; decide

/-- The mean at either end of the window 11,400 to 12,600, and one below it. -/
theorem witness_RailcheckAverageIsJudged :
    let s := fun sum => averaging sum 0
    (s 45600).InPhase .average railcheck ∧
    (s 45600).rail.average = some { channel := 0, count := 4, sum := 45600, rounds := 4 } ∧
    (halfOf railcheck 4).toInt = 11400 ∧ (halfOf railcheck 6).toInt = 12600 ∧
    (2 * 4 * 11400 ≤ 2 * 45600 + 4 ∧ 2 * 45600 + 4 < 2 * 4 * 11401) ∧
    (2 * 4 * 11399 ≤ 2 * 45597 + 4 ∧ 2 * 45597 + 4 < 2 * 4 * 11400) ∧
    Memory.wf (s 45600).mem ∧ (s 45600).PortFreeFor railcheck ∧ (s 45597).RecordsPlainly ∧
    (benchOwns (s 45600)).InPhase .average railcheck ∧ (benchOwns (s 45600)).port.owner = .bench ∧
    reportFlag railcheck = true := by
  unfold State.InPhase State.PortFreeFor State.RecordsPlainly LinePort.accepts; decide

/-- Width 32 up to line 63 and width 1, each decode and each signedness. -/
theorem witness_FieldIsExtractedDecodedAndInterpreted :
    let f := fun (start width : Nat) (d : FieldDecode) (g : Signedness) =>
      { startLine := start, width := width, decode := d, signedness := g, changeLimit := 0, retryLimit := 0, action := .halt : FieldPart }
    let fits := fun x : FieldPart => 1 ≤ x.width ∧ x.width ≤ 32 ∧ x.startLine + x.width ≤ 64
    fits (f 32 32 .gray .signed) ∧ fits (f 63 1 .binary .unsigned) := by decide
theorem witness_FieldPathRejectsAcceptsAndCompares :
    1 ≤ gray48.field.width ∧ gray48.field.width ≤ 32 ∧ gray48.vprev = some 11 ∧ gray48.field.changeLimit ≠ 0 ∧
    (fieldPath { gray48 with vprev := some 1 } 0xD0000).1 = .jump ∧ (fieldPath gray48 0xB0000).1 = .pass := by decide

/-- A record stamped 20,000 whose window end, at a coincidence of 5, is the present millisecond. -/
theorem judgedNow_judging (f : FaultRecord) (s : State) (hf : f.cls = .provisional) (hs : f.stamp = 20000)
    (hw : s.line.params.coincidence = 5) : (judging f s).JudgedNow f [judgedRecord (judging f s) f] := by
  refine ⟨hf, ?_, [], [], rfl, by simp, by simp⟩
  rw [show (judging f s).clock = 20005 from rfl, show (judging f s).line = s.line from rfl, hs, hw]
  decide
theorem judgedNow_judgingAlone (f : FaultRecord) (s : State) (hf : f.cls = .provisional) (hs : f.stamp = 20000)
    (hw : s.line.params.coincidence = 5) : (judgingAlone f s).JudgedNow f [judgedRecord (judgingAlone f s) f] := by
  refine ⟨hf, ?_, [], [], rfl, by simp, by simp⟩
  rw [show (judgingAlone f s).clock = 20005 from rfl, show (judgingAlone f s).line = s.line from rfl, hs, hw]
  decide
/-- The engine judging RAILCHECK on sequence 41 under an action and a retry limit, the power state as given. -/
def judgingEngine (a : FieldAction) (retries : BitVec 3) (p : PowerState) : State :=
  let s := powered p 150 (inPhase .judging railcheck { station with check := { station.check with
    field := { station.check.field with retryLimit := retries, action := a } } })
  { s with eng := { s.eng with judged := some 41 } }
/-- Every action, BOARD by one peer below the quorum; RACK by two, with a retry left and with none; each of them while the
bench holds the port. -/
theorem witness_JudgementReachesTheJudgingEngine :
    let board := fun a p => judgingAlone fault41 (judgingEngine a 0 p)
    let rack := fun n => judging fault41 (judgingEngine .halt n .off)
    (∀ a p, (board a p).JudgedNow fault41 [judgedRecord (board a p) fault41]) ∧
    (∀ n, (rack n).JudgedNow fault41 [judgedRecord (rack n) fault41]) ∧
    (∀ a p, (board a p).InPhase .judging railcheck ∧ (board a p).eng.judged = some 41 ∧ Memory.wf (board a p).mem ∧
      (board a p).PortFreeFor railcheck ∧ (board a p).check.field.action = a ∧ (board a p).power.state = p) ∧
    (judgedRecord (board .halt .off) fault41).cls = .board ∧ (judgedRecord (rack 1) fault41).cls = .rack ∧
    ((rack 1).eng.attempt.toNat < (rack 1).check.field.retryLimit.toNat) ∧
    ((rack 0).check.field.retryLimit.toNat ≤ (rack 0).eng.attempt.toNat) ∧
    fault41.info.source ≠ .guard ∧ fault41.info.kind ≠ .trip ∧ fault41.info.kind ≠ .overdraw ∧
    (∀ a p, (benchOwns (board a p)).JudgedNow fault41 [judgedRecord (benchOwns (board a p)) fault41] ∧
      (benchOwns (board a p)).InPhase .judging railcheck ∧ (benchOwns (board a p)).eng.judged = some 41 ∧
      (benchOwns (board a p)).port.owner = .bench) ∧
    (benchOwns (rack 0)).JudgedNow fault41 [judgedRecord (benchOwns (rack 0)) fault41] ∧ reportFlag railcheck = true := by
  refine ⟨fun _ _ => judgedNow_judgingAlone _ _ rfl rfl rfl, fun _ => judgedNow_judging _ _ rfl rfl rfl,
    fun _ _ => ⟨⟨rfl, rfl, rfl⟩, rfl, (by show Memory.wf []; decide), (fun _ h => nomatch h), rfl, rfl⟩, by decide, by decide,
    by decide, by decide, by decide, by decide, by decide,
    fun _ _ => ⟨judgedNow_judgingAlone fault41 (benchOwns _) rfl rfl rfl, ⟨rfl, rfl, rfl⟩, rfl, rfl⟩,
    judgedNow_judging fault41 (benchOwns _) rfl rfl rfl, by decide⟩
/-- A guard record under ISOLATE on a board in STANDBY, classed BOARD and classed RACK, and a TRIP record. -/
def tripFault : FaultRecord := { fault41 with info := { fault41.info with kind := .trip, source := .power } }
theorem witness_JudgementClassesTheOldestRecordAndIsolatesForGuards :
    let s := powered .standby 150 station
    (judgingAlone guardFault41 s).JudgedNow guardFault41 [judgedRecord (judgingAlone guardFault41 s) guardFault41] ∧
    ((judgedRecord (judgingAlone guardFault41 s) guardFault41).cls = .board ∧ guardFault41.guardAction = some .isolate ∧
      (judgingAlone guardFault41 s).power.state ≠ .off ∧ (judgingAlone guardFault41 s).power.state ≠ .tripped) ∧
    ((judging guardFault41 s).JudgedNow guardFault41 [judgedRecord (judging guardFault41 s) guardFault41] ∧
      (judgedRecord (judging guardFault41 s) guardFault41).cls = .rack) ∧
    ((judging tripFault s).JudgedNow tripFault [judgedRecord (judging tripFault s) tripFault] ∧
      tripFault.info.source ≠ .guard ∧ tripFault.info.kind = .trip) :=
  ⟨judgedNow_judgingAlone _ _ rfl rfl rfl, by decide, ⟨judgedNow_judging _ _ rfl rfl rfl, by decide⟩,
   judgedNow_judging _ _ rfl rfl rfl, by decide⟩

/-- A peer at either end of the slots, before and after SETUP, with 63 and 64 notices. -/
theorem witness_PeerFramesReachTheListAndTheTable :
    let noticed := fun n => { station with faults := { station.faults with notices := List.replicate n { slot := 3, arrival := 0 } } }
    (0 : Fin 30).val ≠ station.line.slot.toNat ∧ (29 : Fin 30).val ≠ station.line.slot.toNat ∧ station.line.isSet = true ∧
    State.reset.line.isSet = false ∧ (29 : Fin 30).val ≠ State.reset.line.slot.toNat ∧
    (noticed 63).faults.notices.length < 64 ∧ 64 ≤ (noticed 64).faults.notices.length := by decide
theorem witness_SetupIsTakenOnce :
    (4 : BitVec 5) = station.line.slot ∧ station.line.slot.toNat < 30 ∧ station.line.isSet = true ∧
    State.reset.line.isSet = false := by decide
set_option maxRecDepth 4000 in
/-- A length of 33 and a wrong check, at a station that cut the frame and at one that did not; a kind without an assignment,
a wrong length, the own slot with and without a CLAIM in the queue, and frames for others. -/
theorem witness_BadDuplicateAndPassedOverFrames :
    (let raw : RawFrame := { source := 1, dest := 31, kind := 2, length := 33, payload := [], check := 0 }
     raw.wf = true ∧ 32 < raw.length.toNat) ∧
    (let raw : RawFrame := { source := 1, dest := 31, kind := 3, length := 0, payload := [], check := 0 }
     raw.wf = true ∧ raw.check ≠ checkValue (checkedBits raw.dest raw.kind raw.length raw.payload)) ∧
    (station.line.cutOwn = false ∧ (after .bitError { station with line := full910 }).line.cutOwn = true) ∧
    (let f : Frame := { source := 1, dest := 31, kind := 15, payload := [] }
     frameRead (.framePassedOver f) = some f ∧ f.wf = true ∧ f.kind.toNat = 15) ∧
    (let f : Frame := { source := 30, dest := 31, kind := 4, payload := List.replicate 7 0 }
     frameRead (.frameSetup 30 31 (List.replicate 7 0)) = some f ∧ f.wf = true ∧ f.kind.toNat = 4 ∧ f.payload.length ≠ 8) ∧
    (let f : Frame := { source := 4, dest := 31, kind := 3, payload := [] }
     frameRead (.frameJoin 4 31 []) = some f ∧ f.wf = true ∧ isPeerFrame f ∧ f.source = station.line.slot ∧
     station.line.slot.toNat < 30 ∧ (∀ g ∈ full910.queue, g.kind ≠ .claim) ∧ ∃ g ∈ ownClaimOut.line.queue, g.kind = .claim) ∧
    (let f : Frame := { source := 1, dest := 30, kind := 12, payload := [5, 0] }
     frameRead (.framePassedOver f) = some f ∧ f.wf = true ∧ f.kind.toNat = 12) ∧
    (let f : Frame := { source := 31, dest := 31, kind := 0, payload := [0, 0, 255, 1, 0] }
     frameRead (.frameFail 31 31 [0, 0, 255, 1, 0]) = some f ∧ f.wf = true ∧ isPeerFrame f ∧ 30 ≤ f.source.toNat) ∧
    (let f : Frame := { source := 29, dest := 31, kind := 4, payload := List.replicate 8 0 }
     f.wf = true ∧ f.kind.toNat = 4 ∧ f.payload.length = 8 ∧ f.source ≠ 30) ∧
    (let f : Frame := { source := 30, dest := 5, kind := 11, payload := [1] }
     f.wf = true ∧ 5 ≤ f.kind.toNat ∧ f.kind.toNat ≤ 11 ∧ ¬ station.line.addressedBy f) := by
  unfold isPeerFrame LinePort.addressedBy; decide
theorem witness_BenchRequestsJoinTheQueueOfFour :
    let q := { kind := .query, payload := [1], toAll := false : Request }
    (List.replicate 32 (0 : Byte)).length ≤ 32 ∧ (4 : BitVec 5) = station.line.slot ∧ station.line.slot.toNat < 30 ∧
    (List.replicate 3 q).length < 4 ∧ 4 ≤ (List.replicate 4 q).length := by decide

/-- The expiry and the backoff end at the present millisecond, the queue with one place left. -/
theorem witness_PendingAndBackoffTimersRunOut :
    reached 5101 5101 = true ∧
    (let c := { heldNow := 0, asking := 1000, t0 := none : OwnClaim }
     let s := { seven with clock := 5101, draw := { station.draw with
       claimState := .deferred, claim := some c, backoffTimer := some 5101,
       table := station.draw.table.set 29 { held := 0, pending := some { asking := 1200, expiry := 5101, beforeMine := true } } } }
     s.draw.claimState = .deferred ∧ s.draw.backoffTimer = some 5101 ∧ reached s.clock 5101 = true ∧ s.draw.claim = some c ∧
     s.line.accepts ∧
     (s.draw.table.get 29).pending = some { asking := 1200, expiry := 5101, beforeMine := true }) := by
  unfold LinePort.accepts; decide
/-- The sum at the budget of 3000 and one above it, in the claiming state of 7.7 with a move, a SET_CLAIM one in
AWAIT_POWER, and a draw wait of 30 s passed by one millisecond. -/
def claimed (held4 : Draw) (stage : MoveStage) (order : Nat) : State :=
  moving (move67 stage (some order)) .claiming (inPhase .awaitPower powerOn (claiming 500 held4 station))
theorem witness_ClaimIsJudgedAgainstTheBudget :
    let share := fun e : PeerEntry => match e.pending with
      | some p => if p.beforeMine = true then p.asking.toNat else e.held.toNat
      | none => e.held.toNat
    let sum := fun s : State => 1000 + (s.draw.table.toList.map share).sum
    let s := claimed 1500 .claiming 5000
    (s.draw.claimState = .claiming ∧ s.draw.claim = some { heldNow := 0, asking := 1000, t0 := some 5001 } ∧
      s.draw.windowTimer = some 5101 ∧ reached s.clock 5101 = true ∧ s.power.move = some (move67 .claiming (some 5000))) ∧
    sum s = s.line.params.budget ∧ (claimed 1500 .setClaim 5000).power.move = some (move67 .setClaim (some 5000)) ∧
    (claimed 1500 .setClaim 5000).InPhase .awaitPower powerOn ∧ Memory.wf s.mem ∧ s.PortFreeFor powerOn ∧
    ((benchOwns (claimed 1500 .setClaim 5000)).InPhase .awaitPower powerOn ∧ reportFlag powerOn = true) ∧
    sum (claimed 1501 .claiming 5000) = s.line.params.budget + 1 ∧
    ((move67 .claiming none).waitLimit ≠ 0 ∧ 1000 * (move67 .claiming none).waitLimit.toNat < (s.clock - (5101 - 30001)).toNat ∧
      ¬ 1000 * (move67 .claiming none).waitLimit.toNat < (s.clock - (5101 - 30000)).toNat) := by
  unfold State.InPhase State.PortFreeFor; decide

/-- A frame at the fifteenth and at the sixteenth attempt, the own claim in transmission, current and withdrawn. -/
theorem witness_FramesAreSentFromTheQueue :
    (station.line.mute = false ∧ (∀ g ∈ full910.queue.tail, g.sending = false)) ∧
    (let f := { newFrame .draw 31 [] with sending := true, attempts := 14 : TxFrame }
     (∀ g ∈ [newFrame .fail 31 []], g.sending = false) ∧ f.sending = true ∧ f.attempts < 15 ∧ f.kind ≠ .claim) ∧
    (15 ≤ ({ newFrame .draw 31 [] with attempts := 15 } : TxFrame).attempts) ∧
    (ownClaimOut.draw.mark = .current ∧ ownClaimOut.draw.claimState = .queued ∧
      ownClaimOut.draw.claim = some { heldNow := 0, asking := 1200, t0 := none } ∧
      ownClaimOut.line.queue = [{ newFrame .claim 31 [0, 0, 0xB0, 4] with sending := true }]) ∧
    (let s := { ownClaimOut with draw := { ownClaimOut.draw with mark := .stale, claimState := .none_, claim := none } }
     s.draw.mark = .stale ∧ s.draw.claimState = .none_) := by decide
/-- The own CLAIM in transmission at its sixteenth error; an abandoned one taken with a new claim held back; a queue of
eight whose one idle frame of the least urgent class is the CLAIM, at a due guard fault; a claim whose backoff ends at a
station with the duplicate flag set. -/
theorem witness_OwnClaimFramesAreLostOrLetTheNextOneGo :
    let own := { newFrame .claim 31 [0, 0, 0xB0, 4] with sending := true, attempts := 15 : TxFrame }
    let c := { heldNow := 0, asking := 1200, t0 := none : OwnClaim }
    (own.sending = true ∧ own.kind = .claim ∧ 15 ≤ own.attempts ∧ ({ ownClaimOut with
      line := { station.line with queue := [own] } } : State).line.queue = [] ++ own :: []) ∧
    (let s := { ownClaimOut with draw := { ownClaimOut.draw with mark := .stale } }
     s.draw.mark = .stale ∧ s.draw.claimState = .queued ∧ s.draw.claim = some c ∧ s.line.queue.all (fun f => f.sending) = true) ∧
    (let fails := List.replicate 7 (newFrame .fail 31 [0, 0, 255, 1, 0])
     let s := { guarded 3 .armed 4680 with line := { station.line with queue := fails ++ [newFrame .claim 31 [0, 0, 0xB0, 4]] } }
     (s.rail.channels.get 2).guard.state = .armed ∧ (s.rail.channels.get 2).guard.debounce ≤ (s.rail.channels.get 2).guard.count ∧
     s.faults.queue.length < 32 ∧ ∀ p, (s.line.offer (newFrame .fail 31 p)).2 = some (newFrame .claim 31 [0, 0, 0xB0, 4])) ∧
    (let s := { doubled with clock := 5101, draw := { station.draw with
       claimState := .deferred, claim := some c, backoffTimer := some 5101 } }
     s.line.duplicate = true ∧ s.draw.claimState = .deferred ∧ s.draw.backoffTimer = some 5101 ∧
     reached s.clock 5101 = true ∧ s.draw.claim = some c) := by
  refine ⟨by decide, by decide, ⟨by decide, by decide, by decide, fun _ => rfl⟩, by decide⟩
theorem witness_TransmitQueueTakesShedsAndDrops :
    30 ≤ State.reset.line.slot.toNat ∧ doubled.line.duplicate = true ∧
    (full910.slot.toNat < 30 ∧ full910.duplicate = false ∧ 8 ≤ full910.queue.length ∧ seven.line.queue.length < 8 ∧
      full910.queue.Pairwise (fun ahead behind => ahead.kind.cls ≤ behind.kind.cls) ∧
      full910.queue.countP (fun g => g.sending) ≤ 1) ∧
    (FrameKind.cls .fail < FrameKind.cls .report ∧ FrameKind.cls .report ≤ FrameKind.cls .reply) := by decide

/-- A LOAD of one byte at the last address of record 1022 with only 1023 live, a PEEK of 30 bytes at the end, a POST of
the whole free count, a POST of nothing, one that wakes the STARVED job, and one that completes a body across the wrap. -/
def starved : State := { station with eng := { station.eng with job := .starved } }
theorem witness_LoadPeekAndPostAreAdmitted :
    let last := { station with eng := { station.eng with fetchIndex := 1023, postIndex := 0 } }
    ((serving .load [0xEF, 0x3F, 0] last).Serves { kind := .load, payload := [0xEF, 0x3F, 0], toAll := false } [] ∧
      leAt 2 [0xEF, 0x3F, 0] 0 = 16 * 1022 + 15 ∧ last.eng.retain = 1023) ∧
    ((serving .peek [0xE2, 0x5F, 30] station).Serves { kind := .peek, payload := [0xE2, 0x5F, 30], toAll := false } [] ∧
      leAt 2 [0xE2, 0x5F, 30] 0 + 30 = 24576) ∧
    ((serving .post [0xFF, 3] starved).Serves { kind := .post, payload := [0xFF, 3], toAll := false } [] ∧
      ((1023 : RingIndex) - starved.eng.postIndex).toNat ≤ 1023 - (starved.eng.postIndex - starved.eng.retain).toNat ∧
      starved.eng.job = .starved ∧ starved.eng.copy = none ∧ starved.eng.fetchIndex = starved.eng.postIndex ∧
      starved.port.owner = .engine) ∧
    (let held := { body 5 repeat' with eng := { (body 5 repeat').eng with job := .starved }, port := station.port }
     (serving .post [5, 0] held).eng.copy = some repeat' ∧ held.eng.job = .starved ∧ held.port.owner = .engine ∧
     Memory.wf held.mem ∧ held.eng.postIndex = 4 ∧
     ((5 : RingIndex) - held.eng.postIndex).toNat ≤ 1023 - (held.eng.postIndex - held.eng.retain).toNat ∧
     ((held.eng.fetchIndex + (byteOf repeat' 4).setWidth 10) - held.eng.fetchIndex : RingIndex).toNat <
       ((5 : RingIndex) - held.eng.fetchIndex).toNat ∧
     ((4 : RingIndex) - held.eng.fetchIndex).toNat ≤
       ((held.eng.fetchIndex + (byteOf repeat' 4).setWidth 10) - held.eng.fetchIndex : RingIndex).toNat) ∧
    (((0 : RingIndex) - station.eng.postIndex).toNat = 0) := by
  unfold State.Serves; decide
/-- One request for each refusal, each at the edge of its range. -/
theorem witness_RequestsAreRefusedByTheFirstFailedCheck :
    let s := fun k p => serving k p (at' 0 mark station)
    let q := fun (k : FrameKind) (p : List Byte) => { kind := k, payload := p, toAll := false : Request }
    (∀ k p, (s k p).Serves (q k p) []) ∧
    (([0, 0] : List Byte).length < 3 ∧ 24575 < leAt 2 [0, 0x60, 1] 0 + 3 - 3 ∧ 16384 ≤ leAt 2 [0, 0x40, 1] 0 + 3 - 3 ∧
      leAt 2 [0xFF, 0x5F, 1] 0 + 3 - 3 ≤ 24575 ∧ leAt 2 [143, 0, 1] 0 / 16 = 8 ∧
      ((8 : RingIndex) - (s .load [143, 0, 1]).eng.retain).toNat <
        ((s .load [143, 0, 1]).eng.postIndex - (s .load [143, 0, 1]).eng.retain).toNat) ∧
    (([0, 0, 0] : List Byte).length = 3 ∧ (byteAt [0, 0, 31] 2).toNat = 31 ∧ 24576 < leAt 2 [0xFF, 0x5F, 2] 0 + 2) ∧
    (([1, 0] : List Byte).head? = some 1 ∧ ([1, 0] : List Byte).length ≠ 1 ∧ ([] : List Byte).length ≠ 1 ∧
      ([] : List Byte).head? ≠ some 1 ∧ ([] : List Byte).head? ≠ some 2) ∧
    (([0] : List Byte).length ≠ 2 ∧ 1023 < leAt 2 [0, 4] 0 ∧
      1023 - ((s .post [0, 0]).eng.postIndex - (s .post [0, 0]).eng.retain).toNat < ((0 : RingIndex) - 1).toNat) ∧
    (station.line.isSet = true ∧ State.reset.line.isSet = false ∧ (s .control [1]).eng.job ≠ .idle ∧
      station.eng.job = .idle ∧ (s .control [3]).eng.job ≠ .paused ∧ (s .control [3]).eng.latch = false ∧
      station.eng.job.active = false ∧ (s .control [5]).eng.job.active = true ∧ 1023 < leAt 2 [6, 0, 4] 1 ∧
      leAt 2 [6, 0xFF, 3] 1 ≤ 1023) := by
  refine ⟨fun _ _ => ⟨rfl, rfl⟩, ?_⟩
  decide
/-- The last access inside memory, with nothing waiting and with the engine's fetch waiting. -/
def fetching (s : State) : State :=
  { s with eng := { s.eng with job := .running }, port := { s.port with waits := [.fetch] } }
theorem witness_GrantedAccessIsMadeWhole :
    let s := granted .load [0xFF, 0x5F, 1]
    let t := granted .peek [0xFF, 0x5F, 1]
    (s.bench.service = .waitingPort ∧ s.port.owner = .bench ∧
      s.bench.queue = [{ kind := .load, payload := [0xFF, 0x5F, 1], toAll := false }] ∧
      leAt 2 [0xFF, 0x5F, 1] 0 + 1 ≤ 24576 ∧ Memory.wf s.mem ∧ s.port.waits = []) ∧
    ((fetching s).port.waits = [.fetch] ∧ (fetching s).eng.job = .running ∧ (fetching s).port.owner = .bench) ∧
    ({ fetching s with eng := station.eng } : State).eng.job ≠ .running ∧
    (t.bench.service = .waitingPort ∧ t.port.waits = [] ∧ (fetching t).port.waits = [.fetch]) := by decide
/-- Accesses of each sort that wait at a PEEK's grant, alone and behind the entry of an earlier attempt, a LOAD behind the
PEEK that asks, and a FAIL under REPORT and NOTIFY whose completion was stamped before, with the job running and halted, on
a powered board. -/
def returning (w : List EngineAccess) (s : State) : State :=
  let load := { kind := .load, payload := [0, 0x10, 1], toAll := false : Request }
  { s with port := { owner := .bench, waits := w },
           bench := { queue := [{ kind := .peek, payload := [2, 1, 2], toAll := false }, load], service := .waitingPort,
                      discarded := 0 } }
def failed (after : AfterStep) : Completion := { record := record [6, 3], outcome := .fail, stamp := 7, after := after }
theorem witness_WaitingAccessesAreMadeAtTheReturn :
    let captures := fun entries : List Record => entries.map fun entry => EngineAccess.capture entry none
    let ended := fun (j : JobState) (entries : List Record) (a : AfterStep) =>
      let s := powered .on 900 (at' 4 mark station)
      returning (captures entries ++ [.outcome 4 (failed a).outcome
        (failCountAfter (failed a).outcome (failCountOf (failed a).record)) (some (failed a))])
        { s with eng := { s.eng with job := j, copy := none } }
    let completing := returning [.capture 9 none, .capture 0 (some .done)] (inPhase .ready sample station)
    let halted := fun w => returning w { station with eng := { station.eng with job := .halted, fetchIndex := 4 } }
    (let b := after .benchAccessGrant (returning [] station)
     (returning [] station).bench.service = .waitingPort ∧ (returning [] station).port.owner = .bench ∧
     exec .benchAccessGrant (returning [] station) = .next b ∧ b.port.owner = .engine ∧ Memory.wf b.mem ∧
     b.bench.service = .checking ∧ b.bench.queue.length = 1) ∧
    ((returning [.capture 0 none] station).port.waits = captures [0]) ∧
    ((returning [.capture 9 none, .fetch] (at' 4 mark station)).port.waits = captures [9] ++ [.fetch] ∧
      (at' 4 mark station).eng.job = .running ∧ (halted [.fetch]).port.waits = captures [] ++ [.fetch]) ∧
    ((halted [.outcome 4 .aborted 3 none]).port.waits =
      captures [] ++ [.outcome (halted []).eng.fetchIndex .aborted 3 none]) ∧
    (completing.InPhase .ready sample ∧ completing.port.waits = captures [9] ++ [.capture 0 (some .done)]) ∧
    ((halted [.capture 0 (some .done)]).eng.job = .halted ∧
      (halted [.capture 0 (some .done)]).port.waits = captures [] ++ [.capture 0 (some .done)]) ∧
    ((halted [.capture 0 (some .done), .outcome 4 .aborted 3 none]).port.waits =
      captures [] ++ [.capture 0 (some .done), .outcome (halted []).eng.fetchIndex .aborted 3 none]) ∧
    (reportFlag (failed .isolate).record = true ∧ notifyFlag (failed .isolate).record = true) ∧
    (∀ j es a, (ended j es a).eng.phase = .ready ∧ (ended j es a).eng.copy = none ∧ (ended j es a).eng.judged = none ∧
      (ended j es a).eng.timer = none ∧ (ended j es a).eng.job = j ∧ (ended j es a).power.state = .on ∧
      (failed a).after = a ∧
      (ended j es a).port.waits = captures es ++ [.outcome (ended j es a).eng.fetchIndex (failed a).outcome
        (failCountAfter (failed a).outcome (failCountOf (failed a).record)) (some (failed a))]) := by
  refine ⟨⟨rfl, rfl, rfl, by decide, by decide, by decide, by decide⟩, rfl, ⟨rfl, rfl, rfl⟩, rfl,
    ⟨⟨rfl, rfl, rfl⟩, rfl⟩, ⟨rfl, rfl⟩, rfl, by decide, fun _ _ _ => ⟨rfl, rfl, rfl, rfl, rfl, rfl, rfl, rfl⟩⟩
/-- R21, R42, R115: the same isolation by a job that still runs halts it ISOLATED, END behind PROGRESS. -/
theorem test_grant_isolates_and_halts :
    let s := powered .on 900 (at' 4 mark station)
    let t := after .benchAccessGrant (returning [.capture 9 none, .outcome 4 .fail 1 (some (failed .isolate))]
      { s with eng := { s.eng with copy := none } })
    t.power.state = .off ∧ t.eng.haltReason = some .isolated ∧ t.probe.validCount = station.probe.validCount + 1 ∧
    t.line.queue.map (fun f => f.kind) = [.draw, .reply, .report, .report] := by decide
/-- R42, R49, R115: a FAIL whose write-back waited sends PROGRESS and isolates the board though the job has halted. -/
theorem test_grant_isolates_after_halt :
    let s := powered .on 900 (at' 4 mark station)
    let t := after .benchAccessGrant (returning [.outcome 4 .fail 1 (some (failed .isolate))]
      { s with eng := { s.eng with job := .halted, copy := none } })
    t.power.state = .off ∧ t.power.main = false ∧ t.line.queue.map (fun f => f.kind) = [.draw, .reply, .report] ∧
    Memory.read t.mem 78 = StepOutcome.fail.code ∧ t.eng.job = .halted := by decide
/-- Each accepted action in each job state that admits it. -/
theorem witness_StartPauseResumeAndRing :
    let in' := fun (j : JobState) (latch : Bool) (p : List Byte) =>
      serving .control p { station with eng := { station.eng with job := j, latch := latch } }
    (∀ j l p, (in' j l p).Serves { kind := .control, payload := p, toAll := false } [] ∧ (in' j l p).port.owner = .engine ∧
      (in' j l p).eng.job = j ∧ (in' j l p).eng.latch = l) ∧
    (in' .idle false [1]).line.isSet = true ∧ ((3 : Byte) ++ (0xFF : Byte) : BitVec 16).toNat ≤ 1023 := by
  refine ⟨fun _ _ _ => ⟨⟨rfl, rfl⟩, rfl, rfl, rfl⟩, ?_⟩
  decide
/-- ABORT of a running job on a powered and on an unpowered board; CLEAR of an idle one with no draw held, to all. -/
theorem witness_AbortAndClear :
    let on := serving .control [4] (powered .on 900 (at' 4 wait station))
    let off := serving .control [4] (at' 4 wait station)
    let q := { kind := .control, payload := [5], toAll := true : Request }
    let clear := { station with bench := { station.bench with queue := [q], service := .checking } }
    (on.Serves { kind := .control, payload := [4], toAll := false } [] ∧ on.eng.job.active = true ∧ on.power.state ≠ .off ∧
      on.power.state ≠ .tripped ∧ Memory.wf on.mem ∧ on.eng.job = .running ∧ on.eng.copy = some wait ∧ on.PortFreeFor wait) ∧
    (off.power.state = .off ∧ off.eng.job.active = true) ∧
    on.power.move = none ∧
    (let s := serving .control [4] (claimed 1500 .claiming 5000)
     s.power.move ≠ none ∧ s.draw.claimState ≠ .none_ ∧ s.power.state = .claiming ∧ s.eng.job.active = true) ∧
    (clear.Serves q [] ∧ clear.eng.job.active = false ∧ clear.power.move = none ∧ clear.draw.held = 0 ∧ q.toAll = true) := by
  unfold State.Serves State.PortFreeFor; decide
theorem witness_QueriesAndUnknownCodesAreAnswered :
    let s := fun (k : FrameKind) (p : List Byte) => serving k p station
    (∀ k p, (s k p).Serves { kind := k, payload := p, toAll := false } []) ∧ (0 : Byte) ≠ 1 ∧ (0 : Byte) ≠ 2 ∧
    (3 : Byte) ≠ 1 ∧ (3 : Byte) ≠ 2 ∧ 6 < (7 : Byte).toNat :=
  ⟨fun _ _ => ⟨rfl, rfl⟩, by decide⟩
/-- Position 31 of a full queue, position 0 of an empty one, and a trim of 255. -/
theorem witness_FaultsAreReadAndTrimmed :
    let s := fun (k : FrameKind) (b : Byte) => serving k [b] (crowded 32 station)
    (∀ k b, (s k b).Serves { kind := k, payload := [b], toAll := false } []) ∧
    (s .faultRead 31).faults.queue[(31 : Byte).toNat]? = some { fault41 with cls := .board } ∧
    (s .faultRead 32).faults.queue.length ≤ (32 : Byte).toNat ∧ station.faults.queue.length ≤ (0 : Byte).toNat :=
  ⟨fun _ _ => ⟨rfl, rfl⟩, by decide⟩

end Sys2Proof.Tests
end

section
/-! PROOFS of the family "scope": RESET and STATION_TICK, and what no command but its own moves of the clock, the post
index, the straps, SETUP and the duplicate flag. -/

namespace Sys2Proof.Machine

/-! ### Commands that have the port judge a frame -/

/-- Whatever row names the event, a frame with a correct check is judged by the port alone (log entry 5). -/
theorem exec_of_frameRead {i : Instr} {f : Frame} (hf : frameRead i = some f) (s : State) :
    exec i s = .next (s.receiveFrame f) := by
  cases i with
  | frameFail | frameClaim | frameDraw | frameJoin | frameSetup
  | benchRequestArrival | duplicateSlotFrame | framePassedOver => cases hf; rfl
  | frameReceivedBad frame framing =>
    simp only [frameRead] at hf
    split at hf
    · cases hf
    · rename_i hgood
      cases hf
      exact if_neg hgood
  | _ => cases hf

/-- A frame whose bits are bad ends, and is counted unless this station has cut it itself (R156, R158). -/
theorem execFrameReceivedBad_of_rawBad {frame : Frame} {framing : Framing}
    (hbad : rawBad { toFrame := frame, toFraming := framing } = true) (s : State) :
    execFrameReceivedBad frame framing s = .next (if s.line.cutOwn then s.frameEnded else s.frameEnded.countBad) :=
  if_pos hbad

/-! ### The station's own fields, command by command -/

/-- RESET and the frames read apart, the straps, SETUP and the duplicate flag stand under every command, the clock under all
but STATION_TICK, the post index under all but POST and RING. -/
theorem exec_station_frame {i : Instr} {s t : State} (h : exec i s = .next t)
    (hreset : ∀ slot rate, i ≠ .reset slot rate) (hf : frameRead i = none) :
    t.pending = s.pending ∧
    (i ≠ .stationTick → t.clock = s.clock) ∧
    (i ≠ .servePost → i ≠ .serveRing → t.eng.postIndex = s.eng.postIndex) ∧
    t.line.slot = s.line.slot ∧ t.line.rate = s.line.rate ∧ t.line.isSet = s.line.isSet ∧
    t.line.params = s.line.params ∧ t.line.duplicate = s.line.duplicate := by
  cases i with
  | reset slot rate => exact absurd rfl (hreset slot rate)
  | frameFail | frameClaim | frameDraw | frameJoin | frameSetup
  | benchRequestArrival | duplicateSlotFrame | framePassedOver => cases hf
  | frameReceivedBad frame framing =>
    have hbad : rawBad { toFrame := frame, toFraming := framing } = true := by simpa [frameRead] using hf
    cases (execFrameReceivedBad_of_rawBad hbad s).symm.trans h
    split <;> simp [State.frameEnded]
  | stationTick => simp [execStationTick_frame h]
  | updateRound => simp [execUpdateRound_frame h]
  | guardFault => simp [execGuardFault_frame h]
  | guardRearm => simp [execGuardRearm_frame h]
  | tripDetection => simp [execTripDetection_frame h]
  | overdrawDetection => simp [execOverdrawDetection_frame h]
  | zeroCaptureEnd => simp [execZeroCaptureEnd_frame h]
  | rampExpiry => simp [execRampExpiry_frame h]
  | railcheckAverageEnd => simp [execRailcheckAverageEnd_frame h]
  | settleEnd => simp [execSettleEnd_frame h]
  | holdOffRelease => simp [execHoldOffRelease_frame h]
  | qualifierEdge => simp [execQualifierEdge_frame h]
  | strobeTimerExpiry => simp [execStrobeTimerExpiry_frame h]
  | waitExpiry => simp [execWaitExpiry_frame h]
  | recoverExpiry => simp [execRecoverExpiry_frame h]
  | stepLanes => simp [execStepLanes_frame h]
  | stepDrive => simp [execStepDrive_frame h]
  | stepSample => simp [execStepSample_frame h]
  | stepField => simp [execStepField_frame h]
  | stepLimits => simp [execStepLimits_frame h]
  | stepRailcheck => simp [execStepRailcheck_frame h]
  | stepGuard => simp [execStepGuard_frame h]
  | stepScale => simp [execStepScale_frame h]
  | stepPower => simp [execStepPower_frame h]
  | stepWait => simp [execStepWait_frame h]
  | stepRepeat => simp [execStepRepeat_frame h]
  | stepMark => simp [execStepMark_frame h]
  | stepStop => simp [execStepStop_frame h]
  | unknownStepKind => simp [execUnknownStepKind_frame h]
  | coincidenceJudgement => simp [execCoincidenceJudgement_frame h]
  | ownClaimTaken => simp [execOwnClaimTaken_frame h]
  | pendingExpiry => simp [execPendingExpiry_frame h]
  | claimJudgement => simp [execClaimJudgement_frame h]
  | backoffExpiry => simp [execBackoffExpiry_frame h]
  | frameBegin => simp [execFrameBegin_frame h]
  | contentionLost => simp [execContentionLost_frame h]
  | bitError => simp [execBitError_frame h]
  | frameSent => simp [execFrameSent_frame h]
  | serveLoad => simp [execServeLoad_frame h]
  | servePost => simp [execServePost_frame h]
  | servePeek => simp [execServePeek_frame h]
  | benchAccessGrant => simp [execBenchAccessGrant_frame h]
  | serveStart => simp [execServeStart_frame h]
  | servePause => simp [execServePause_frame h]
  | serveResume => simp [execServeResume_frame h]
  | serveAbort => simp [execServeAbort_frame h]
  | serveClear => simp [execServeClear_frame h]
  | serveRing => simp [execServeRing_frame h]
  | serveUnknownAction => simp [execServeUnknownAction_frame h]
  | serveQueryStatus => simp [execServeQueryStatus_frame h]
  | serveQueryReadings => simp [execServeQueryReadings_frame h]
  | serveQueryUnknown => simp [execServeQueryUnknown_frame h]
  | serveFaultRead => simp [execServeFaultRead_frame h]
  | serveFaultTrim => simp [execServeFaultTrim_frame h]

/-- RESET apart, no command moves the straps; STATION_TICK alone moves the clock, and POST and RING alone the post index
(R1, R9, R151). -/
theorem exec_clock_postIndex_straps {i : Instr} {s t : State} (h : exec i s = .next t)
    (hreset : ∀ slot rate, i ≠ .reset slot rate) :
    t.pending = s.pending ∧
    (i ≠ .stationTick → t.clock = s.clock) ∧
    (i ≠ .servePost → i ≠ .serveRing → t.eng.postIndex = s.eng.postIndex) ∧
    t.line.slot = s.line.slot ∧ t.line.rate = s.line.rate := by
  cases hf : frameRead i with
  | some f =>
    cases (exec_of_frameRead hf s).symm.trans h
    simp [State.receiveFrame_frame]
  | none =>
    obtain ⟨hpending, hclock, hpost, hslot, hrate, -⟩ := exec_station_frame h hreset hf
    exact ⟨hpending, hclock, hpost, hslot, hrate⟩

/-- No command touches the commands still waiting (log entry 1), RESET among them. -/
theorem exec_pending {i : Instr} {s t : State} (h : exec i s = .next t) : t.pending = s.pending := by
  by_cases hreset : ∀ slot rate, i ≠ .reset slot rate
  · obtain ⟨hpending, -⟩ := exec_clock_postIndex_straps h hreset
    exact hpending
  · obtain ⟨slot, rate, rfl⟩ : ∃ slot rate, i = .reset slot rate := by simpa using hreset
    cases h
    rfl

/-- SETUP and the duplicate flag move only at a frame read that R163 or R164 names, and never back (R163 to R165). -/
theorem exec_setup_duplicate {i : Instr} {s t : State} (h : exec i s = .next t)
    (hreset : ∀ slot rate, i ≠ .reset slot rate) :
    (s.line.isSet = true → t.line.isSet = true ∧ t.line.params = s.line.params) ∧
    (t.line.isSet ≠ s.line.isSet ∨ t.line.params ≠ s.line.params →
      ∃ f, frameRead i = some f ∧ f.kind = 4 ∧ f.payload.length = 8 ∧ f.source = 30 ∧ s.line.addressedBy f) ∧
    (s.line.duplicate = true → t.line.duplicate = true) ∧
    (t.line.duplicate ≠ s.line.duplicate →
      ∃ f, frameRead i = some f ∧ isPeerFrame f ∧ f.source = s.line.slot ∧ s.line.slot.toNat < 30) := by
  cases hf : frameRead i with
  | some f =>
    cases (exec_of_frameRead hf s).symm.trans h
    obtain ⟨hsetup, hset, hdup, hflag⟩ := s.receiveFrame_setup f
    exact ⟨hset, fun hne => ⟨f, rfl, hsetup hne⟩, hdup, fun hne => ⟨f, rfl, hflag hne⟩⟩
  | none =>
    obtain ⟨-, -, -, -, -, hset, hparams, hdup⟩ := exec_station_frame h hreset hf
    simp [hset, hparams, hdup]

/-- Settles O10, from what every command leaves alone and what a frame read does to the line's own fields. -/
theorem clockPostIndexStrapsAndSetupMoveOnlyByTheirCommands :
    Obligations.ClockPostIndexStrapsAndSetupMoveOnlyByTheirCommands := by
  refine ⟨fun i s t h => ⟨exec_pending h, fun htick hreset => ?_, fun hpost hring hreset => ?_⟩,
    fun i s t h hreset => ?_⟩
  · obtain ⟨-, hclock, -⟩ := exec_clock_postIndex_straps h hreset
    exact hclock htick
  · obtain ⟨-, -, hindex, -⟩ := exec_clock_postIndex_straps h hreset
    exact hindex hpost hring
  · obtain ⟨-, -, -, hslot, hrate⟩ := exec_clock_postIndex_straps h hreset
    exact ⟨hslot, hrate, exec_setup_duplicate h hreset⟩

/-! ### RESET and STATION_TICK -/

/-- The RATE strap levels name the four line rates in rising order (R152). -/
theorem LineRate.ofStrap_eq (rate : BitVec 2) :
    LineRate.ofStrap rate =
      if rate = 0 then .kbit125 else if rate = 1 then .kbit250 else if rate = 2 then .kbit500 else .kbit1000 := by
  revert rate; decide

/-- Each channel after reset has the gain of its column of R82. -/
theorem Rail.reset_channels_get (c : Fin 8) :
    Rail.reset.channels.get c =
      Channel.reset (if c = 0 then 16384 else if c = 1 then 20480 else if c = 2 then 8192 else 4096) := by
  revert c; decide

/-- Every draw table entry after reset holds nothing and claims nothing (R118). -/
theorem DrawUnit.reset_table_get (x : Fin 30) : DrawUnit.reset.table.get x = { held := 0, pending := none } := by
  simp [DrawUnit.reset, Vector.get_eq_getElem]

/-- Pruning removes notices and keeps their order (R142). -/
theorem Recorder.prune_sublist (r : Recorder) (w : Nat) (now : Time) : (r.prune w now).notices.Sublist r.notices :=
  List.filter_sublist

/-- The notices that stay are those at most 2W old (R142). -/
theorem Recorder.mem_prune (r : Recorder) (w : Nat) (now : Time) (n : Notice) :
    n ∈ (r.prune w now).notices ↔ n ∈ r.notices ∧ ¬ 2 * w < (now - n.arrival).toNat := by
  simp [Recorder.prune]

/-- Settles O16, from the reset values block by block and from what pruning keeps. -/
theorem resetAndTheStationTick : Obligations.ResetAndTheStationTick := by
  refine ⟨fun slot rate s => ⟨s.afterReset slot rate, rfl, ?_⟩, fun s => ⟨_, rfl, ?_, ?_, ?_, rfl⟩⟩
  · exact ⟨rfl, fun _ => rfl, rfl, rfl, rfl, rfl, Rail.reset_channels_get, rfl, rfl, rfl, rfl, rfl, rfl, rfl,
      DrawUnit.reset_table_get, rfl, rfl, rfl, rfl, rfl, rfl, rfl, rfl, LineRate.ofStrap_eq rate,
      rfl, rfl, rfl, rfl, rfl, rfl, rfl, rfl, rfl, rfl⟩
  · exact BitVec.toNat_add s.clock 1
  · exact s.faults.prune_sublist _ _
  · exact s.faults.mem_prune _ _

end Sys2Proof.Machine
end

section
/-! PROOFS of the family "step ring and step memory", 1: what each shared operation does to step memory, to the port's
owner and to the halt fields. -/

namespace Sys2Proof.Machine

/-! ### Step memory under the engine's writes -/

/-- What the engine's own writes keep: the canonical form, and bytes 0 to 13 of every record (R3, R4, R15). -/
def Memory.OperandsKept (m m' : Memory) : Prop :=
  Memory.wf m → Memory.wf m' ∧ ∀ a, a < 16384 → a % 16 < 14 → Memory.read m' a = Memory.read m a

theorem Memory.OperandsKept.refl (m : Memory) : Memory.OperandsKept m m := fun h => ⟨h, fun _ _ _ => rfl⟩

theorem Memory.OperandsKept.of_eq {m m' : Memory} (h : m' = m) : Memory.OperandsKept m m' := h ▸ .refl m

theorem Memory.OperandsKept.trans {m m' m'' : Memory} (h : Memory.OperandsKept m m')
    (h' : Memory.OperandsKept m' m'') : Memory.OperandsKept m m'' := by
  intro hm
  obtain ⟨hm', hread⟩ := h hm
  obtain ⟨hm'', hread'⟩ := h' hm'
  exact ⟨hm'', fun a ha hb => (hread' a ha hb).trans (hread a ha hb)⟩

/-- A byte written behind the ring or among the outcome bytes of a record. -/
theorem Memory.operandsKept_write (m : Memory) (v : Byte) {a : Nat} (ha : a < Config.memoryBytes)
    (hplace : 16384 ≤ a ∨ 14 ≤ a % 16) : Memory.OperandsKept m (Memory.write m a v) := by
  refine fun hm => ⟨Memory.write_wf v hm ha, fun b hb hmod => ?_⟩
  rw [Memory.read_write hm, if_neg (by rintro rfl; omega)]

/-- The two outcome bytes of a record (R15). -/
theorem State.writeOutcome_operands (s : State) (index : RingIndex) (o : StepOutcome) (count : Byte) :
    Memory.OperandsKept s.mem (s.writeOutcome index o count).mem := by
  have hi := index.isLt
  have h14 := Memory.operandsKept_write s.mem o.code (a := 16 * index.toNat + 14)
    (by simp only [Config.memoryBytes]; omega) (by omega)
  have h15 := Memory.operandsKept_write (Memory.write s.mem (16 * index.toNat + 14) o.code) count
    (a := 16 * index.toNat + 15) (by simp only [Config.memoryBytes]; omega) (by omega)
  exact h14.trans h15

/-- A record written behind the ring. -/
theorem Memory.operandsKept_putRecord (m : Memory) (entry : Record) {base : Nat} (hbase : 16384 ≤ base)
    (hroom : base + 16 ≤ Config.memoryBytes) : Memory.OperandsKept m (Memory.putRecord m base entry) := by
  intro hm
  refine ⟨Memory.putRecord_wf entry hm hroom, fun a ha _ => ?_⟩
  rw [Memory.read_putRecord entry hm hroom, if_neg (by omega)]

/-- The capture buffer lies behind the ring and inside step memory (R3, R64). -/
theorem captureSlot_bounds (n : BitVec 9) : 16384 ≤ Config.captureBase + 16 * n.toNat ∧
    Config.captureBase + 16 * n.toNat + 16 ≤ Config.memoryBytes := by
  have hn := n.isLt
  simp only [Config.captureBase, Config.memoryBytes]
  omega

theorem State.writeCapture_operands (s : State) (entry : Record) :
    Memory.OperandsKept s.mem (s.writeCapture entry).mem := by
  obtain ⟨hbase, hroom⟩ := captureSlot_bounds s.probe.nextIndex
  have hentry := Memory.operandsKept_putRecord s.mem entry hbase hroom
  exact hentry

theorem State.writeBack_operands (s : State) (r : Record) (o : StepOutcome) :
    Memory.OperandsKept s.mem (s.writeBack r o).mem := by
  unfold State.writeBack
  split
  · split
    · exact .of_eq (by simp)
    · exact s.writeOutcome_operands _ _ _
  · exact .refl _

theorem State.abandon_operands (s : State) : Memory.OperandsKept s.mem s.abandon.mem := by
  unfold State.abandon
  split
  · split
    · exact .refl _
    · rename_i r _
      exact State.writeBack_operands { s with
        probe := { s.probe with strobe := none }, rail := { s.rail with average := none } } r .aborted
  · exact .refl _

/-! ### The operations that leave the engine alone or halt it -/

/-- All that the Draw Unit, the Power Path, the Fault Recorder and the Rack Line Port can do to the engine, to its port and to
step memory: nothing, or the halt of an active job with its ABORTED written or waiting (R46, R47). -/
inductive StandsOrHalts (s t : State) : Prop
  | stands (heng : t.eng = s.eng) (hport : t.port = s.port) (hmem : t.mem = s.mem)
  | halts (reason : HaltReason) (hactive : s.eng.job.active = true) (heng : t.eng = haltedEngine s.eng reason)
      (howner : t.port.owner = ownerReleased s)
      (hwaits : t.port.waits = s.port.waits ∨
        (s.port.owner = .bench ∧ ∃ i o c, t.port.waits = s.port.waits ++ [.outcome i o c none]))
      (hmem : Memory.OperandsKept s.mem t.mem)

theorem StandsOrHalts.refl (s : State) : StandsOrHalts s s := .stands rfl rfl rfl

/-- A halted job is not active, so a second halt finds nothing to do. -/
theorem StandsOrHalts.trans {s t u : State} (h : StandsOrHalts s t) (h' : StandsOrHalts t u) : StandsOrHalts s u := by
  cases h with
  | stands heng hport hmem =>
    cases h' with
    | stands heng' hport' hmem' => exact .stands (heng'.trans heng) (hport'.trans hport) (hmem'.trans hmem)
    | halts reason hactive heng' howner hwaits hmem' =>
      rw [heng] at hactive heng'
      rw [hport] at hwaits
      rw [hmem] at hmem'
      exact .halts reason hactive heng' (by rw [howner]; simp only [ownerReleased, hport]) hwaits hmem'
  | halts reason hactive heng howner hwaits hmem =>
    cases h' with
    | stands heng' hport' hmem' =>
      exact .halts reason hactive (heng'.trans heng) (by rw [hport', howner]) (by rw [hport']; exact hwaits)
        (by rw [hmem']; exact hmem)
    | halts _ hactive' => rw [heng] at hactive'; cases hactive'

/-- What follows an operation that does not touch the engine. -/
theorem StandsOrHalts.of_stands {s t u : State} (h : StandsOrHalts t u) (heng : t.eng = s.eng) (hport : t.port = s.port)
    (hmem : t.mem = s.mem) : StandsOrHalts s u :=
  (StandsOrHalts.stands heng hport hmem).trans h

theorem State.haltActive_standsOrHalts (s : State) (reason : HaltReason) : StandsOrHalts s (s.haltActive reason) := by
  have hmem : Memory.OperandsKept s.mem (s.haltActive reason).mem := by
    unfold State.haltActive
    split
    · exact s.abandon_operands.trans (.of_eq (by simp))
    · exact .refl _
  obtain ⟨hidle, hhalts⟩ := s.haltActive_halts reason
  by_cases hactive : s.eng.job.active = true
  · obtain ⟨hnone, hflight⟩ := hhalts hactive
    by_cases hc : s.eng.job ≠ .running ∨ s.eng.copy = none
    · have heq := hnone hc
      exact .halts reason hactive (by rw [heq]) (by rw [heq]) (.inl (by rw [heq])) hmem
    · rw [not_or, not_not] at hc
      obtain ⟨hrun, hcopy⟩ := hc
      obtain ⟨r, hr⟩ := Option.ne_none_iff_exists'.mp hcopy
      obtain ⟨heq, -⟩ := hflight r hrun hr
      refine .halts reason hactive (by rw [heq]) (by rw [heq]) ?_ hmem
      rw [heq]
      by_cases hw : reportFlag r = true ∧ s.port.owner = .bench
      · exact .inr ⟨hw.2, _, _, _, if_pos hw⟩
      · exact .inl (if_neg hw)
  · rw [hidle (by simpa using hactive)]
    exact .refl s

theorem State.claimRefused_standsOrHalts (s : State) : StandsOrHalts s s.claimRefused := by
  unfold State.claimRefused
  dsimp only
  split
  · exact (State.haltActive_standsOrHalts _ _).of_stands (by simp) (by simp) (by simp)
  · exact .stands (by simp) (by simp) (by simp)

theorem State.handClaim_standsOrHalts (s : State) : StandsOrHalts s s.handClaim := by
  unfold State.handClaim
  split
  · exact .refl s
  · dsimp only
    split
    · exact (State.claimRefused_standsOrHalts _).of_stands rfl rfl rfl
    · exact .stands rfl rfl rfl

theorem State.claimDropped_standsOrHalts (s : State) : StandsOrHalts s s.claimDropped := by
  unfold State.claimDropped
  dsimp only
  split
  · exact (State.claimRefused_standsOrHalts _).of_stands rfl rfl rfl
  · exact (State.handClaim_standsOrHalts _).of_stands rfl rfl rfl
  · exact .stands rfl rfl rfl

theorem State.claimHeard_standsOrHalts (s : State) : StandsOrHalts s s.claimHeard := by
  unfold State.claimHeard
  dsimp only
  split
  · exact .stands rfl rfl rfl
  · exact (State.handClaim_standsOrHalts _).of_stands rfl rfl rfl
  · exact .stands rfl rfl rfl

theorem State.askClaim_standsOrHalts (s : State) (asking : Draw) : StandsOrHalts s (s.askClaim asking) := by
  unfold State.askClaim
  dsimp only
  split
  · exact (State.handClaim_standsOrHalts _).of_stands rfl rfl rfl
  · exact .stands rfl rfl rfl

theorem State.handFail_standsOrHalts (s : State) (i : FaultInfo) (q : BitVec 16) : StandsOrHalts s (s.handFail i q) := by
  unfold State.handFail
  dsimp only
  split
  · exact (State.claimDropped_standsOrHalts _).of_stands rfl rfl rfl
  · exact .stands rfl rfl rfl

theorem State.haltFlood_standsOrHalts (s : State) : StandsOrHalts s s.haltFlood := by
  unfold State.haltFlood
  split
  · exact (State.haltActive_standsOrHalts _ _).of_stands (by simp) (by simp) (by simp)
  · exact .refl s

theorem State.recordFault_standsOrHalts (s : State) (i : FaultInfo) (a : Option GuardAction) :
    StandsOrHalts s (s.recordFault i a) := by
  have hnotice : ∀ f : Recorder, StandsOrHalts s (({ s with faults := f } : State).handFail i s.faults.nextSequence) :=
    fun f => (State.handFail_standsOrHalts { s with faults := f } _ _).of_stands rfl rfl rfl
  unfold State.recordFault
  dsimp only
  split
  · exact hnotice _
  · split
    · exact hnotice _
    · exact (hnotice _).trans (State.haltFlood_standsOrHalts _)

theorem State.powerDown_standsOrHalts (s : State) (target : PowerState) : StandsOrHalts s (s.powerDown target) :=
  .stands (by simp) (by simp) (by simp)

theorem State.takeTrip_standsOrHalts (s : State) (i : FaultInfo) : StandsOrHalts s (s.takeTrip i) :=
  ((s.powerDown_standsOrHalts _).trans (State.recordFault_standsOrHalts _ _ _)).trans (State.haltActive_standsOrHalts _ _)

theorem State.takeOverdraw_standsOrHalts (s : State) : StandsOrHalts s s.takeOverdraw :=
  ((s.powerDown_standsOrHalts _).trans (State.recordFault_standsOrHalts _ _ _)).trans (State.haltActive_standsOrHalts _ _)

theorem State.captureFailed_standsOrHalts (s : State) : StandsOrHalts s s.captureFailed :=
  .stands (by simp) (by simp) (by simp)

theorem State.enterRamping_standsOrHalts (s : State) : StandsOrHalts s s.enterRamping :=
  .stands (by simp) (by simp) (by simp)

theorem State.captureDone_standsOrHalts (s : State) : StandsOrHalts s s.captureDone := by
  unfold State.captureDone
  split
  · exact .refl s
  · split
    · exact (State.askClaim_standsOrHalts _ _).of_stands rfl rfl rfl
    · exact s.enterRamping_standsOrHalts

theorem State.guardClass_standsOrHalts (s : State) (action : Option GuardAction) (c : FaultClass) :
    StandsOrHalts s (s.guardClass action c) := by
  unfold State.guardClass
  split
  · exact (s.powerDown_standsOrHalts _).trans (State.haltActive_standsOrHalts _ _)
  · exact .refl s

theorem State.setDuplicate_standsOrHalts (s : State) : StandsOrHalts s s.setDuplicate := by
  unfold State.setDuplicate
  dsimp only
  split
  · exact (State.claimDropped_standsOrHalts _).of_stands rfl rfl rfl
  · exact .stands rfl rfl rfl

theorem State.handOn_stands (s : State) (k : FrameKind) (f : Frame) : StandsOrHalts s (s.handOn k f) := by
  cases k <;> exact .stands (by simp [State.handOn]) (by simp [State.handOn]) (by simp [State.handOn])

theorem State.receiveFrame_standsOrHalts (s : State) (f : Frame) : StandsOrHalts s (s.receiveFrame f) := by
  have hend : StandsOrHalts s s.frameEnded := .stands rfl rfl rfl
  unfold State.receiveFrame
  split
  · exact .stands (by simp [State.frameEnded]) (by simp [State.frameEnded]) (by simp [State.frameEnded])
  · exact hend
  · exact hend.trans (State.setDuplicate_standsOrHalts _)
  · exact hend.trans (State.handOn_stands _ _ _)

theorem State.frameCompleted_standsOrHalts (s : State) (f : TxFrame) : StandsOrHalts s (s.frameCompleted f) := by
  unfold State.frameCompleted
  dsimp only
  split
  · exact (State.claimHeard_standsOrHalts _).of_stands rfl rfl rfl
  · exact .stands rfl rfl rfl

end Sys2Proof.Machine
end

section
/-! PROOFS of the family "step ring and step memory", 2: the engine's own operations on step memory, the port's owner and
the halt fields, and the invariants O3 and O7 with the rule O11. -/

namespace Sys2Proof.Machine

/-! ### What every operation of the engine keeps -/

/-- An operation that writes memory as the engine does (R15, R64), neither takes the port from the bench nor asks for it
(R19), and keeps the halt fields right (R23). -/
structure EngineKeeps (s t : State) : Prop where
  operands : Memory.OperandsKept s.mem t.mem
  port : t.port.owner = .engine ↔ s.port.owner = .engine
  haltFields : s.HaltFieldsRight → t.HaltFieldsRight

theorem EngineKeeps.refl (s : State) : EngineKeeps s s := ⟨.refl _, Iff.rfl, id⟩

theorem EngineKeeps.trans {s t u : State} (h : EngineKeeps s t) (h' : EngineKeeps t u) : EngineKeeps s u :=
  ⟨h.operands.trans h'.operands, h'.port.trans h.port, fun hs => h'.haltFields (h.haltFields hs)⟩

/-- The halt fields hang on the job state, the halt reason and the halt index alone (R23). -/
theorem State.HaltFieldsRight.congr {s t : State} (h : s.HaltFieldsRight) (hjob : t.eng.job = s.eng.job)
    (hreason : t.eng.haltReason = s.eng.haltReason) (hindex : t.eng.haltIndex = s.eng.haltIndex) : t.HaltFieldsRight := by
  unfold State.HaltFieldsRight at h ⊢
  rw [hjob, hreason, hindex]
  exact h

/-- A job that has neither halted nor ended has no halt reason and no halt index. -/
theorem State.haltFieldsRight_of_none {s : State} (hjob : s.eng.job ≠ .halted ∧ s.eng.job ≠ .ended)
    (hreason : s.eng.haltReason = none) (hindex : s.eng.haltIndex = none) : s.HaltFieldsRight := by
  unfold State.HaltFieldsRight
  split <;> simp_all

theorem State.HaltFieldsRight.none {s : State} (h : s.HaltFieldsRight) (hjob : s.eng.job ≠ .halted ∧ s.eng.job ≠ .ended) :
    s.eng.haltReason = none ∧ s.eng.haltIndex = none := by
  unfold State.HaltFieldsRight at h
  split at h <;> simp_all

theorem State.haltFieldsRight_of_halted {s : State} {e : Engine} {reason : HaltReason}
    (h : s.eng = haltedEngine e reason) : s.HaltFieldsRight := by
  unfold State.HaltFieldsRight
  rw [h]
  exact ⟨rfl, rfl⟩

/-- The release of the port leaves it with the engine exactly where it was (R19). -/
@[simp] theorem ownerReleased_eq_engine (s : State) : ownerReleased s = .engine ↔ s.port.owner = .engine := by
  unfold ownerReleased
  split <;> simp_all

/-- An operation that touches memory, the port's owner and the job in none of these ways. -/
theorem EngineKeeps.of_eq {s t : State} (hmem : t.mem = s.mem) (hport : t.port.owner = .engine ↔ s.port.owner = .engine)
    (hjob : t.eng.job = s.eng.job) (hreason : t.eng.haltReason = s.eng.haltReason)
    (hindex : t.eng.haltIndex = s.eng.haltIndex) : EngineKeeps s t :=
  ⟨.of_eq hmem, hport, fun h => h.congr hjob hreason hindex⟩

/-- What follows an operation on another block. -/
theorem EngineKeeps.of_stands {s t u : State} (h : EngineKeeps t u) (heng : t.eng = s.eng) (hport : t.port = s.port)
    (hmem : t.mem = s.mem) : EngineKeeps s u :=
  EngineKeeps.trans (.of_eq hmem (by rw [hport]) (by rw [heng]) (by rw [heng]) (by rw [heng])) h

/-- What follows a change of the engine's other fields. -/
theorem EngineKeeps.of_engine {s t u : State} (h : EngineKeeps t u) (hmem : t.mem = s.mem)
    (hport : t.port.owner = s.port.owner) (hjob : t.eng.job = s.eng.job) (hreason : t.eng.haltReason = s.eng.haltReason)
    (hindex : t.eng.haltIndex = s.eng.haltIndex) : EngineKeeps s u :=
  EngineKeeps.trans (.of_eq hmem (by rw [hport]) hjob hreason hindex) h

theorem StandsOrHalts.keeps {s t : State} (h : StandsOrHalts s t) : EngineKeeps s t := by
  cases h with
  | stands heng hport hmem => exact (EngineKeeps.refl t).of_stands heng hport hmem
  | halts reason _ heng howner _ hmem => exact ⟨hmem, by rw [howner]; simp, fun _ => State.haltFieldsRight_of_halted heng⟩

/-! ### Halts, fetches and the step boundary -/

theorem State.haltJob_keeps (s : State) (reason : HaltReason) : EngineKeeps s (s.haltJob reason) :=
  ⟨.of_eq (by simp), by simp [State.haltJob_eq], fun _ => State.haltFieldsRight_of_halted (s.haltJob_eng reason)⟩

theorem State.writeBack_keeps (s : State) (r : Record) (o : StepOutcome) : EngineKeeps s (s.writeBack r o) :=
  ⟨s.writeBack_operands r o, by simp, fun h => h.congr (by simp) (by simp) (by simp)⟩

theorem State.abandon_keeps (s : State) : EngineKeeps s s.abandon :=
  ⟨s.abandon_operands, by simp, fun h => h.congr (by simp) (by simp) (by simp)⟩

theorem State.refuseRecord_keeps (s : State) : EngineKeeps s s.refuseRecord := by
  unfold State.refuseRecord
  split
  · exact .refl s
  · exact (s.writeBack_keeps _ _).trans (State.haltJob_keeps _ _)

theorem State.fetch_keeps (s : State) : EngineKeeps s s.fetch :=
  .of_eq (by simp) (by simp) (by simp) (by simp) (by simp)

/-- The fetch test is made in RUNNING (R29). -/
theorem State.fetchTest_keeps {s : State} (hjob : s.eng.job = .running) : EngineKeeps s s.fetchTest := by
  refine ⟨.of_eq (by simp), ?_, fun h => ?_⟩
  · rw [State.fetchTest_eq]
    split_ifs <;> simp
  · obtain ⟨hreason, hindex⟩ := h.none (by simp [hjob])
    refine State.haltFieldsRight_of_none ?_ (by simpa using hreason) (by simpa using hindex)
    rw [State.fetchTest_eq]
    split_ifs <;> simp [hjob]

/-- The step boundary is one of a job that runs (R33). -/
theorem State.boundary_keeps {s : State} (hjob : s.eng.job = .running) (a : AfterStep) : EngineKeeps s (s.boundary a) := by
  refine ⟨.of_eq (by simp), by simp [State.boundary_eq], fun h => ?_⟩
  obtain ⟨hreason, hindex⟩ := h.none (by simp [hjob])
  refine State.haltFieldsRight_of_none ?_ (by simpa using hreason) (by simpa using hindex)
  simp only [State.boundary_eq]
  split_ifs <;> simp [hjob]

theorem State.endJob_keeps (s : State) : EngineKeeps s s.endJob := by
  refine ⟨.of_eq (by simp), by simp [State.endJob, State.releasePort_eq, ownerReleased_eq_engine], fun _ => ?_⟩
  simp [State.HaltFieldsRight, State.endJob]

theorem State.isolateBoard_keeps (s : State) : EngineKeeps s s.isolateBoard :=
  .of_eq (by simp) (by simp) (by simp) (by simp) (by simp)

theorem State.enterPhase_keeps (s : State) (p : StepPhase) (k : Option Timer) : EngineKeeps s (s.enterPhase p k) :=
  .of_eq (by simp) (by simp [State.enterPhase_eq]) (by simp) (by simp) (by simp)

/-! ### Completions -/

theorem State.goOn_keeps {s : State} (hjob : s.eng.job = .running) (a : AfterStep) : EngineKeeps s (s.goOn a) := by
  cases a with
  | stop => exact s.endJob_keeps
  | halt reason => exact s.haltJob_keeps reason
  | isolate => exact s.isolateBoard_keeps.trans (State.haltJob_keeps _ _)
  | advance => exact State.boundary_keeps hjob _
  | enter l => exact State.boundary_keeps hjob _
  | skip e => exact State.boundary_keeps hjob _

theorem State.goOnHalted_keeps (s : State) (a : AfterStep) : EngineKeeps s (s.goOnHalted a) :=
  .of_eq (by simp) (by simp) (by simp) (by simp) (by simp)

theorem State.finish_keeps (s : State) (c : Completion) : EngineKeeps s (s.finish c) := by
  unfold State.finish
  dsimp only
  split
  · rename_i hjob
    exact (State.goOn_keeps (by simpa using hjob) _).of_stands (by simp) (by simp) (by simp)
  · exact (State.goOnHalted_keeps _ _).of_stands (by simp) (by simp) (by simp)

theorem State.writeOutcome_keeps (s : State) (index : RingIndex) (o : StepOutcome) (count : Byte) :
    EngineKeeps s (s.writeOutcome index o count) :=
  ⟨s.writeOutcome_operands index o count, by simp, fun h => h.congr (by simp) (by simp) (by simp)⟩

theorem State.complete_keeps (s : State) (o : StepOutcome) (a : AfterStep) : EngineKeeps s (s.complete o a) := by
  unfold State.complete
  split
  · exact .refl s
  · dsimp only
    have hready : EngineKeeps s { s with
        eng := { s.eng with copy := none, phase := .ready, judged := none, timer := none } } := .of_eq rfl Iff.rfl rfl rfl rfl
    split
    · split
      · exact hready.trans (.of_eq rfl Iff.rfl rfl rfl rfl)
      · exact (hready.trans (State.writeOutcome_keeps _ _ _ _)).trans (State.finish_keeps _ _)
    · exact hready.trans (State.finish_keeps _ _)

theorem State.completePassed_keeps (s : State) (first : StepOutcome) : EngineKeeps s (s.completePassed first) :=
  s.complete_keeps _ _

theorem State.writeCapture_keeps (s : State) (entry : Record) : EngineKeeps s (s.writeCapture entry) :=
  ⟨s.writeCapture_operands entry, by simp, fun h => h.congr (by simp) (by simp) (by simp)⟩

theorem State.wait_keeps (s : State) (a : EngineAccess) : EngineKeeps s (s.wait a) :=
  .of_eq (by simp) (by simp) (by simp) (by simp) (by simp)

theorem State.storeCapture_keeps (s : State) (entry : Record) (o : Option StepOutcome) :
    EngineKeeps s (s.storeCapture entry o) := by
  unfold State.storeCapture
  split
  · exact s.wait_keeps _
  · exact s.writeCapture_keeps entry

theorem State.makeAccess_keeps (s : State) (a : EngineAccess) : EngineKeeps s (s.makeAccess a) := by
  cases a with
  | capture entry completes =>
    have hentry := s.writeCapture_keeps entry
    cases completes with
    | none => exact hentry
    | some o =>
      simp only [State.makeAccess]
      split
      · exact hentry.trans (State.complete_keeps _ _ _)
      · exact hentry
  | outcome index code count after =>
    have hbytes := s.writeOutcome_keeps index code count
    cases after with
    | none => exact hbytes
    | some c => exact hbytes.trans (State.finish_keeps _ _)
  | fetch =>
    simp only [State.makeAccess]
    split
    · exact s.fetch_keeps
    · exact .refl s

theorem State.foldl_makeAccess_keeps (l : List EngineAccess) (s : State) : EngineKeeps s (l.foldl State.makeAccess s) := by
  induction l generalizing s with
  | nil => exact .refl s
  | cons a l ih => exact (s.makeAccess_keeps a).trans (ih _)

/-! ### Faults, strobes and moves -/

theorem State.enterJudging_keeps (s : State) (q : BitVec 16) : EngineKeeps s (s.enterJudging q) := by
  unfold State.enterJudging
  split
  · exact (State.enterPhase_keeps _ _ _).of_engine rfl rfl rfl rfl rfl
  · exact .refl s

theorem State.recordFault_keeps (s : State) (i : FaultInfo) (a : Option GuardAction) : EngineKeeps s (s.recordFault i a) :=
  (s.recordFault_standsOrHalts i a).keeps

theorem State.stepFault_keeps (s : State) (i : FaultInfo) : EngineKeeps s (s.stepFault i) := by
  unfold State.stepFault
  split
  · exact (s.recordFault_keeps _ _).trans (State.enterJudging_keeps _ _)
  · exact s.recordFault_keeps _ _

theorem State.strobeJudged_keeps (s : State) (r : Record) (levels : Levels) (qualifiedTaken : Bool) (result : FieldResult)
    (fault : FaultInfo) : EngineKeeps s (s.strobeJudged r levels qualifiedTaken result fault) := by
  have hraised : ∀ entry, EngineKeeps s ((if noCaptureFlag r then s else s.storeCapture entry none).stepFault fault) := by
    intro entry
    split
    · exact s.stepFault_keeps _
    · exact (s.storeCapture_keeps _ _).trans (State.stepFault_keeps _ _)
  have hpassed : ∀ entry outcome, EngineKeeps s (if noCaptureFlag r then s.complete outcome .advance
      else if s.port.owner = .bench then s.wait (.capture entry (some outcome))
      else (s.writeCapture entry).complete outcome .advance) := by
    intro entry outcome
    split
    · exact s.complete_keeps _ _
    · split
      · exact s.wait_keeps _
      · exact (s.writeCapture_keeps _).trans (State.complete_keeps _ _ _)
  cases result with
  | mismatch => exact hraised _
  | jump => exact hraised _
  | none_ => exact hpassed _ _
  | pass => exact hpassed _ _

theorem State.strobeComplete_keeps (s : State) (levels : Levels) (qualifiedTaken : Bool) :
    EngineKeeps s (s.strobeComplete levels qualifiedTaken) := by
  unfold State.strobeComplete
  split
  · exact .refl s
  · dsimp only
    split <;> exact (State.strobeJudged_keeps _ _ _ _ _ _).of_engine rfl rfl rfl rfl rfl

theorem State.holdOffEnded_keeps (s : State) (o : SampleOp) (start : Time) (testPoints : Levels) :
    EngineKeeps s (s.holdOffEnded o start testPoints) := by
  unfold State.holdOffEnded
  dsimp only
  split
  · exact s.strobeComplete_keeps _ _
  · exact .of_eq rfl Iff.rfl rfl rfl rfl

theorem State.settleEnded_keeps (s : State) (o : SampleOp) (testPoints : Levels) :
    EngineKeeps s (s.settleEnded o testPoints) := by
  unfold State.settleEnded
  dsimp only
  split
  · exact (State.holdOffEnded_keeps _ _ _ _).of_engine rfl rfl rfl rfl rfl
  · exact .of_eq rfl Iff.rfl rfl rfl rfl

theorem State.strobeTimedOut_keeps (s : State) (b : Strobe) (testPoints : Levels) :
    EngineKeeps s (s.strobeTimedOut b testPoints) := by
  unfold State.strobeTimedOut
  split
  · exact .refl s
  · dsimp only
    split
    · exact (State.stepFault_keeps _ _).of_stands rfl rfl rfl
    · exact ((State.storeCapture_keeps _ _ _).trans (State.stepFault_keeps _ _)).of_stands rfl rfl rfl

theorem State.powerReached_keeps (s : State) : EngineKeeps s s.powerReached := by
  unfold State.powerReached
  split
  · exact s.completePassed_keeps _
  · exact .refl s

theorem State.claimGranted_keeps (s : State) : EngineKeeps s s.claimGranted := by
  unfold State.claimGranted
  split
  · exact .refl s
  · dsimp only
    split
    · exact .of_eq rfl Iff.rfl rfl rfl rfl
    · split
      · exact (State.powerReached_keeps _).of_stands rfl rfl rfl
      · exact (State.enterRamping_standsOrHalts _).keeps.of_stands rfl rfl rfl

theorem State.rampEnded_keeps (s : State) : EngineKeeps s s.rampEnded := by
  unfold State.rampEnded
  split
  · exact .refl s
  · exact (State.powerReached_keeps _).of_stands (by simp) (by simp) (by simp)

theorem State.startSetClaim_keeps (s : State) (start : PowerState) (o : PowerOp) :
    EngineKeeps s (s.startSetClaim start o) :=
  ((State.enterPhase_keeps _ _ _).trans (State.askClaim_standsOrHalts _ _).keeps).of_stands rfl rfl rfl

theorem State.startUpward_keeps (s : State) (o : PowerOp) : EngineKeeps s (s.startUpward o) :=
  (State.enterPhase_keeps _ _ _).of_stands rfl rfl rfl

theorem State.setDraw_keeps (s : State) (o : PowerOp) : EngineKeeps s (s.setDraw o) := by
  unfold State.setDraw
  split
  · exact s.completePassed_keeps _
  · split
    · exact (State.completePassed_keeps _ _).of_stands (by simp) (by simp) (by simp)
    · exact s.startSetClaim_keeps _ _

theorem State.downward_keeps (s : State) (o : PowerOp) : EngineKeeps s (s.downward o) := by
  unfold State.downward
  dsimp only
  split
  · exact (State.completePassed_keeps _ _).of_stands (by simp) (by simp) (by simp)
  · split
    · exact (State.completePassed_keeps _ _).of_stands rfl rfl rfl
    · exact (State.startSetClaim_keeps _ _ _).of_stands rfl rfl rfl

/-- The trip limits of a powered target are taken before its move, and touch the Power Path alone (R106). -/
theorem State.runPower_keeps {s t : State} {o : PowerOp} (h : s.runPower o = some t) : EngineKeeps s t := by
  unfold State.runPower at h
  dsimp only at h
  generalize hu : (if o.target = .off then s
    else { s with power := { s.power with mainTrip := o.mainTrip, standbyTrip := o.standbyTrip } }) = u at h
  have hsame : u.eng = s.eng ∧ u.port = s.port ∧ u.mem = s.mem := by
    subst hu
    split <;> exact ⟨rfl, rfl, rfl⟩
  obtain ⟨heng, hport, hmem⟩ := hsame
  suffices hkeeps : EngineKeeps u t from hkeeps.of_stands heng hport hmem
  split at h <;> cases h
  · exact u.completePassed_keeps _
  · exact (State.completePassed_keeps _ _).of_stands (by simp) (by simp) (by simp)
  · exact (State.completePassed_keeps _ _).of_stands (by simp) (by simp) (by simp)
  · exact u.startUpward_keeps _
  · exact u.startUpward_keeps _
  · exact u.startUpward_keeps _
  · exact u.setDraw_keeps _
  · exact u.setDraw_keeps _
  · exact u.downward_keeps _

theorem State.dispatchPower_keeps {s t : State} {r : Record} (h : s.dispatchPower r = some t) : EngineKeeps s t := by
  unfold State.dispatchPower at h
  split at h
  · cases h
    exact s.refuseRecord_keeps
  · exact State.runPower_keeps h

theorem State.startSample_keeps (s : State) : EngineKeeps s s.startSample :=
  (State.enterPhase_keeps _ _ _).of_stands rfl rfl rfl

theorem State.startAverage_keeps (s : State) (o : RailcheckOp) : EngineKeeps s (s.startAverage o) :=
  (State.enterPhase_keeps _ _ _).of_stands rfl rfl rfl

theorem State.engineClass_keeps (s : State) (q : BitVec 16) (c : FaultClass) : EngineKeeps s (s.engineClass q c) := by
  unfold State.engineClass
  split
  · split
    · exact .refl s
    · split <;> exact s.complete_keeps _ _
    · split
      · exact (State.enterPhase_keeps _ _ _).of_engine rfl rfl rfl rfl rfl
      · exact s.complete_keeps _ _
  · exact .refl s

theorem State.dispatchClass_keeps (s : State) (r : FaultRecord) (c : FaultClass) : EngineKeeps s (s.dispatchClass r c) := by
  unfold State.dispatchClass
  split
  · exact (s.guardClass_standsOrHalts _ _).keeps
  · exact .refl s
  · exact .refl s
  · exact s.engineClass_keeps _ _

/-! ### Bench requests -/

theorem State.retest_keeps (s : State) : EngineKeeps s s.retest := by
  unfold State.retest
  dsimp only
  split
  · rename_i hstarved
    have hruns : EngineKeeps s { s with eng := { s.eng with job := .running } } := by
      refine ⟨.refl _, Iff.rfl, fun h => ?_⟩
      obtain ⟨hreason, hindex⟩ := h.none (by simp [hstarved])
      exact State.haltFieldsRight_of_none (by simp) hreason hindex
    split
    · split
      · exact .refl s
      · exact hruns.trans (State.fetchTest_keeps rfl)
    · split
      · exact hruns.trans (State.complete_keeps _ _ _)
      · exact .refl s
  · exact .refl s

theorem State.postTo_keeps (s : State) (index : RingIndex) : EngineKeeps s (s.postTo index) := by
  unfold State.postTo
  split
  · exact .refl s
  · exact (State.retest_keeps _).of_engine rfl rfl rfl rfl rfl

theorem State.start_keeps (s : State) : EngineKeeps s s.start := by
  have hruns : EngineKeeps s { s with eng := { s.eng with
      job := .running, phase := .ready, attempt := 0, latch := false, haltReason := none, haltIndex := none } } :=
    ⟨.refl _, Iff.rfl, fun _ => State.haltFieldsRight_of_none (by simp) rfl rfl⟩
  exact hruns.trans (State.fetchTest_keeps rfl)

theorem State.abort_keeps (s : State) : EngineKeeps s s.abort :=
  (s.abandon_keeps.trans (State.isolateBoard_keeps _)).trans (State.haltJob_keeps _ _)

theorem State.clear_keeps (s : State) : EngineKeeps s s.clear := by
  have heng : s.clear.eng = s.eng.cleared := by simp [State.clear]
  exact ⟨.of_eq (by simp), by simp,
    fun _ => State.haltFieldsRight_of_none (by rw [heng]; simp [Engine.cleared, Engine.reset]) (by rw [heng]; rfl) (by rw [heng]; rfl)⟩

/-- An accepted PAUSE or RESUME of a job that is neither HALTED nor ENDED (R25, R26). -/
theorem State.pauseVerdict_keeps {s t : State} {p : List Byte} (h : s.pauseVerdict p = .ok t) : EngineKeeps s t := by
  unfold State.pauseVerdict at h
  split at h
  · cases h
  · split at h <;> cases h
    · exact .of_eq rfl Iff.rfl rfl rfl rfl
    · rename_i hstarved
      refine ⟨.refl _, Iff.rfl, fun hs => ?_⟩
      obtain ⟨hreason, hindex⟩ := hs.none (by simp [hstarved])
      exact State.haltFieldsRight_of_none (by simp) hreason hindex
    · exact .refl s

theorem State.resumeVerdict_keeps {s t : State} {p : List Byte} (h : s.resumeVerdict p = .ok t) : EngineKeeps s t := by
  unfold State.resumeVerdict at h
  split at h
  · cases h
  · split at h
    · rename_i hpaused
      cases h
      have hruns : EngineKeeps s { s with eng := { s.eng with job := .running, phase := .ready } } := by
        refine ⟨.refl _, Iff.rfl, fun hs => ?_⟩
        obtain ⟨hreason, hindex⟩ := hs.none (by simp [hpaused])
        exact State.haltFieldsRight_of_none (by simp) hreason hindex
      exact hruns.trans (State.fetchTest_keeps rfl)
    · split at h <;> cases h
      exact .of_eq rfl Iff.rfl rfl rfl rfl
    all_goals cases h

/-- What an accepted CONTROL's effect keeps, its ACCEPT reply and a REFUSE keep (R173). -/
theorem State.controlReply_keeps {s : State} {v : Except RefusalCode State} (hv : ∀ t, v = .ok t → EngineKeeps s t)
    (q : Request) (action : Byte) : EngineKeeps s (s.controlReply q action v) := by
  cases v with
  | error c => exact .of_eq (by simp) (by simp) (by simp) (by simp) (by simp)
  | ok t => exact (hv t rfl).trans (.of_eq (by simp) (by simp) (by simp) (by simp) (by simp))

theorem State.reply_keeps (s : State) (q : Request) (payload : List Byte) : EngineKeeps s (s.reply q payload) :=
  .of_eq (by simp) (by simp) (by simp) (by simp) (by simp)

theorem State.refuse_keeps (s : State) (q : Request) (c : RefusalCode) : EngineKeeps s (s.refuse q c) :=
  s.reply_keeps q _

end Sys2Proof.Machine
end

section
/-! PROOFS of the family "step ring and step memory", 3: the commands, and the invariants of O3 and O7 with the rule of O11. -/

namespace Sys2Proof.Machine

/-! ### The commands that leave the engine alone or halt it -/

/-- The commands that run no record and no request on the engine: time, rounds, guards, trips, frames and queries. -/
def leavesEngine : Instr → Bool
  | .stationTick | .updateRound _ | .guardFault _ | .guardRearm _ | .tripDetection | .overdrawDetection
  | .frameFail _ _ _ | .frameClaim _ _ _ | .frameDraw _ _ _ | .frameJoin _ _ _ | .frameSetup _ _ _ | .ownClaimTaken
  | .duplicateSlotFrame _ | .frameReceivedBad _ _ | .framePassedOver _ | .pendingExpiry _ | .backoffExpiry | .frameBegin
  | .contentionLost | .bitError | .frameSent | .benchRequestArrival _ | .serveUnknownAction | .serveQueryStatus
  | .serveQueryReadings | .serveQueryUnknown | .serveFaultRead | .serveFaultTrim => true
  | .reset _ _ | .zeroCaptureEnd | .rampExpiry | .railcheckAverageEnd | .settleEnd _ | .holdOffRelease _
  | .qualifierEdge _ | .strobeTimerExpiry _ | .waitExpiry | .recoverExpiry | .stepLanes | .stepDrive | .stepSample
  | .stepField | .stepLimits | .stepRailcheck | .stepGuard | .stepScale | .stepPower | .stepWait | .stepRepeat | .stepMark
  | .stepStop | .unknownStepKind | .coincidenceJudgement | .claimJudgement | .serveLoad | .servePost | .servePeek
  | .benchAccessGrant | .serveStart | .servePause | .serveResume | .serveAbort | .serveClear | .serveRing => false

theorem exec_standsOrHalts {i : Instr} {s t : State} (h : exec i s = .next t) (hi : leavesEngine i = true) :
    StandsOrHalts s t := by
  cases hf : frameRead i with
  | some f =>
    cases (exec_of_frameRead hf s).symm.trans h
    exact s.receiveFrame_standsOrHalts f
  | none =>
    cases i with
    | frameFail | frameClaim | frameDraw | frameJoin | frameSetup
    | benchRequestArrival | duplicateSlotFrame | framePassedOver => cases hf
    | frameReceivedBad frame framing =>
      have hbad : rawBad { toFrame := frame, toFraming := framing } = true := by simpa [frameRead] using hf
      cases (execFrameReceivedBad_of_rawBad hbad s).symm.trans h
      split <;> exact .stands (by simp [State.frameEnded]) (by simp [State.frameEnded]) (by simp [State.frameEnded])
    | stationTick => cases h; exact .stands rfl rfl rfl
    | updateRound => cases h; exact .stands rfl rfl rfl
    | guardFault =>
      simp only [exec, execGuardFault] at h
      split at h <;> cases h
      · exact (State.recordFault_standsOrHalts _ _ _).of_stands (by simp) (by simp) (by simp)
      · exact .refl s
    | guardRearm =>
      simp only [exec, execGuardRearm] at h
      split at h <;> cases h
      · exact .stands (by simp) (by simp) (by simp)
      · exact .refl s
    | tripDetection =>
      simp only [exec, execTripDetection] at h
      split at h
      · cases h; exact s.takeTrip_standsOrHalts _
      · split at h <;> cases h
        · exact s.takeTrip_standsOrHalts _
        · exact .refl s
    | overdrawDetection =>
      simp only [exec, execOverdrawDetection] at h
      split at h
      · split at h <;> cases h
        · exact (State.takeOverdraw_standsOrHalts _).of_stands rfl rfl rfl
        · exact .stands rfl rfl rfl
      · cases h; exact .refl s
    | ownClaimTaken =>
      simp only [exec, execOwnClaimTaken] at h
      split at h
      · cases h; exact .refl s
      · split at h <;> cases h
        · exact s.frameCompleted_standsOrHalts _
        · exact .refl s
    | pendingExpiry =>
      simp only [exec, execPendingExpiry] at h
      split at h
      · cases h; exact .refl s
      · split at h <;> cases h
        · exact .stands (by simp) (by simp) (by simp)
        · exact .refl s
    | backoffExpiry =>
      simp only [exec, execBackoffExpiry] at h
      split at h
      · cases h; exact .refl s
      · split at h <;> cases h
        · exact (State.handClaim_standsOrHalts _).of_stands rfl rfl rfl
        · exact .refl s
    | frameBegin =>
      simp only [exec, execFrameBegin] at h
      split at h
      · cases h; exact .refl s
      · split at h <;> cases h
        · exact .refl s
        · exact .stands rfl rfl rfl
    | contentionLost =>
      simp only [exec, execContentionLost] at h
      split at h <;> cases h
      · exact .refl s
      · exact .stands rfl rfl rfl
    | bitError =>
      simp only [exec, execBitError] at h
      split at h
      · cases h; exact .refl s
      · split at h
        · cases h; exact .stands rfl rfl rfl
        · cases h
          split
          · exact (State.claimDropped_standsOrHalts _).of_stands rfl rfl rfl
          · exact .stands rfl rfl rfl
    | frameSent =>
      simp only [exec, execFrameSent] at h
      split at h <;> cases h
      · exact .refl s
      · exact s.frameCompleted_standsOrHalts _
    | serveUnknownAction =>
      obtain ⟨-, hmem, hport, heng, -⟩ := execServeUnknownAction_frame h
      exact .stands heng hport hmem
    | serveQueryStatus =>
      obtain ⟨-, hmem, hport, heng, -⟩ := execServeQueryStatus_frame h
      exact .stands heng hport hmem
    | serveQueryReadings =>
      obtain ⟨-, hmem, hport, heng, -⟩ := execServeQueryReadings_frame h
      exact .stands heng hport hmem
    | serveQueryUnknown =>
      obtain ⟨-, hmem, hport, heng, -⟩ := execServeQueryUnknown_frame h
      exact .stands heng hport hmem
    | serveFaultRead =>
      obtain ⟨-, hmem, hport, heng, -⟩ := execServeFaultRead_frame h
      exact .stands heng hport hmem
    | serveFaultTrim =>
      obtain ⟨-, hmem, hport, heng, -⟩ := execServeFaultTrim_frame h
      exact .stands heng hport hmem
    | _ => cases hi

/-! ### Every command but RESET and the grant of the port -/

theorem execSettleEnd_keeps {testPoints : Levels} {s t : State} (h : execSettleEnd testPoints s = .next t) :
    EngineKeeps s t := by
  unfold execSettleEnd at h
  split at h
  · cases h; exact .refl s
  · split at h <;> cases h
    · exact s.settleEnded_keeps _ _
    · exact .refl s

theorem execHoldOffRelease_keeps {testPoints : Levels} {s t : State} (h : execHoldOffRelease testPoints s = .next t) :
    EngineKeeps s t := by
  unfold execHoldOffRelease at h
  split at h
  · cases h; exact .refl s
  · split at h <;> cases h
    · exact s.holdOffEnded_keeps _ _ _
    · exact .refl s

theorem execQualifierEdge_keeps {testPoints : Levels} {s t : State} (h : execQualifierEdge testPoints s = .next t) :
    EngineKeeps s t := by
  unfold execQualifierEdge at h
  split at h
  · cases h; exact .refl s
  · split at h <;> cases h
    · exact s.strobeComplete_keeps _ _
    · exact .refl s

theorem execStrobeTimerExpiry_keeps {testPoints : Levels} {s t : State}
    (h : execStrobeTimerExpiry testPoints s = .next t) : EngineKeeps s t := by
  unfold execStrobeTimerExpiry at h
  split at h
  · cases h; exact .refl s
  · split at h <;> cases h
    · exact s.strobeTimedOut_keeps _ _
    · exact .refl s

theorem execZeroCaptureEnd_keeps {s t : State} (h : execZeroCaptureEnd s = .next t) : EngineKeeps s t := by
  unfold execZeroCaptureEnd at h
  split at h
  · cases h; exact .refl s
  · rename_i z _
    split at h
    · dsimp only at h
      split at h <;> cases h
      · have hfailed := ((State.recordFault_standsOrHalts { s with rail := { s.rail with zeroCapture := none } }
          (backfeedFault z) none).trans (State.captureFailed_standsOrHalts _)).keeps.of_stands (s := s) rfl rfl rfl
        split
        · exact hfailed.trans (State.enterJudging_keeps _ _)
        · exact hfailed
      · exact (State.captureDone_standsOrHalts _).keeps.of_stands rfl rfl rfl
    · cases h; exact .refl s

theorem execRailcheckAverageEnd_keeps {s t : State} (h : execRailcheckAverageEnd s = .next t) : EngineKeeps s t := by
  unfold execRailcheckAverageEnd at h
  split at h
  · split at h
    · dsimp only at h
      split at h <;> cases h
      · exact (State.stepFault_keeps _ _).of_stands rfl rfl rfl
      · exact (State.completePassed_keeps _ _).of_stands rfl rfl rfl
    · cases h; exact .refl s
  · cases h; exact .refl s

theorem execRecoverExpiry_keeps {s t : State} (h : execRecoverExpiry s = .next t) : EngineKeeps s t := by
  unfold execRecoverExpiry at h
  split at h
  · dsimp only at h
    split at h
    · cases h; exact .refl s
    · split at h
      · cases h; exact (State.startSample_keeps _).of_engine rfl rfl rfl rfl rfl
      · split at h
        · cases h; exact (State.startAverage_keeps _ _).of_engine rfl rfl rfl rfl rfl
        · split at h
          · split at h <;> cases h
            rename_i hpower
            exact (State.dispatchPower_keeps hpower).of_engine rfl rfl rfl rfl rfl
          · cases h; exact .refl s
  · cases h; exact .refl s

theorem execCoincidenceJudgement_keeps {s t : State} (h : execCoincidenceJudgement s = .next t) : EngineKeeps s t := by
  unfold execCoincidenceJudgement at h
  dsimp only at h
  split at h
  · cases h; exact .refl s
  · split at h <;> cases h
    · exact (State.dispatchClass_keeps _ _ _).of_stands rfl rfl rfl
    · exact .refl s

theorem execStepRepeat_keeps {s t : State} (h : execStepRepeat s = .next t) : EngineKeeps s t := by
  unfold execStepRepeat at h
  split at h
  · cases h; exact .refl s
  · rename_i r hr
    split at h
    · cases h; exact s.refuseRecord_keeps
    · split at h <;> cases h
      · exact s.complete_keeps _ _
      · have hrun : s.eng.job = .running := by
          simp only [State.awaitingKind, State.awaiting] at hr
          split at hr
          · rename_i hawait; exact hawait.1
          · cases hr
        refine ⟨.of_eq (by simp), by simp [State.releasePort_eq, ownerReleased_eq_engine], fun hs => ?_⟩
        obtain ⟨hreason, hindex⟩ := hs.none (by simp [hrun])
        exact State.haltFieldsRight_of_none (by simp) (by simpa using hreason) (by simpa using hindex)

/-- Every command but RESET and BENCH_ACCESS_GRANT writes memory as the engine does, leaves the port on the side it was,
and keeps the halt fields right; LOAD and PEEK ask for the port and touch nothing else of this. -/
theorem exec_keeps {i : Instr} {s t : State} (h : exec i s = .next t) (hreset : ∀ slot rate, i ≠ .reset slot rate)
    (hgrant : i ≠ .benchAccessGrant) (hask : i ≠ .serveLoad ∧ i ≠ .servePeek) : EngineKeeps s t := by
  cases i with
  | reset slot rate => exact absurd rfl (hreset slot rate)
  | benchAccessGrant => exact absurd rfl hgrant
  | serveLoad => exact absurd rfl hask.1
  | servePeek => exact absurd rfl hask.2
  | zeroCaptureEnd => exact execZeroCaptureEnd_keeps h
  | railcheckAverageEnd => exact execRailcheckAverageEnd_keeps h
  | settleEnd => exact execSettleEnd_keeps h
  | holdOffRelease => exact execHoldOffRelease_keeps h
  | qualifierEdge => exact execQualifierEdge_keeps h
  | strobeTimerExpiry => exact execStrobeTimerExpiry_keeps h
  | recoverExpiry => exact execRecoverExpiry_keeps h
  | coincidenceJudgement => exact execCoincidenceJudgement_keeps h
  | stepRepeat => exact execStepRepeat_keeps h
  | rampExpiry =>
    simp only [exec, execRampExpiry] at h
    split at h
    · cases h; exact .refl s
    · split at h <;> cases h
      · exact s.rampEnded_keeps
      · exact .refl s
  | claimJudgement =>
    simp only [exec, execClaimJudgement] at h
    split at h
    · split at h
      · split at h <;> cases h
        · exact s.claimGranted_keeps
        · exact s.claimRefused_standsOrHalts.keeps
      · cases h; exact .refl s
    · cases h; exact .refl s
  | waitExpiry =>
    simp only [exec, execWaitExpiry] at h
    split at h <;> cases h
    · exact s.complete_keeps _ _
    · exact .refl s
  | stepLanes =>
    simp only [exec, execStepLanes] at h
    split at h <;> cases h
    · exact .refl s
    · exact (State.complete_keeps _ _ _).of_stands rfl rfl rfl
  | stepDrive =>
    simp only [exec, execStepDrive] at h
    split at h <;> cases h
    · exact .refl s
    · exact (State.complete_keeps _ _ _).of_stands rfl rfl rfl
  | stepSample =>
    simp only [exec, execStepSample] at h
    split at h <;> cases h
    · exact .refl s
    · exact s.startSample_keeps
  | stepField =>
    simp only [exec, execStepField] at h
    split at h
    · cases h; exact .refl s
    · split at h <;> cases h
      · exact s.refuseRecord_keeps
      · exact (State.complete_keeps _ _ _).of_stands rfl rfl rfl
  | stepLimits =>
    simp only [exec, execStepLimits] at h
    split at h
    · cases h; exact .refl s
    · split at h <;> cases h
      · exact s.refuseRecord_keeps
      · exact (State.complete_keeps _ _ _).of_stands rfl rfl rfl
  | stepRailcheck =>
    simp only [exec, execStepRailcheck] at h
    split at h <;> cases h
    · exact .refl s
    · exact s.startAverage_keeps _
  | stepGuard =>
    simp only [exec, execStepGuard] at h
    split at h <;> cases h
    · exact .refl s
    · exact (State.complete_keeps _ _ _).of_stands (by simp) (by simp) (by simp)
  | stepScale =>
    simp only [exec, execStepScale] at h
    split at h <;> cases h
    · exact .refl s
    · exact (State.complete_keeps _ _ _).of_stands (by simp) (by simp) (by simp)
  | stepPower =>
    simp only [exec, execStepPower] at h
    split at h
    · cases h; exact .refl s
    · split at h <;> cases h
      exact State.dispatchPower_keeps ‹_›
  | stepWait =>
    simp only [exec, execStepWait] at h
    split at h
    · cases h; exact .refl s
    · split at h <;> cases h
      · exact s.complete_keeps _ _
      · exact s.enterPhase_keeps _ _
  | stepMark =>
    simp only [exec, execStepMark] at h
    split at h <;> cases h
    · exact .refl s
    · exact s.complete_keeps _ _
  | stepStop =>
    simp only [exec, execStepStop] at h
    split at h <;> cases h
    · exact .refl s
    · exact s.complete_keeps _ _
  | unknownStepKind =>
    simp only [exec, execUnknownStepKind] at h
    split at h <;> cases h
    · exact .refl s
    · exact s.refuseRecord_keeps
  | servePost =>
    simp only [exec, execServePost] at h
    split at h
    · cases h; exact .refl s
    · split at h <;> cases h
      · exact s.refuse_keeps _ _
      · exact (s.postTo_keeps _).trans (State.reply_keeps _ _ _)
  | serveStart =>
    simp only [exec, execServeStart] at h
    split at h <;> cases h
    · exact .refl s
    · refine State.controlReply_keeps (fun u hu => ?_) _ _
      simp only [State.startVerdict] at hu
      split at hu
      · cases hu
      · split at hu
        · cases hu
        · split at hu <;> cases hu
          exact s.start_keeps
  | servePause =>
    simp only [exec, execServePause] at h
    split at h <;> cases h
    · exact .refl s
    · exact State.controlReply_keeps (fun u hu => State.pauseVerdict_keeps hu) _ _
  | serveResume =>
    simp only [exec, execServeResume] at h
    split at h <;> cases h
    · exact .refl s
    · exact State.controlReply_keeps (fun u hu => State.resumeVerdict_keeps hu) _ _
  | serveAbort =>
    simp only [exec, execServeAbort] at h
    split at h <;> cases h
    · exact .refl s
    · refine State.controlReply_keeps (fun u hu => ?_) _ _
      simp only [State.abortVerdict] at hu
      split at hu
      · cases hu
      · split at hu <;> cases hu
        exact s.abort_keeps
  | serveClear =>
    simp only [exec, execServeClear] at h
    split at h <;> cases h
    · exact .refl s
    · refine State.controlReply_keeps (fun u hu => ?_) _ _
      simp only [State.clearVerdict] at hu
      split at hu
      · cases hu
      · split at hu <;> cases hu
        exact s.clear_keeps
  | serveRing =>
    simp only [exec, execServeRing] at h
    split at h <;> cases h
    · exact .refl s
    · refine State.controlReply_keeps (fun u hu => ?_) _ _
      simp only [State.ringVerdict] at hu
      split at hu
      · cases hu
      · split at hu
        · cases hu
        · split at hu <;> cases hu
          exact .of_eq rfl Iff.rfl rfl rfl rfl
  | _ => exact (exec_standsOrHalts h rfl).keeps

end Sys2Proof.Machine
end

section
/-! PROOFS of the family "step ring and step memory", 4: the invariants of O3 and O7, the rule of O11, and the reset state. -/

namespace Sys2Proof.Machine

/-! ### From commands to steps -/

/-- A property that does not look at the commands still waiting, and that every command keeps, is kept by every step. -/
theorem step_keeps_of_exec {P : State → Prop} (hpending : ∀ s cs, P s → P { s with pending := cs })
    (hexec : ∀ i s t, P s → exec i s = .next t → P t) {s t : State} (hs : P s) (h : step s = .next t) : P t := by
  unfold step at h
  split at h
  · cases h; exact hs
  · exact hexec _ _ _ (hpending _ _ hs) h

/-! ### LOAD, PEEK and the grant of the port -/

/-- What a served LOAD or PEEK can do: nothing, a REFUSE, or the wait for the port (R11, R14, R169). -/
theorem execServeLoad_or_peek_cases {i : Instr} (hi : i = .serveLoad ∨ i = .servePeek) {s t : State}
    (h : exec i s = .next t) :
    t = s ∨ (s.bench.service = .checking ∧ ((∃ q c, t = s.refuse q c) ∨ (t = s.waitForPort ∧ s.bench.queue ≠ []))) := by
  have hservice : ∀ k q, s.kindInService k = some q → s.bench.service = .checking ∧ s.bench.queue ≠ [] := by
    intro k q hq
    simp only [State.kindInService, Bench.inService] at hq
    split at hq
    · rename_i hchecking
      refine ⟨hchecking, fun hnil => ?_⟩
      simp [hnil] at hq
    · cases hq
  rcases hi with rfl | rfl
  all_goals
    simp only [exec, execServeLoad, execServePeek] at h
    split at h
    · cases h; exact .inl rfl
    · rename_i q hq
      obtain ⟨hchecking, hqueue⟩ := hservice _ _ hq
      refine .inr ⟨hchecking, ?_⟩
      split at h <;> cases h
      · exact .inl ⟨q, _, rfl⟩
      · exact .inr ⟨rfl, hqueue⟩

/-- A grant that is made: the access, whole and inside step memory, the reply, and the port's return (R19, R172). -/
theorem execBenchAccessGrant_cases {s t : State} (h : execBenchAccessGrant s = .next t) :
    t = s ∨ ∃ q m payload, s.bench.service = .waitingPort ∧ s.port.owner = .bench ∧ s.bench.queue.head? = some q ∧
      (Memory.wf s.mem → Memory.wf m) ∧ t = (({ s with mem := m } : State).reply q payload).returnPort := by
  unfold execBenchAccessGrant at h
  split at h
  · cases h; exact .inl rfl
  · rename_i q hq
    have hgranted : s.bench.service = .waitingPort ∧ s.port.owner = .bench ∧ s.bench.queue.head? = some q := by
      simp only [State.grantedAccess] at hq
      split at hq
      · rename_i hwait; exact ⟨hwait.1, hwait.2, hq⟩
      · cases hq
    obtain ⟨hservice, howner, hhead⟩ := hgranted
    dsimp only at h
    split at h
    case h_1 =>
      split at h
      · cases h
      · rename_i hroom
        cases h
        exact .inr ⟨q, _, _, hservice, howner, hhead, fun hm => Memory.writeBytes_wf _ hm (by omega), rfl⟩
    case h_2 =>
      split at h <;> cases h
      exact .inr ⟨q, s.mem, _, hservice, howner, hhead, id, rfl⟩
    all_goals cases h; exact .inl rfl

theorem grantedAtRelease_keeps (s : State) : EngineKeeps s (grantedAtRelease s) := by
  unfold grantedAtRelease
  split
  · exact .of_eq rfl (by simp) rfl rfl rfl
  · exact .refl s

/-- The port's return is the return itself, the ask of a LOAD or PEEK that may enter service then, and operations of the
engine (R21). -/
theorem State.returnPort_keeps (s : State) : ∃ u,
    (u = ({ s with port := { owner := .engine, waits := [] } } : State) ∨
      u = ({ s with port := { owner := .engine, waits := [] } } : State).askAtReturn) ∧
    EngineKeeps u s.returnPort ∧ s.returnPort.bench = u.bench := by
  cases hw : s.port.waits with
  | nil =>
    refine ⟨_, .inl rfl, ?_⟩
    simp only [State.returnPort, hw]
    exact ⟨.refl _, trivial⟩
  | cons w ws =>
    refine ⟨_, .inr rfl, ?_⟩
    rw [State.returnPort_waits hw]
    refine ⟨(State.foldl_makeAccess_keeps _ _).trans (grantedAtRelease_keeps _), ?_⟩
    unfold grantedAtRelease
    split <;> simp only [State.foldl_makeAccess_frame]

theorem State.returnPort_operands (s : State) : Memory.OperandsKept s.mem s.returnPort.mem := by
  obtain ⟨u, hu, hkeeps, -⟩ := s.returnPort_keeps
  have hmem : u.mem = s.mem := by rcases hu with rfl | rfl <;> simp
  exact hmem ▸ hkeeps.operands

theorem State.returnPort_haltFields {s : State} (h : s.HaltFieldsRight) : s.returnPort.HaltFieldsRight := by
  obtain ⟨u, hu, hkeeps, -⟩ := s.returnPort_keeps
  have heng : u.eng = s.eng := by rcases hu with rfl | rfl <;> simp
  exact hkeeps.haltFields (h.congr (by rw [heng]) (by rw [heng]) (by rw [heng]))

/-- A request that has just entered service may ask for the port at its return (R21, R169). -/
theorem State.returnPort_service {s : State} (hidle : s.bench.service = .idle ↔ s.bench.queue = [])
    (hnew : s.bench.service ≠ .waitingPort) : s.returnPort.ServiceConsistent := by
  obtain ⟨u, hu, hkeeps, hbench⟩ := s.returnPort_keeps
  suffices h : u.ServiceConsistent from ⟨by rw [hbench]; exact h.1, by rw [hbench, ne_eq, hkeeps.port]; exact h.2⟩
  rcases hu with rfl | rfl
  · exact ⟨hidle, by simp [hnew]⟩
  · unfold State.askAtReturn
    split
    · rename_i hasks
      have hchecking : s.bench.service = .checking := by
        by_contra hne
        simp [State.nextAsks, Bench.inService, hne] at hasks
      refine ⟨?_, by simp⟩
      rw [hchecking] at hidle
      simpa using hidle
    · exact ⟨hidle, by simp [hnew]⟩

/-! ### O3 and O11: step memory -/

/-- Every command keeps step memory in its canonical form (R3, R11, R64). -/
theorem exec_keeps_memory {i : Instr} {s t : State} (hm : Memory.wf s.mem) (h : exec i s = .next t) : Memory.wf t.mem := by
  by_cases hreset : ∀ slot rate, i ≠ .reset slot rate
  · by_cases hgrant : i = .benchAccessGrant
    · subst hgrant
      rcases execBenchAccessGrant_cases h with rfl | ⟨q, m, payload, -, -, -, hwf, rfl⟩
      · exact hm
      · exact (State.returnPort_operands _ (by simpa using hwf hm)).1
    · by_cases hask : i = .serveLoad ∨ i = .servePeek
      · rcases execServeLoad_or_peek_cases hask h with rfl | ⟨-, ⟨q, c, rfl⟩ | ⟨rfl, -⟩⟩
        · exact hm
        · simpa using hm
        · simpa using hm
      · exact ((exec_keeps h hreset hgrant (not_or.mp hask)).operands hm).1
  · obtain ⟨slot, rate, rfl⟩ : ∃ slot rate, i = .reset slot rate := by simpa using hreset
    cases h
    exact Memory.reset_wf

/-- Settles O3: the bench's LOAD stays inside memory, and every other write is the engine's. -/
theorem stepKeepsMemoryForm : Obligations.StepKeepsMemoryForm :=
  fun _ _ hm h => step_keeps_of_exec (P := fun s => Memory.wf s.mem) (fun _ _ => id) (fun _ _ _ => exec_keeps_memory) hm h

/-- Settles O11: the engine writes outcome bytes and capture entries alone, and a LOAD is written at the grant. -/
theorem recordOperandsWrittenOnlyByLoad : Obligations.RecordOperandsWrittenOnlyByLoad := by
  intro i s t h hm hreset hgrant a ha hbyte
  by_cases hask : i = .serveLoad ∨ i = .servePeek
  · rcases execServeLoad_or_peek_cases hask h with rfl | ⟨-, ⟨q, c, rfl⟩ | ⟨rfl, -⟩⟩
    · rfl
    · simp
    · simp
  · exact ((exec_keeps h hreset hgrant (not_or.mp hask)).operands hm).2 a ha hbyte

/-! ### O7: the halt fields and the service -/

theorem exec_keeps_haltFields {i : Instr} {s t : State} (hs : s.HaltFieldsRight) (h : exec i s = .next t) :
    t.HaltFieldsRight := by
  by_cases hreset : ∀ slot rate, i ≠ .reset slot rate
  · by_cases hgrant : i = .benchAccessGrant
    · subst hgrant
      rcases execBenchAccessGrant_cases h with rfl | ⟨q, m, payload, -, -, -, -, rfl⟩
      · exact hs
      · exact State.returnPort_haltFields (hs.congr (by simp) (by simp) (by simp))
    · by_cases hask : i = .serveLoad ∨ i = .servePeek
      · rcases execServeLoad_or_peek_cases hask h with rfl | ⟨-, ⟨q, c, rfl⟩ | ⟨rfl, -⟩⟩
        · exact hs
        · exact hs.congr (by simp) (by simp) (by simp)
        · exact hs.congr (by simp) (by simp) (by simp)
      · exact (exec_keeps h hreset hgrant (not_or.mp hask)).haltFields hs
  · obtain ⟨slot, rate, rfl⟩ : ∃ slot rate, i = .reset slot rate := by simpa using hreset
    cases h
    exact State.haltFieldsRight_of_none (by simp [State.afterReset, State.reset, Engine.reset]) rfl rfl

/-- The service after a reply: the next request is in service, in CHECKING, or none is (R169). -/
theorem State.reply_bench (s : State) (q : Request) (payload : List Byte) :
    (s.reply q payload).bench =
      { s.bench with queue := s.bench.queue.tail, service := if s.bench.queue.tail = [] then .idle else .checking } := by
  unfold State.reply
  split <;> simp [State.endService]

theorem State.reply_service (s : State) (q : Request) (payload : List Byte) :
    ((s.reply q payload).bench.service = .idle ↔ (s.reply q payload).bench.queue = []) ∧
    (s.reply q payload).bench.service ≠ .waitingPort := by
  rw [State.reply_bench]
  dsimp only
  split <;> simp_all

/-- The requests that their own command answers at once (R169). -/
def answersAtOnce : Instr → Bool
  | .servePost | .serveStart | .servePause | .serveResume | .serveAbort | .serveClear | .serveRing | .serveUnknownAction
  | .serveQueryStatus | .serveQueryReadings | .serveQueryUnknown | .serveFaultRead | .serveFaultTrim => true
  | .reset _ _ | .stationTick | .updateRound _ | .guardFault _ | .guardRearm _ | .tripDetection | .overdrawDetection
  | .zeroCaptureEnd | .rampExpiry | .railcheckAverageEnd | .settleEnd _ | .holdOffRelease _ | .qualifierEdge _
  | .strobeTimerExpiry _ | .waitExpiry | .recoverExpiry | .stepLanes | .stepDrive | .stepSample | .stepField | .stepLimits
  | .stepRailcheck | .stepGuard | .stepScale | .stepPower | .stepWait | .stepRepeat | .stepMark | .stepStop
  | .unknownStepKind | .coincidenceJudgement | .frameFail _ _ _ | .frameClaim _ _ _ | .frameDraw _ _ _ | .frameJoin _ _ _
  | .frameSetup _ _ _ | .ownClaimTaken | .duplicateSlotFrame _ | .frameReceivedBad _ _ | .framePassedOver _
  | .pendingExpiry _ | .claimJudgement | .backoffExpiry | .frameBegin | .contentionLost | .bitError | .frameSent
  | .benchRequestArrival _ | .serveLoad | .servePeek | .benchAccessGrant => false

theorem Bench.checking_of_filter {b : Bench} {p : Request → Bool} {q : Request} (h : b.inService.filter p = some q) :
    b.service = .checking := by
  by_contra hne
  simp [Bench.inService, hne] at h

/-- A request answered at once was in CHECKING, and its answer ends its service. -/
theorem exec_answers {i : Instr} (hi : answersAtOnce i = true) {s t : State} (h : exec i s = .next t) :
    t = s ∨ (s.bench.service = .checking ∧ ∃ u q payload, t = State.reply u q payload) := by
  have hcontrol : ∀ q action v, ∃ u q' payload, s.controlReply q action v = State.reply u q' payload := by
    intro q action v
    rcases s.controlReply_cases q action v with ⟨c, -, heq⟩ | ⟨u, -, heq⟩ <;> exact ⟨_, _, _, heq⟩
  cases i with
  | servePost =>
    simp only [exec, execServePost] at h
    split at h
    · cases h; exact .inl rfl
    · rename_i hq
      refine .inr ⟨Bench.checking_of_filter hq, ?_⟩
      split at h <;> cases h <;> exact ⟨_, _, _, rfl⟩
  | serveStart =>
    simp only [exec, execServeStart] at h
    split at h <;> cases h
    · exact .inl rfl
    · exact .inr ⟨Bench.checking_of_filter ‹_›, hcontrol _ _ _⟩
  | servePause =>
    simp only [exec, execServePause] at h
    split at h <;> cases h
    · exact .inl rfl
    · exact .inr ⟨Bench.checking_of_filter ‹_›, hcontrol _ _ _⟩
  | serveResume =>
    simp only [exec, execServeResume] at h
    split at h <;> cases h
    · exact .inl rfl
    · exact .inr ⟨Bench.checking_of_filter ‹_›, hcontrol _ _ _⟩
  | serveAbort =>
    simp only [exec, execServeAbort] at h
    split at h <;> cases h
    · exact .inl rfl
    · exact .inr ⟨Bench.checking_of_filter ‹_›, hcontrol _ _ _⟩
  | serveClear =>
    simp only [exec, execServeClear] at h
    split at h <;> cases h
    · exact .inl rfl
    · exact .inr ⟨Bench.checking_of_filter ‹_›, hcontrol _ _ _⟩
  | serveRing =>
    simp only [exec, execServeRing] at h
    split at h <;> cases h
    · exact .inl rfl
    · exact .inr ⟨Bench.checking_of_filter ‹_›, hcontrol _ _ _⟩
  | serveUnknownAction =>
    simp only [exec, execServeUnknownAction] at h
    split at h
    · cases h; exact .inl rfl
    · rename_i hq
      refine .inr ⟨Bench.checking_of_filter hq, ?_⟩
      split at h <;> cases h <;> exact ⟨_, _, _, rfl⟩
  | serveQueryStatus =>
    simp only [exec, execServeQueryStatus] at h
    split at h
    · cases h; exact .inl rfl
    · rename_i hq
      refine .inr ⟨Bench.checking_of_filter hq, ?_⟩
      split at h <;> cases h <;> exact ⟨_, _, _, rfl⟩
  | serveQueryReadings =>
    simp only [exec, execServeQueryReadings] at h
    split at h
    · cases h; exact .inl rfl
    · rename_i hq
      refine .inr ⟨Bench.checking_of_filter hq, ?_⟩
      split at h <;> cases h <;> exact ⟨_, _, _, rfl⟩
  | serveQueryUnknown =>
    simp only [exec, execServeQueryUnknown] at h
    split at h
    · cases h; exact .inl rfl
    · rename_i hq
      refine .inr ⟨Bench.checking_of_filter hq, ?_⟩
      split at h <;> cases h <;> exact ⟨_, _, _, rfl⟩
  | serveFaultRead =>
    simp only [exec, execServeFaultRead] at h
    split at h
    · cases h; exact .inl rfl
    · rename_i hq
      refine .inr ⟨Bench.checking_of_filter hq, ?_⟩
      split at h <;> cases h <;> exact ⟨_, _, _, rfl⟩
  | serveFaultTrim =>
    simp only [exec, execServeFaultTrim] at h
    split at h
    · cases h; exact .inl rfl
    · rename_i hq
      refine .inr ⟨Bench.checking_of_filter hq, ?_⟩
      split at h <;> cases h <;> exact ⟨_, _, _, rfl⟩
  | _ => cases hi

/-- Beside the requests and their arrival, no command but RESET and the grant touches the Bench Request Unit. -/
theorem exec_bench {i : Instr} {s t : State} (h : exec i s = .next t) (hreset : ∀ slot rate, i ≠ .reset slot rate)
    (hgrant : i ≠ .benchAccessGrant) (hask : i ≠ .serveLoad ∧ i ≠ .servePeek) (hf : frameRead i = none)
    (hi : answersAtOnce i = false) : t.bench = s.bench := by
  cases i with
  | reset slot rate => exact absurd rfl (hreset slot rate)
  | benchAccessGrant => exact absurd rfl hgrant
  | serveLoad => exact absurd rfl hask.1
  | servePeek => exact absurd rfl hask.2
  | frameFail | frameClaim | frameDraw | frameJoin | frameSetup
  | benchRequestArrival | duplicateSlotFrame | framePassedOver => cases hf
  | frameReceivedBad frame framing =>
    have hbad : rawBad { toFrame := frame, toFraming := framing } = true := by simpa [frameRead] using hf
    cases (execFrameReceivedBad_of_rawBad hbad s).symm.trans h
    split <;> simp [State.frameEnded]
  | stationTick => simp [execStationTick_frame h]
  | updateRound => simp [execUpdateRound_frame h]
  | guardFault => simp [execGuardFault_frame h]
  | guardRearm => simp [execGuardRearm_frame h]
  | tripDetection => simp [execTripDetection_frame h]
  | overdrawDetection => simp [execOverdrawDetection_frame h]
  | zeroCaptureEnd => simp [execZeroCaptureEnd_frame h]
  | rampExpiry => simp [execRampExpiry_frame h]
  | railcheckAverageEnd => simp [execRailcheckAverageEnd_frame h]
  | settleEnd => simp [execSettleEnd_frame h]
  | holdOffRelease => simp [execHoldOffRelease_frame h]
  | qualifierEdge => simp [execQualifierEdge_frame h]
  | strobeTimerExpiry => simp [execStrobeTimerExpiry_frame h]
  | waitExpiry => simp [execWaitExpiry_frame h]
  | recoverExpiry => simp [execRecoverExpiry_frame h]
  | stepLanes => simp [execStepLanes_frame h]
  | stepDrive => simp [execStepDrive_frame h]
  | stepSample => simp [execStepSample_frame h]
  | stepField => simp [execStepField_frame h]
  | stepLimits => simp [execStepLimits_frame h]
  | stepRailcheck => simp [execStepRailcheck_frame h]
  | stepGuard => simp [execStepGuard_frame h]
  | stepScale => simp [execStepScale_frame h]
  | stepPower => simp [execStepPower_frame h]
  | stepWait => simp [execStepWait_frame h]
  | stepRepeat => simp [execStepRepeat_frame h]
  | stepMark => simp [execStepMark_frame h]
  | stepStop => simp [execStepStop_frame h]
  | unknownStepKind => simp [execUnknownStepKind_frame h]
  | coincidenceJudgement => simp [execCoincidenceJudgement_frame h]
  | ownClaimTaken => simp [execOwnClaimTaken_frame h]
  | pendingExpiry => simp [execPendingExpiry_frame h]
  | claimJudgement => simp [execClaimJudgement_frame h]
  | backoffExpiry => simp [execBackoffExpiry_frame h]
  | frameBegin => simp [execFrameBegin_frame h]
  | contentionLost => simp [execContentionLost_frame h]
  | bitError => simp [execBitError_frame h]
  | frameSent => simp [execFrameSent_frame h]
  | _ => cases hi

/-- A frame read joins the request queue, where CHECKING begins at once, or leaves the Bench Request Unit as it was (R168). -/
theorem State.receiveFrame_bench (s : State) (f : Frame) :
    (s.receiveFrame f).bench = s.bench ∨
      ∃ q, (s.receiveFrame f).bench = { s.bench with
        queue := s.bench.queue ++ [q], service := if s.bench.service = .idle then .checking else s.bench.service } ∨
      (s.receiveFrame f).bench = { s.bench with discarded := satInc s.bench.discarded } := by
  have hrequest : ∀ k d p, (s.frameEnded.takeRequest k d p).bench = { s.bench with
        queue := s.bench.queue ++ [{ kind := k, payload := p, toAll := decide (d = 31) }],
        service := if s.bench.service = .idle then .checking else s.bench.service } ∨
      (s.frameEnded.takeRequest k d p).bench = { s.bench with discarded := satInc s.bench.discarded } := by
    intro k d p
    unfold State.takeRequest
    split
    · exact .inl rfl
    · exact .inr rfl
  unfold State.receiveFrame
  split
  · exact .inl (by simp [State.frameEnded])
  · exact .inl rfl
  · exact .inl (by simp [State.frameEnded])
  · rename_i k _
    cases k with
    | fail | claim | draw | join | setup | reply | report => exact .inl (by simp [State.handOn, State.frameEnded])
    | load | post | peek | control | query | faultRead | faultTrim => exact .inr ⟨_, hrequest _ _ _⟩

theorem State.ServiceConsistent.congr {s t : State} (h : s.ServiceConsistent) (hbench : t.bench = s.bench)
    (hport : t.port.owner = .engine ↔ s.port.owner = .engine) : t.ServiceConsistent := by
  obtain ⟨hidle, hwaits⟩ := h
  exact ⟨by rw [hbench]; exact hidle, by rw [hbench, hwaits]; exact not_congr hport.symm⟩

/-- With no request waiting for the port, the engine has it. -/
theorem State.ServiceConsistent.owner {s : State} (h : s.ServiceConsistent) (hservice : s.bench.service ≠ .waitingPort) :
    s.port.owner = .engine := by
  by_contra hne
  exact hservice (h.2.mpr hne)

theorem State.ServiceConsistent.receiveFrame {s : State} (h : s.ServiceConsistent) (f : Frame) :
    (s.receiveFrame f).ServiceConsistent := by
  have hport := (s.receiveFrame_standsOrHalts f).keeps.port
  rcases s.receiveFrame_bench f with hbench | ⟨q, hbench | hbench⟩
  · exact h.congr hbench hport
  · obtain ⟨hidle, hwaits⟩ := h
    refine ⟨?_, ?_⟩ <;> rw [hbench]
    · by_cases hi : s.bench.service = .idle <;> simp [hi]
    · rw [ne_eq, hport, ← ne_eq, ← hwaits]
      by_cases hi : s.bench.service = .idle <;> simp [hi]
  · obtain ⟨hidle, hwaits⟩ := h
    refine ⟨by rw [hbench]; exact hidle, ?_⟩
    rw [hbench, ne_eq, hport, ← ne_eq, ← hwaits]

theorem exec_keeps_service {i : Instr} {s t : State} (hs : s.ServiceConsistent) (h : exec i s = .next t) :
    t.ServiceConsistent := by
  by_cases hreset : ∀ slot rate, i ≠ .reset slot rate
  · by_cases hgrant : i = .benchAccessGrant
    · subst hgrant
      rcases execBenchAccessGrant_cases h with rfl | ⟨q, m, payload, -, -, -, -, rfl⟩
      · exact hs
      · obtain ⟨hidle, hnew⟩ := State.reply_service { s with mem := m } q payload
        exact State.returnPort_service hidle hnew
    · by_cases hask : i = .serveLoad ∨ i = .servePeek
      · rcases execServeLoad_or_peek_cases hask h with rfl | ⟨hchecking, ⟨q, c, rfl⟩ | ⟨rfl, hqueue⟩⟩
        · exact hs
        · obtain ⟨hidle, hnew⟩ := s.reply_service q (refusePayload q.kind c [])
          have howner : s.port.owner = .engine := hs.owner (by simp [hchecking])
          exact ⟨hidle, by simp [State.refuse, hnew, howner]⟩
        · refine ⟨by simp [State.waitForPort, hqueue], ?_⟩
          simp only [State.waitForPort, State.askPort]
          split <;> simp
      · have hkeeps := exec_keeps h hreset hgrant (not_or.mp hask)
        cases hanswers : answersAtOnce i with
        | true =>
          rcases exec_answers hanswers h with rfl | ⟨hchecking, u, q, payload, rfl⟩
          · exact hs
          · obtain ⟨hidle, hnew⟩ := u.reply_service q payload
            have howner := hkeeps.port.mpr (hs.owner (by simp [hchecking]))
            exact ⟨hidle, iff_of_false hnew (not_not.mpr howner)⟩
        | false =>
          cases hf : frameRead i with
          | some f =>
            cases (exec_of_frameRead hf s).symm.trans h
            exact hs.receiveFrame f
          | none => exact hs.congr (exec_bench h hreset hgrant (not_or.mp hask) hf hanswers) hkeeps.port
  · obtain ⟨slot, rate, rfl⟩ : ∃ slot rate, i = .reset slot rate := by simpa using hreset
    cases h
    simp [State.ServiceConsistent, State.afterReset, State.reset, Bench.reset]

/-- Settles O7: every command keeps each of the two, so every step does. -/
theorem stepKeepsServiceAndHaltFields : Obligations.StepKeepsServiceAndHaltFields :=
  ⟨fun _ _ hs h => step_keeps_of_exec (P := State.ServiceConsistent) (fun _ _ => id) (fun _ _ _ => exec_keeps_service) hs h,
    fun _ _ hs h => step_keeps_of_exec (P := State.HaltFieldsRight) (fun _ _ => id) (fun _ _ _ => exec_keeps_haltFields) hs h⟩

end Sys2Proof.Machine
end

section
/-! PROOFS of the family "step ring and step memory", 5: the stops of the model, and the reset state. -/

namespace Sys2Proof.Machine

/-! ### O14: the only two stops -/

/-- Every command but a grant and a POWER, dispatched or run again, goes on whatever the state. -/
theorem exec_goesOn {i : Instr} (hgrant : i ≠ .benchAccessGrant) (hpower : i ≠ .stepPower) (hrecover : i ≠ .recoverExpiry)
    (s : State) : ∃ t, exec i s = .next t := by
  cases i with
  | benchAccessGrant => exact absurd rfl hgrant
  | stepPower => exact absurd rfl hpower
  | recoverExpiry => exact absurd rfl hrecover
  | reset | stationTick | updateRound | frameFail | frameClaim | frameDraw | frameJoin | frameSetup | duplicateSlotFrame
  | framePassedOver | benchRequestArrival => exact ⟨_, rfl⟩
  | guardFault | guardRearm | tripDetection | overdrawDetection | zeroCaptureEnd | rampExpiry | railcheckAverageEnd =>
    simp only [exec, execGuardFault, execGuardRearm, execTripDetection, execOverdrawDetection, execZeroCaptureEnd,
      execRampExpiry, execRailcheckAverageEnd]
    repeat' split
    all_goals exact ⟨_, rfl⟩
  | settleEnd | holdOffRelease | qualifierEdge | strobeTimerExpiry | waitExpiry =>
    simp only [exec, execSettleEnd, execHoldOffRelease, execQualifierEdge, execStrobeTimerExpiry, execWaitExpiry]
    repeat' split
    all_goals exact ⟨_, rfl⟩
  | stepLanes | stepDrive | stepSample | stepField | stepLimits | stepRailcheck | stepGuard | stepScale | stepWait
  | stepRepeat | stepMark | stepStop | unknownStepKind =>
    simp only [exec, execStepLanes, execStepDrive, execStepSample, execStepField, execStepLimits, execStepRailcheck,
      execStepGuard, execStepScale, execStepWait, execStepRepeat, execStepMark, execStepStop, execUnknownStepKind]
    repeat' split
    all_goals exact ⟨_, rfl⟩
  | coincidenceJudgement | ownClaimTaken | frameReceivedBad | pendingExpiry | claimJudgement | backoffExpiry | frameBegin
  | contentionLost | bitError | frameSent =>
    simp only [exec, execCoincidenceJudgement, execOwnClaimTaken, execFrameReceivedBad, execPendingExpiry,
      execClaimJudgement, execBackoffExpiry, execFrameBegin, execContentionLost, execBitError, execFrameSent]
    repeat' split
    all_goals exact ⟨_, rfl⟩
  | serveLoad | servePost | servePeek | serveStart | servePause | serveResume | serveAbort | serveClear | serveRing
  | serveUnknownAction | serveQueryStatus | serveQueryReadings | serveQueryUnknown | serveFaultRead | serveFaultTrim =>
    simp only [exec, execServeLoad, execServePost, execServePeek, execServeStart, execServePause, execServeResume,
      execServeAbort, execServeClear, execServeRing, execServeUnknownAction, execServeQueryStatus, execServeQueryReadings,
      execServeQueryUnknown, execServeFaultRead, execServeFaultTrim]
    repeat' split
    all_goals exact ⟨_, rfl⟩

/-- A POWER finds no meaning only in a power state that R106 says cannot stand at dispatch. -/
theorem State.dispatchPower_eq_none {s : State} {r : Record} (h : s.dispatchPower r = none) :
    s.power.state = .zeroing ∨ s.power.state = .claiming ∨ s.power.state = .ramping ∨ s.power.state = .tripped := by
  have htarget : (powerOp r).target = .off ∨ (powerOp r).target = .standby ∨ (powerOp r).target = .on := by
    simp only [powerOp]
    split_ifs <;> simp
  unfold State.dispatchPower at h
  split at h
  · cases h
  · unfold State.runPower at h
    cases hs : s.power.state <;> rcases htarget with ht | ht | ht <;> simp [hs, ht] at h ⊢

/-- A granted access stops only past the last byte of step memory (R3). -/
theorem execBenchAccessGrant_goesOn_or (s : State) :
    (∃ t, execBenchAccessGrant s = .next t) ∨
    (execBenchAccessGrant s = .fault .absentAddress ∧ s.port.owner = .bench ∧ ∃ q rest, s.bench.queue = q :: rest ∧
      24576 < leAt 2 q.payload 0 + (if q.kind = .load then q.payload.length - 2 else (byteAt q.payload 2).toNat)) := by
  unfold execBenchAccessGrant
  split
  · exact .inl ⟨_, rfl⟩
  · rename_i q hq
    have hgranted : s.port.owner = .bench ∧ ∃ rest, s.bench.queue = q :: rest := by
      simp only [State.grantedAccess] at hq
      split at hq
      · rename_i hwait
        exact ⟨hwait.2, List.head?_eq_some_iff.mp hq⟩
      · cases hq
    obtain ⟨howner, rest, hqueue⟩ := hgranted
    dsimp only
    split
    case h_1 hkind =>
      split
      · rename_i hbeyond
        refine .inr ⟨rfl, howner, q, rest, hqueue, ?_⟩
        simpa [hkind, Config.memoryBytes] using hbeyond
      · exact .inl ⟨_, rfl⟩
    case h_2 hkind =>
      split
      · rename_i hbeyond
        refine .inr ⟨rfl, howner, q, rest, hqueue, ?_⟩
        simpa [hkind, Config.memoryBytes] using hbeyond
      · exact .inl ⟨_, rfl⟩
    all_goals exact .inl ⟨_, rfl⟩

theorem execStepPower_goesOn_or (s : State) :
    (∃ t, execStepPower s = .next t) ∨ (execStepPower s = .fault .powerStateAtDispatch ∧
      (s.power.state = .zeroing ∨ s.power.state = .claiming ∨ s.power.state = .ramping ∨ s.power.state = .tripped)) := by
  unfold execStepPower
  split
  · exact .inl ⟨_, rfl⟩
  · split
    · exact .inl ⟨_, rfl⟩
    · exact .inr ⟨rfl, State.dispatchPower_eq_none ‹_›⟩

theorem execRecoverExpiry_goesOn_or (s : State) :
    (∃ t, execRecoverExpiry s = .next t) ∨ (execRecoverExpiry s = .fault .powerStateAtDispatch ∧
      (s.power.state = .zeroing ∨ s.power.state = .claiming ∨ s.power.state = .ramping ∨ s.power.state = .tripped)) := by
  unfold execRecoverExpiry
  dsimp only
  repeat' split
  case h_2 hnone =>
    have hstate := State.dispatchPower_eq_none hnone
    exact .inr ⟨rfl, hstate⟩
  all_goals exact .inl ⟨_, rfl⟩

/-- Settles O14, by the three commands that can stop. -/
theorem noCommandStopsButOnWhatTheSpecExcludes : Obligations.NoCommandStopsButOnWhatTheSpecExcludes := by
  intro i s
  by_cases hgrant : i = .benchAccessGrant
  · subst hgrant
    rcases execBenchAccessGrant_goesOn_or s with hnext | ⟨hfault, howner, hbeyond⟩
    · exact .inl hnext
    · exact .inr (.inl ⟨hfault, rfl, howner, hbeyond⟩)
  · by_cases hpower : i = .stepPower
    · subst hpower
      rcases execStepPower_goesOn_or s with hnext | ⟨hfault, hstate⟩
      · exact .inl hnext
      · exact .inr (.inr ⟨hfault, .inl rfl, hstate⟩)
    · by_cases hrecover : i = .recoverExpiry
      · subst hrecover
        rcases execRecoverExpiry_goesOn_or s with hnext | ⟨hfault, hstate⟩
        · exact .inl hnext
        · exact .inr (.inr ⟨hfault, .inr rfl, hstate⟩)
      · exact .inl (exec_goesOn hgrant hpower hrecover s)

/-! ### O2: the reset state -/

theorem State.reset_railsInRange : State.reset.RailsInRange := by
  refine ⟨fun c => ?_, by decide, by decide, by decide, by decide, by decide, by decide, by decide⟩
  have hchannel := Rail.reset_channels_get c
  simp only [State.reset, hchannel, Channel.reset, Guard.reset, Channel.InRange]
  refine ⟨?_, by decide, by decide, by decide, by decide, by decide, by decide, by decide, by decide⟩
  split_ifs <;> decide

/-- The ring of a machine without loops, without a copy and with nothing waiting for the port (R7). -/
theorem State.reset_ringInOrder : State.reset.RingInOrder := by
  simp [State.RingInOrder, State.reset, Engine.reset, Engine.past, Engine.liveCount, Engine.retain]

theorem State.reset_powerInOrder : State.reset.PowerInOrder := by
  simp [State.PowerInOrder, State.reset, Engine.reset, Power.reset, Power.InOrder, DrawUnit.reset, DrawUnit.InOrder,
    Rail.reset]

/-- Settles O2, invariant by invariant. -/
theorem resetMeetsTheInvariants : Obligations.ResetMeetsTheInvariants := by
  refine ⟨Memory.reset_wf, ?_, ?_, ?_, ?_, State.reset_railsInRange, ?_, ?_, State.reset_ringInOrder,
    State.reset_powerInOrder, fun x _ => DrawUnit.reset_table_get x⟩
  · simp [State.SwitchesHeld, State.reset, Power.reset, DrawUnit.reset]
  · simp [State.FaultQueueOrdered, State.reset, Recorder.reset]
  · simp [State.QueuesBounded, State.reset, LinePort.reset, Bench.reset, Recorder.reset]
  · simp [State.ContextReadable, State.reset, CheckContext.reset]
  · simp [State.ServiceConsistent, State.reset, Bench.reset]
  · exact State.haltFieldsRight_of_none (by decide) rfl rfl

end Sys2Proof.Machine
end

section
/-! PROOFS of the family "step ring and step memory", 6: distances on the ring, and the loop stack around F (R7, R8, R37 to
R40). -/

namespace Sys2Proof.Machine

/-! ### Distances on the ring -/

theorem ring_add {K a b : RingIndex} (h : (a - K).toNat + (b - a).toNat < 1024) :
    (b - K).toNat = (a - K).toNat + (b - a).toNat := by
  bv_omega

theorem ring_sub {K a b : RingIndex} (h : (a - K).toNat ≤ (b - K).toNat) :
    (b - a).toNat = (b - K).toNat - (a - K).toNat := by
  bv_omega

theorem ring_succ {K a : RingIndex} (h : (a - K).toNat < 1023) : (a + 1 - K).toNat = (a - K).toNat + 1 := by
  bv_omega

theorem ring_inj {K a b : RingIndex} (h : (a - K).toNat = (b - K).toNat) : a = b := by
  bv_omega

/-! ### A loop stack around an index -/

/-- R37, R38: loops nested in one another from the innermost out, each posted whole within `L` records from `K` and with
passes left. -/
structure LoopsPosted (K : RingIndex) (L : Nat) (loops : List LoopEntry) : Prop where
  nested : loops.Pairwise fun inner outer =>
    (outer.bodyStart - K).toNat ≤ (inner.bodyStart - K).toNat ∧ (inner.bodyEnd - K).toNat ≤ (outer.bodyEnd - K).toNat
  posted : ∀ l ∈ loops, (l.bodyStart - K).toNat ≤ (l.bodyEnd - K).toNat ∧ (l.bodyEnd - K).toNat < L ∧ l.remaining ≠ 0

/-- Record `x` lies in the body of every loop. -/
def LoopsAround (K : RingIndex) (loops : List LoopEntry) (x : RingIndex) : Prop :=
  ∀ l ∈ loops, (l.bodyStart - K).toNat ≤ (x - K).toNat ∧ (x - K).toNat ≤ (l.bodyEnd - K).toNat

theorem LoopsPosted.tail {K : RingIndex} {L : Nat} {l : LoopEntry} {ls : List LoopEntry} (h : LoopsPosted K L (l :: ls)) :
    LoopsPosted K L ls :=
  ⟨(List.pairwise_cons.mp h.nested).2, fun k hk => h.posted k (by simp [hk])⟩

theorem LoopsAround.tail {K x : RingIndex} {l : LoopEntry} {ls : List LoopEntry} (h : LoopsAround K (l :: ls) x) :
    LoopsAround K ls x :=
  fun k hk => h k (by simp [hk])

/-- What lies in the innermost body lies in every body. -/
theorem LoopsPosted.around_of_head {K x : RingIndex} {L : Nat} {l : LoopEntry} {ls : List LoopEntry}
    (h : LoopsPosted K L (l :: ls)) (hstart : (l.bodyStart - K).toNat ≤ (x - K).toNat)
    (hend : (x - K).toNat ≤ (l.bodyEnd - K).toNat) : LoopsAround K (l :: ls) x := by
  intro k hk
  rcases List.mem_cons.mp hk with rfl | hk
  · exact ⟨hstart, hend⟩
  · obtain ⟨houter, hinner⟩ := (List.pairwise_cons.mp h.nested).1 k hk
    omega

/-- A loop pushed inside the innermost body (R39). -/
theorem LoopsPosted.push {K : RingIndex} {L : Nat} {l : LoopEntry} {ls : List LoopEntry} (h : LoopsPosted K L ls)
    (hin : ∀ k ∈ ls, (k.bodyStart - K).toNat ≤ (l.bodyStart - K).toNat ∧ (l.bodyEnd - K).toNat ≤ (k.bodyEnd - K).toNat)
    (hl : (l.bodyStart - K).toNat ≤ (l.bodyEnd - K).toNat ∧ (l.bodyEnd - K).toNat < L ∧ l.remaining ≠ 0) :
    LoopsPosted K L (l :: ls) := by
  refine ⟨List.pairwise_cons.mpr ⟨hin, h.nested⟩, fun k hk => ?_⟩
  rcases List.mem_cons.mp hk with rfl | hk
  · exact hl
  · exact h.posted k hk

/-- The outermost loop of a stack, where the live region begins (R7). -/
theorem getLast?_loopEnd (loops : List LoopEntry) (x : RingIndex) (hne : (loopEnd loops x).1 ≠ []) :
    (loopEnd loops x).1.getLast?.map (·.bodyStart) = loops.getLast?.map (·.bodyStart) := by
  induction loops with
  | nil => simp [loopEnd] at hne
  | cons l ls ih =>
    unfold loopEnd at hne ⊢
    split
    · split
      · cases ls <;> simp [List.getLast?_cons_cons]
      · rename_i hend hlast
        rw [if_pos hend, if_neg hlast] at hne
        rw [ih hne]
        cases ls with
        | nil => simp [loopEnd] at hne
        | cons k ks => simp [List.getLast?_cons_cons]
    · rfl

/-- The loop end of R40 keeps the stack posted and nested, with F in every body left, and never past the posted records. -/
theorem loopEnd_around {K : RingIndex} {L : Nat} (hL : L ≤ 1023) {loops : List LoopEntry} {x : RingIndex}
    (h : LoopsPosted K L loops) (haround : LoopsAround K loops x) (hx : (x - K).toNat < L) :
    LoopsPosted K L (loopEnd loops x).1 ∧ LoopsAround K (loopEnd loops x).1 (loopEnd loops x).2 ∧
    ((loopEnd loops x).2 - K).toNat ≤ L ∧ (loopEnd loops x).1.length ≤ loops.length := by
  have hnext : (x + 1 - K).toNat = (x - K).toNat + 1 := ring_succ (by omega)
  induction loops with
  | nil => exact ⟨h, by simp [LoopsAround, loopEnd], by simp only [loopEnd]; omega, Nat.le_refl _⟩
  | cons l ls ih =>
    obtain ⟨hstart, hend⟩ := haround l (by simp)
    obtain ⟨hbody, hposted, hremaining⟩ := h.posted l (by simp)
    unfold loopEnd
    split
    · split
      · rename_i hx' hmore
        have hagain : LoopsPosted K L ({ l with remaining := l.remaining - 1 } :: ls) := by
          refine LoopsPosted.push h.tail (fun k hk => (List.pairwise_cons.mp h.nested).1 k hk) ⟨hbody, hposted, ?_⟩
          bv_omega
        exact ⟨hagain, hagain.around_of_head (Nat.le_refl _) hbody, by dsimp only; omega, by simp⟩
      · obtain ⟨hrest, haround', hF, hlength⟩ := ih h.tail haround.tail
        exact ⟨hrest, haround', hF, by simp only [List.length_cons]; omega⟩
    · rename_i hne
      have hbefore : (x - K).toNat ≠ (l.bodyEnd - K).toNat := fun heq => hne (ring_inj heq).symm
      exact ⟨h, h.around_of_head (by dsimp only; omega) (by dsimp only; omega), by dsimp only; omega, Nat.le_refl _⟩

/-! ### The engine's loop stack -/

/-- R7, R8, R37: the part of `State.RingInOrder` that speaks of F and the loop stack. -/
def Engine.LoopsInOrder (e : Engine) : Prop :=
  e.past e.fetchIndex ≤ e.liveCount ∧ e.loops.length ≤ 4 ∧ LoopsPosted e.retain e.liveCount e.loops ∧
  (e.job ≠ .ended → LoopsAround e.retain e.loops e.fetchIndex)

theorem Engine.retain_of_nil {e : Engine} (h : e.loops = []) : e.retain = e.fetchIndex := by
  simp [Engine.retain, h]

theorem Engine.retain_of_getLast {e : Engine} {K : RingIndex} (h : e.loops.getLast?.map (·.bodyStart) = some K) :
    e.retain = K := by
  unfold Engine.retain
  cases hlast : e.loops.getLast? with
  | none => simp [hlast] at h
  | some l => simpa [hlast] using h

theorem Engine.getLast_of_ne_nil {e : Engine} (h : e.loops ≠ []) :
    e.loops.getLast?.map (·.bodyStart) = some e.retain := by
  unfold Engine.retain
  rw [List.getLast?_eq_some_getLast h]
  rfl

theorem Engine.liveCount_le (e : Engine) : e.liveCount ≤ 1023 := by
  have := (e.postIndex - e.retain).isLt
  unfold Engine.liveCount
  omega

/-- With an empty stack the live region begins at F (R7), and nothing is asked of it. -/
theorem Engine.loopsInOrder_of_nil {e : Engine} (h : e.loops = []) : e.LoopsInOrder := by
  refine ⟨?_, by simp [h], ⟨by simp [h], by simp [h]⟩, fun _ => by simp [LoopsAround, h]⟩
  simp [Engine.past, Engine.retain_of_nil h]

theorem Engine.LoopsInOrder.congr {e e' : Engine} (h : e.LoopsInOrder) (hloops : e'.loops = e.loops)
    (hfetch : e'.fetchIndex = e.fetchIndex) (hpost : e'.postIndex = e.postIndex)
    (hjob : e'.job ≠ .ended → e.job ≠ .ended) : e'.LoopsInOrder := by
  have hretain : e'.retain = e.retain := by simp only [Engine.retain, hloops, hfetch]
  obtain ⟨hF, hlength, hposted, haround⟩ := h
  simp only [Engine.past, Engine.liveCount] at hF hposted
  refine ⟨?_, by rw [hloops]; exact hlength, ?_, fun hne => ?_⟩
  · simp only [Engine.past, Engine.liveCount, hretain, hfetch, hpost]; exact hF
  · simp only [Engine.liveCount, hretain, hloops, hpost]; exact hposted
  · rw [hretain, hloops, hfetch]; exact haround (hjob hne)

/-- Inside a loop F stands before the end of the posted records. -/
theorem Engine.LoopsInOrder.past_lt {e : Engine} (h : e.LoopsInOrder) (hne : e.loops ≠ []) (hjob : e.job ≠ .ended) :
    e.past e.fetchIndex < e.liveCount := by
  obtain ⟨-, -, hposted, haround⟩ := h
  obtain ⟨l, hl⟩ := List.exists_mem_of_ne_nil _ hne
  obtain ⟨-, hend⟩ := haround hjob l hl
  obtain ⟨-, hlive, -⟩ := hposted.posted l hl
  exact Nat.lt_of_le_of_lt hend hlive

/-- A record posted after F (R38), counted from K. -/
theorem Engine.past_of_posted {e : Engine} {last : RingIndex} (hF : e.past e.fetchIndex ≤ e.liveCount)
    (hposted : (last - e.fetchIndex).toNat < (e.postIndex - e.fetchIndex).toNat) :
    (last - e.retain).toNat = e.past e.fetchIndex + (last - e.fetchIndex).toNat ∧
    (last - e.retain).toNat < e.liveCount := by
  have hlive := e.liveCount_le
  have hrest : (e.postIndex - e.fetchIndex).toNat = e.liveCount - e.past e.fetchIndex := ring_sub hF
  have hlast : (last - e.retain).toNat = e.past e.fetchIndex + (last - e.fetchIndex).toNat :=
    ring_add (by simp only [Engine.past] at hF hrest; omega)
  exact ⟨hlast, by omega⟩

/-- The body of a REPEAT that is neither refused nor short of records lies ahead of F (R37, R38). -/
theorem Engine.LoopsInOrder.bodyAhead {e : Engine} {r : Record} (h : e.LoopsInOrder) (hjob : e.job ≠ .ended)
    (hsound : e.repeatRefused r = false) (hposted : e.bodyPosted r = true) : e.bodyAhead (e.bodyEnd r) := by
  simp only [Engine.repeatRefused, Bool.or_eq_false_iff, decide_eq_false_iff_not] at hsound
  obtain ⟨⟨hspan, hinner⟩, -⟩ := hsound
  obtain ⟨hF, -, hnested, haround⟩ := h
  have hposted : (e.bodyEnd r - e.fetchIndex).toNat < (e.postIndex - e.fetchIndex).toNat := by
    simpa [Engine.bodyPosted] using hposted
  obtain ⟨hlast, -⟩ := Engine.past_of_posted hF hposted
  refine ⟨by simp only [Engine.bodyEnd]; bv_omega, hposted, fun l hl => ?_⟩
  cases hloops : e.loops with
  | nil => simp [hloops] at hl
  | cons k ks =>
    rw [hloops] at hinner hl
    have hinner : (e.bodyEnd r - k.bodyStart).toNat ≤ (k.bodyEnd - k.bodyStart).toNat := by simpa using hinner
    obtain ⟨hstart, -⟩ := haround hjob k (by simp [hloops])
    obtain ⟨hbody, -, -⟩ := hnested.posted k (by simp [hloops])
    have hfrom : (e.bodyEnd r - k.bodyStart).toNat = (e.bodyEnd r - e.retain).toNat - (k.bodyStart - e.retain).toNat :=
      ring_sub (by simp only [Engine.past] at hlast; omega)
    have hto : (k.bodyEnd - k.bodyStart).toNat = (k.bodyEnd - e.retain).toNat - (k.bodyStart - e.retain).toNat :=
      ring_sub hbody
    have hhead : (e.bodyEnd r - e.retain).toNat ≤ (k.bodyEnd - e.retain).toNat := by
      simp only [Engine.past] at hlast
      omega
    rcases List.mem_cons.mp hl with rfl | hl
    · exact hhead
    · obtain ⟨-, houter⟩ := (List.pairwise_cons.mp (hloops ▸ hnested.nested)).1 l hl
      exact Nat.le_trans hhead houter

/-- The loop end at a record inside every body leaves F and the stack in order. -/
theorem Engine.LoopsInOrder.loopEnd {e e' : Engine} {x : RingIndex} (h : e.LoopsInOrder) (hx : e.loops ≠ [] →
    LoopsAround e.retain e.loops x ∧ (x - e.retain).toNat < e.liveCount) (hloops : e'.loops = (loopEnd e.loops x).1)
    (hfetch : e'.fetchIndex = (Machine.loopEnd e.loops x).2) (hpost : e'.postIndex = e.postIndex) : e'.LoopsInOrder := by
  by_cases hnil : (Machine.loopEnd e.loops x).1 = []
  · exact Engine.loopsInOrder_of_nil (hloops.trans hnil)
  · have hne : e.loops ≠ [] := by
      rintro hempty
      simp [hempty, Machine.loopEnd] at hnil
    obtain ⟨hin, hlt⟩ := hx hne
    obtain ⟨-, hfour, hposted, -⟩ := h
    obtain ⟨hposted', haround', hF', hlength⟩ := loopEnd_around e.liveCount_le hposted hin hlt
    have hretain : e'.retain = e.retain := by
      apply Engine.retain_of_getLast
      rw [hloops, getLast?_loopEnd _ _ hnil, Engine.getLast_of_ne_nil hne]
    have hlive : e'.liveCount = e.liveCount := by simp only [Engine.liveCount, hretain, hpost]
    refine ⟨?_, by rw [hloops]; omega, ?_, fun _ => ?_⟩
    · rw [hlive, Engine.past, hretain, hfetch]; exact hF'
    · rw [hretain, hlive, hloops]; exact hposted'
    · rw [hretain, hloops, hfetch]; exact haround'

/-- A REPEAT that proceeds pushes its loop around the record after it (R39). -/
theorem Engine.LoopsInOrder.enter {e e' : Engine} {l : LoopEntry} (h : e.LoopsInOrder) (hjob : e.job ≠ .ended)
    (hl : (AfterStep.enter l).InRing e) (hloops : e'.loops = l :: e.loops) (hfetch : e'.fetchIndex = l.bodyStart)
    (hpost : e'.postIndex = e.postIndex) : e'.LoopsInOrder := by
  obtain ⟨hstart, hremaining, hroom, hahead⟩ := hl
  obtain ⟨hone, hbody, hinside⟩ := hahead
  by_cases hnil : e.loops = []
  · have hretain : e'.retain = l.bodyStart := Engine.retain_of_getLast (by simp [hloops, hnil])
    have hbehind : (l.bodyEnd - l.bodyStart).toNat < (e.postIndex - l.bodyStart).toNat := by
      rw [hstart]
      bv_omega
    have hzero : (l.bodyStart - l.bodyStart).toNat = 0 := by simp
    have hpushed : LoopsPosted e'.retain e'.liveCount e'.loops := by
      rw [hloops, hnil, Engine.liveCount, hretain, hpost]
      exact LoopsPosted.push ⟨.nil, by simp⟩ (by simp) ⟨by omega, hbehind, hremaining⟩
    refine ⟨?_, by simp [hloops, hnil], hpushed, fun _ => ?_⟩
    · rw [Engine.past, hretain, hfetch]
      omega
    · rw [hloops] at hpushed ⊢
      rw [hretain] at hpushed ⊢
      rw [hfetch]
      exact hpushed.around_of_head (by omega) (by omega)
  · have hlt := h.past_lt hnil hjob
    obtain ⟨hF, hfour, hposted, haround⟩ := h
    have haround := haround hjob
    have hlive := e.liveCount_le
    obtain ⟨hend, hendlt⟩ := Engine.past_of_posted hF hbody
    have hnext : (l.bodyStart - e.retain).toNat = e.past e.fetchIndex + 1 := by
      rw [hstart]
      exact ring_succ (by simp only [Engine.past] at hlt; omega)
    have hretain : e'.retain = e.retain := by
      apply Engine.retain_of_getLast
      obtain ⟨k, ks, hk⟩ := List.exists_cons_of_ne_nil hnil
      have hlast := Engine.getLast_of_ne_nil hnil
      rw [hk] at hlast
      rw [hloops, hk, List.getLast?_cons_cons]
      exact hlast
    have hlive' : e'.liveCount = e.liveCount := by simp only [Engine.liveCount, hretain, hpost]
    have hpushed : LoopsPosted e'.retain e'.liveCount e'.loops := by
      rw [hretain, hlive', hloops]
      refine hposted.push (fun k hk => ?_) ⟨by omega, hendlt, hremaining⟩
      have hk' := haround k hk
      have hin := hinside k hk
      simp only [Engine.past] at hin hnext
      exact ⟨by omega, hin⟩
    refine ⟨?_, by rw [hloops, List.length_cons]; omega, hpushed, fun _ => ?_⟩
    · rw [hlive', Engine.past, hretain, hfetch]
      omega
    · rw [hloops] at hpushed ⊢
      rw [hretain] at hpushed ⊢
      rw [hfetch]
      exact hpushed.around_of_head (by omega) (by omega)

/-- F and the stack stay in order over every completion with which the job goes on (R33 step 3, R39, R40). -/
theorem Engine.LoopsInOrder.moved {e e' : Engine} {a : AfterStep} (h : e.LoopsInOrder) (hjob : e.job ≠ .ended)
    (ha : a.InRing e) (hnext : a ≠ .stop) (hloops : e'.loops = (e.moved a).1) (hfetch : e'.fetchIndex = (e.moved a).2)
    (hpost : e'.postIndex = e.postIndex) : e'.LoopsInOrder := by
  cases a with
  | advance =>
    refine h.loopEnd (fun hne => ?_) hloops hfetch hpost
    exact ⟨h.2.2.2 hjob, h.past_lt hne hjob⟩
  | enter l => exact h.enter hjob ha hloops hfetch hpost
  | skip last =>
    refine h.loopEnd (fun hne => ?_) hloops hfetch hpost
    obtain ⟨hF, -, -, haround⟩ := h
    obtain ⟨-, hposted, hinside⟩ := ha
    obtain ⟨hlast, hlt⟩ := Engine.past_of_posted hF hposted
    refine ⟨fun k hk => ⟨?_, hinside k hk⟩, hlt⟩
    obtain ⟨hstart, -⟩ := haround hjob k hk
    simp only [Engine.past] at hlast
    omega
  | stop => exact absurd rfl hnext
  | halt reason => exact h.congr hloops hfetch hpost (fun _ => hjob)
  | isolate => exact h.congr hloops hfetch hpost (fun _ => hjob)

/-- A STOP leaves F past its record, behind the loops it may stand in (R36). -/
theorem Engine.LoopsInOrder.stopped {e e' : Engine} (h : e.LoopsInOrder) (hjob : e.job ≠ .ended)
    (hloops : e'.loops = e.loops) (hfetch : e'.fetchIndex = e.fetchIndex + 1) (hpost : e'.postIndex = e.postIndex)
    (hended : e'.job = .ended) : e'.LoopsInOrder := by
  by_cases hnil : e.loops = []
  · exact Engine.loopsInOrder_of_nil (hloops.trans hnil)
  · have hlt := h.past_lt hnil hjob
    obtain ⟨-, hfour, hposted, -⟩ := h
    have hretain : e'.retain = e.retain :=
      Engine.retain_of_getLast (by rw [hloops, Engine.getLast_of_ne_nil hnil])
    have hlive' : e'.liveCount = e.liveCount := by simp only [Engine.liveCount, hretain, hpost]
    have hnext : (e.fetchIndex + 1 - e.retain).toNat = e.past e.fetchIndex + 1 := by
      have hlive := e.liveCount_le
      exact ring_succ (by simp only [Engine.past] at hlt; omega)
    refine ⟨?_, by rw [hloops]; exact hfour, ?_, fun hne => absurd hended hne⟩
    · rw [hlive', Engine.past, hretain, hfetch]
      omega
    · rw [hretain, hlive', hloops]
      exact hposted

/-- A POST within the free count lengthens the live region (R10), and leaves everything in it where it was. -/
theorem Engine.LoopsInOrder.posted {e e' : Engine} (h : e.LoopsInOrder) (hloops : e'.loops = e.loops)
    (hfetch : e'.fetchIndex = e.fetchIndex) (hjob : e'.job = e.job)
    (hfree : (e'.postIndex - e.postIndex).toNat ≤ e.freeCount) :
    e'.LoopsInOrder ∧ (e.fetchIndex ≠ e.postIndex → e'.fetchIndex ≠ e'.postIndex) := by
  have hretain : e'.retain = e.retain := by simp only [Engine.retain, hloops, hfetch]
  have hle := e.liveCount_le
  have hlive : e'.liveCount = e.liveCount + (e'.postIndex - e.postIndex).toNat := by
    simp only [Engine.freeCount] at hfree
    rw [Engine.liveCount, hretain]
    exact ring_add (by simp only [Engine.liveCount] at hfree hle; omega)
  obtain ⟨hF, hfour, hposted, haround⟩ := h
  refine ⟨⟨?_, by rw [hloops]; exact hfour, ?_, fun hne => ?_⟩, fun hne heq => ?_⟩
  · simp only [Engine.past, hretain, hfetch] at hF ⊢
    omega
  · rw [hretain, hloops]
    exact ⟨hposted.nested, fun l hl => by
      obtain ⟨hbody, hlt, hremaining⟩ := hposted.posted l hl
      exact ⟨hbody, by omega, hremaining⟩⟩
  · rw [hretain, hloops, hfetch]
    exact haround (hjob ▸ hne)
  · have hlt : e.past e.fetchIndex ≠ e.liveCount := fun h => hne (ring_inj h)
    have hat : e.past e.fetchIndex = e'.liveCount := by
      rw [Engine.liveCount, hretain, ← heq, hfetch]
      rfl
    omega

end Sys2Proof.Machine
end

section
/-! PROOFS of the family "step ring and step memory", 7: the invariant O9 over the operations of the engine. -/

namespace Sys2Proof.Machine

/-! ### The invariant, with accesses still to be made -/

/-- No access that moves F or fetches a record. -/
def Quiet (ws : List EngineAccess) : Prop := ws.countP EngineAccess.goesOn = 0

theorem Quiet.of_goesOn {ws : List EngineAccess} (h : ∀ w ∈ ws, w.goesOn = false) : Quiet ws :=
  List.countP_eq_zero.mpr fun w hw => by simp [h w hw]

theorem Quiet.goesOn {ws : List EngineAccess} (h : Quiet ws) {w : EngineAccess} (hw : w ∈ ws) : w.goesOn = false := by
  simpa using List.countP_eq_zero.mp h w hw

theorem Quiet.not_fetch {ws : List EngineAccess} (h : Quiet ws) : .fetch ∉ ws := fun hw => by
  simpa [EngineAccess.goesOn] using h.goesOn hw

theorem Quiet.not_outcome {ws : List EngineAccess} (h : Quiet ws) {index : RingIndex} {code : StepOutcome} {count : Byte}
    {c : Completion} : .outcome index code count (some c) ∉ ws := fun hw => by
  simpa [EngineAccess.goesOn] using h.goesOn hw

/-- `State.RingInOrder` at the port's return, where the accesses `l` are still to be made behind those that wait (R21). -/
structure State.RingWith (s : State) (l : List EngineAccess) : Prop where
  loops : s.eng.LoopsInOrder
  idle : s.eng.job = .idle → s.eng.loops = []
  copy : s.eng.copy ≠ none → s.eng.fetchIndex ≠ s.eng.postIndex ∧ (s.eng.job = .running ∨ s.eng.job = .starved)
  starved : ∀ r, s.eng.job = .starved → s.eng.copy = some r → s.eng.repeatRefused r = false
  held : s.port.waits ≠ [] → s.port.owner = .bench
  once : (s.port.waits ++ l).countP EngineAccess.goesOn ≤ 1
  fetch : .fetch ∈ s.port.waits ++ l → s.eng.fetchIndex ≠ s.eng.postIndex ∧ s.eng.copy = none
  outcome : ∀ index code count c, .outcome index code count (some c) ∈ s.port.waits ++ l →
    s.eng.copy = none ∧ (s.eng.job = .running → c.after.InRing s.eng)

theorem State.ringInOrder_iff (s : State) : s.RingInOrder ↔ s.RingWith [] := by
  constructor
  · rintro ⟨hF, hlength, hnested, hposted, hidle, hcopy, hstarved, hheld, honce, hfetch, houtcome⟩
    refine ⟨⟨hF, hlength, ⟨hnested, fun l hl => ?_⟩, fun hne l hl => ?_⟩, hidle, hcopy, hstarved, hheld, ?_, ?_, ?_⟩
    · obtain ⟨hbody, hlive, hremaining, -⟩ := hposted l hl
      exact ⟨hbody, hlive, hremaining⟩
    · obtain ⟨-, -, -, haround⟩ := hposted l hl
      exact haround hne
    · simpa using honce
    · simpa using hfetch
    · simpa using houtcome
  · rintro ⟨⟨hF, hlength, ⟨hnested, hposted⟩, haround⟩, hidle, hcopy, hstarved, hheld, honce, hfetch, houtcome⟩
    refine ⟨hF, hlength, hnested, fun l hl => ?_, hidle, hcopy, hstarved, hheld, by simpa using honce, by simpa using hfetch,
      by simpa using houtcome⟩
    obtain ⟨hbody, hlive, hremaining⟩ := hposted l hl
    exact ⟨hbody, hlive, hremaining, fun hne => haround hne l hl⟩

/-- With nothing fetched and nothing waiting that goes on, F and the loop stack are all there is to it. -/
theorem State.RingWith.of_quiet {s : State} {l : List EngineAccess} (hloops : s.eng.LoopsInOrder)
    (hidle : s.eng.job = .idle → s.eng.loops = []) (hcopy : s.eng.copy = none)
    (hheld : s.port.waits ≠ [] → s.port.owner = .bench) (hquiet : Quiet (s.port.waits ++ l)) : s.RingWith l :=
  ⟨hloops, hidle, fun h => absurd hcopy h, fun _ _ hr => absurd (hcopy.symm.trans hr) (by simp), hheld,
    Nat.le_trans (Nat.le_of_eq hquiet) (Nat.zero_le 1), fun h => absurd h hquiet.not_fetch,
    fun _ _ _ _ h => absurd h hquiet.not_outcome⟩

/-- What hangs on F, P and the loop stack alone. -/
theorem Engine.repeatRefused_congr {e e' : Engine} (hloops : e'.loops = e.loops) (hfetch : e'.fetchIndex = e.fetchIndex)
    (r : Record) : e'.repeatRefused r = e.repeatRefused r := by
  unfold Engine.repeatRefused Engine.bodyEnd
  rw [hloops, hfetch]

theorem AfterStep.InRing.congr {e e' : Engine} {a : AfterStep} (h : a.InRing e) (hloops : e'.loops = e.loops)
    (hfetch : e'.fetchIndex = e.fetchIndex) (hpost : e'.postIndex = e.postIndex) : a.InRing e' := by
  have hahead : ∀ last, e.bodyAhead last → e'.bodyAhead last := by
    intro last hlast
    simpa only [Engine.bodyAhead, Engine.past, Engine.retain, hloops, hfetch, hpost] using hlast
  cases a with
  | enter k =>
    obtain ⟨hstart, hremaining, hroom, hbody⟩ := h
    exact ⟨by rw [hfetch]; exact hstart, hremaining, by rw [hloops]; exact hroom, hahead _ hbody⟩
  | skip last => exact hahead _ h
  | advance | stop | halt | isolate => trivial

/-- An operation that leaves the job, F, P, the loop stack, the copy and the waiting accesses, and takes the port from
nobody. -/
theorem State.RingWith.congr {s t : State} {l : List EngineAccess} (h : s.RingWith l) (hjob : t.eng.job = s.eng.job)
    (hloops : t.eng.loops = s.eng.loops) (hfetch : t.eng.fetchIndex = s.eng.fetchIndex)
    (hpost : t.eng.postIndex = s.eng.postIndex) (hcopy : t.eng.copy = s.eng.copy) (hwaits : t.port.waits = s.port.waits)
    (howner : s.port.owner = .bench → t.port.owner = .bench) : t.RingWith l := by
  constructor
  · exact h.loops.congr hloops hfetch hpost (by rw [hjob]; exact id)
  · rw [hjob, hloops]; exact h.idle
  · rw [hcopy, hfetch, hpost, hjob]; exact h.copy
  · intro r hstarved hr
    rw [Engine.repeatRefused_congr hloops hfetch]
    exact h.starved r (hjob ▸ hstarved) (hcopy ▸ hr)
  · rw [hwaits]; exact fun hne => howner (h.held hne)
  · rw [hwaits]; exact h.once
  · rw [hwaits, hfetch, hpost, hcopy]; exact h.fetch
  · intro index code count c hc
    rw [hwaits] at hc
    obtain ⟨hnone, hring⟩ := h.outcome index code count c hc
    exact ⟨hcopy.trans hnone, fun hrun => (hring (hjob ▸ hrun)).congr hloops hfetch hpost⟩

theorem State.RingWith.of_eq {s t : State} {l : List EngineAccess} (h : s.RingWith l) (heng : t.eng = s.eng)
    (hport : t.port = s.port) : t.RingWith l :=
  h.congr (by rw [heng]) (by rw [heng]) (by rw [heng]) (by rw [heng]) (by rw [heng]) (by rw [hport]) (by rw [hport]; exact id)

/-- The release of the port, where it is asked for (R19). -/
theorem ownerReleased_of_bench {s : State} (h : s.port.owner = .bench) : ownerReleased s = .bench := by
  simp [ownerReleased, h]

theorem State.RingWith.enterPhase {s : State} {l : List EngineAccess} (h : s.RingWith l) (p : StepPhase) (k : Option Timer) :
    (s.enterPhase p k).RingWith l := by
  rw [State.enterPhase_eq]
  exact h.congr rfl rfl rfl rfl rfl rfl ownerReleased_of_bench

/-- An access that joins those waiting for the port's return. -/
theorem State.RingWith.wait {s : State} {l : List EngineAccess} (h : s.RingWith l) {a : EngineAccess}
    (howner : s.port.owner = .bench) (honce : a.goesOn = true → Quiet (s.port.waits ++ l)) (hfetch : a ≠ .fetch)
    (houtcome : ∀ index code count c, a = .outcome index code count (some c) →
      s.eng.copy = none ∧ (s.eng.job = .running → c.after.InRing s.eng)) : (s.wait a).RingWith l := by
  refine ⟨h.loops, h.idle, h.copy, h.starved, fun _ => howner, ?_, fun hin => ?_, fun index code count c hin => ?_⟩
  · have hwaiting := h.once
    simp only [State.wait, List.countP_append, List.countP_cons, List.countP_nil] at hwaiting ⊢
    cases hgoes : a.goesOn with
    | false => simp only [Bool.false_eq_true, if_false]; omega
    | true =>
      have hquiet := honce hgoes
      simp only [Quiet, List.countP_append] at hquiet
      simp only [if_true]
      omega
  · refine h.fetch ?_
    simp only [State.wait, List.mem_append, List.mem_singleton] at hin ⊢
    rcases hin with (hin | hin) | hin
    · exact .inl hin
    · exact absurd hin.symm hfetch
    · exact .inr hin
  · simp only [State.wait, List.mem_append, List.mem_singleton] at hin
    rcases hin with (hin | hin) | hin
    · exact h.outcome index code count c (by simp [hin])
    · exact houtcome index code count c hin.symm
    · exact h.outcome index code count c (by simp [hin])

/-! ### Halts -/

/-- A halted job goes on from nothing: what was fetched is gone, and what waits moves F no more (R46). -/
theorem State.RingWith.halted {s t : State} {l : List EngineAccess} {reason : HaltReason} (h : s.RingWith l)
    (hjob : s.eng.job ≠ .ended) (heng : t.eng = haltedEngine s.eng reason) (howner : t.port.owner = ownerReleased s)
    (hwaits : t.port.waits = s.port.waits ∨
      (s.port.owner = .bench ∧ ∃ i o c, t.port.waits = s.port.waits ++ [.outcome i o c none])) : t.RingWith l := by
  have hrest : ∀ w : EngineAccess, w ∈ t.port.waits ++ l → (∃ i o c, w = .outcome i o c none) ∨ w ∈ s.port.waits ++ l := by
    intro w hw
    rcases hwaits with hsame | ⟨-, i, o, c, hmore⟩
    · exact .inr (hsame ▸ hw)
    · rw [hmore] at hw
      simp only [List.mem_append, List.mem_singleton] at hw
      rcases hw with (hw | rfl) | hw
      · exact .inr (by simp [hw])
      · exact .inl ⟨i, o, c, rfl⟩
      · exact .inr (by simp [hw])
  constructor
  · rw [heng]; exact h.loops.congr rfl rfl rfl (fun _ => hjob)
  · rw [heng]; exact fun hidle => by cases hidle
  · rw [heng]; exact fun hne => absurd rfl hne
  · rw [heng]; exact fun r hstarved => by cases hstarved
  · intro hne
    rw [howner]
    rcases hwaits with hsame | ⟨hb, -⟩
    · exact ownerReleased_of_bench (h.held (hsame ▸ hne))
    · exact ownerReleased_of_bench hb
  · have hcount : (t.port.waits ++ l).countP EngineAccess.goesOn = (s.port.waits ++ l).countP EngineAccess.goesOn := by
      rcases hwaits with hsame | ⟨-, i, o, c, hmore⟩
      · rw [hsame]
      · simp [hmore, List.countP_append, EngineAccess.goesOn]
    exact hcount ▸ h.once
  · intro hin
    rcases hrest _ hin with ⟨i, o, c, hc⟩ | hin
    · cases hc
    · rw [heng]; exact ⟨(h.fetch hin).1, rfl⟩
  · rw [heng]; exact fun _ _ _ _ _ => ⟨rfl, fun hrun => by cases hrun⟩

theorem JobState.ne_ended_of_active {j : JobState} (h : j.active = true) : j ≠ .ended := by
  rintro rfl
  cases h

theorem StandsOrHalts.ring {s t : State} {l : List EngineAccess} (h : StandsOrHalts s t) (hs : s.RingWith l) :
    t.RingWith l := by
  cases h with
  | stands heng hport => exact hs.of_eq heng hport
  | halts reason hactive heng howner hwaits => exact hs.halted (JobState.ne_ended_of_active hactive) heng howner hwaits

theorem State.RingWith.haltJob {s : State} {l : List EngineAccess} (h : s.RingWith l) (hjob : s.eng.job ≠ .ended)
    (reason : HaltReason) : (s.haltJob reason).RingWith l := by
  rw [State.haltJob_eq]
  exact h.halted (t := { s with
    eng := haltedEngine s.eng reason, line := lineAfterEnd s.line (haltedEngine s.eng reason) s.faults.queue.length,
    port := { s.port with owner := ownerReleased s } }) hjob rfl rfl (.inl rfl)

theorem State.RingWith.writeBack {s : State} {l : List EngineAccess} (h : s.RingWith l) (r : Record) (o : StepOutcome) :
    (s.writeBack r o).RingWith l := by
  unfold State.writeBack
  split
  · split
    · rename_i hb
      exact h.wait hb (by simp [EngineAccess.goesOn]) (by simp) (by simp)
    · exact h.of_eq rfl rfl
  · exact h

theorem State.RingWith.abandon {s : State} {l : List EngineAccess} (h : s.RingWith l) : s.abandon.RingWith l := by
  unfold State.abandon
  split
  · split
    · exact h
    · exact State.RingWith.writeBack (by exact h.of_eq rfl rfl) _ _
  · exact h

theorem State.RingWith.refuseRecord {s : State} {l : List EngineAccess} (h : s.RingWith l) (hjob : s.eng.job = .running) :
    s.refuseRecord.RingWith l := by
  unfold State.refuseRecord
  split
  · exact h
  · exact (h.writeBack _ _).haltJob (by simp [hjob]) _

theorem State.RingWith.abort {s : State} {l : List EngineAccess} (h : s.RingWith l) (hactive : s.eng.job.active = true) :
    s.abort.RingWith l :=
  State.RingWith.haltJob (h.abandon.of_eq (by simp) (by simp)) (by simpa using JobState.ne_ended_of_active hactive) _

/-! ### Fetches, boundaries and completions -/

/-- The fetch test (R29): STARVED at F equal to P, the fetch or its wait for the port elsewhere. -/
theorem State.RingWith.fetchTest {s : State} {l : List EngineAccess} (h : s.RingWith l) (hjob : s.eng.job = .running)
    (hcopy : s.eng.copy = none) (hquiet : Quiet (s.port.waits ++ l)) : s.fetchTest.RingWith l := by
  rw [State.fetchTest_eq]
  split
  · exact .of_quiet (h.loops.congr rfl rfl rfl (by simp [hjob])) (by simp) hcopy
      (fun hne => ownerReleased_of_bench (h.held hne)) hquiet
  · rename_i hne
    split
    · rename_i hb
      refine ⟨h.loops, h.idle, h.copy, h.starved, fun _ => hb, ?_, fun _ => ⟨hne, hcopy⟩,
        fun index code count c hin => ?_⟩
      · simp only [Quiet, List.countP_append] at hquiet
        simp only [List.countP_append, List.countP_cons, List.countP_nil, EngineAccess.goesOn, if_true]
        omega
      · refine h.outcome index code count c ?_
        simp only [List.mem_append, List.mem_singleton, reduceCtorEq, or_false] at hin
        simpa using hin
    · exact ⟨h.loops.congr rfl rfl rfl id, h.idle, fun _ => ⟨hne, .inl hjob⟩, fun _ hstarved => by simp [hjob] at hstarved,
        h.held, h.once, fun hin => absurd hin hquiet.not_fetch, fun _ _ _ _ hin => absurd hin hquiet.not_outcome⟩

/-- The step boundary (R33): F and the loop stack move, and the job is PAUSED or makes its fetch test. -/
theorem State.RingWith.boundary {s : State} {l : List EngineAccess} (h : s.RingWith l) (hjob : s.eng.job = .running)
    {a : AfterStep} (ha : a.InRing s.eng) (hnext : a ≠ .stop) (hquiet : Quiet (s.port.waits ++ l)) :
    (s.boundary a).RingWith l := by
  have hne : s.eng.job ≠ .ended := by simp [hjob]
  have hheld := fun hwaits => ownerReleased_of_bench (h.held hwaits)
  unfold State.boundary
  dsimp only
  split
  · rw [State.releasePort_eq]
    exact .of_quiet (h.loops.moved hne ha hnext rfl rfl rfl) (by simp) rfl hheld hquiet
  · refine State.RingWith.fetchTest ?_ (by simpa using hjob) (by simp) (by simpa using hquiet)
    rw [State.releasePort_eq]
    exact .of_quiet (h.loops.moved hne ha hnext rfl rfl rfl) (by simp [hjob]) rfl hheld hquiet

theorem State.RingWith.endJob {s : State} {l : List EngineAccess} (h : s.RingWith l) (hjob : s.eng.job = .running)
    (hquiet : Quiet (s.port.waits ++ l)) : s.endJob.RingWith l := by
  unfold State.endJob
  rw [State.releasePort_eq]
  exact .of_quiet (h.loops.stopped (by simp [hjob]) (by simp) (by simp) (by simp) (by simp)) (by simp) (by simp)
    (by simpa [ownerReleased] using fun hwaits => ownerReleased_of_bench (h.held hwaits)) (by simpa using hquiet)

theorem State.RingWith.goOn {s : State} {l : List EngineAccess} (h : s.RingWith l) (hjob : s.eng.job = .running)
    {a : AfterStep} (ha : a.InRing s.eng) (hquiet : Quiet (s.port.waits ++ l)) : (s.goOn a).RingWith l := by
  cases a with
  | stop => exact h.endJob hjob hquiet
  | halt reason => exact h.haltJob (by simp [hjob]) reason
  | isolate => exact State.RingWith.haltJob (h.of_eq (by simp) (by simp)) (by simp [hjob]) _
  | advance => exact h.boundary hjob ha (by simp) hquiet
  | enter k => exact h.boundary hjob ha (by simp) hquiet
  | skip last => exact h.boundary hjob ha (by simp) hquiet

theorem State.RingWith.finish {s : State} {l : List EngineAccess} (h : s.RingWith l) {c : Completion}
    (hc : s.eng.job = .running → c.after.InRing s.eng) (hquiet : Quiet (s.port.waits ++ l)) : (s.finish c).RingWith l := by
  have hreported : (s.progress c).RingWith l := h.of_eq (by simp) (by simp)
  unfold State.finish
  dsimp only
  split
  · rename_i hjob
    exact hreported.goOn (by simpa using hjob) (by simpa using hc hjob) (by simpa using hquiet)
  · exact hreported.of_eq (by simp) (by simp)

/-- A completion of the record in flight (R32, R33), with its write-back made or waiting. -/
theorem State.RingWith.complete {s : State} {l : List EngineAccess} (h : s.RingWith l) (o : StepOutcome) {a : AfterStep} (ha : a.InRing s.eng) (hquiet : Quiet (s.port.waits ++ l)) :
    (s.complete o a).RingWith l := by
  unfold State.complete
  split
  · exact h
  · dsimp only
    have hdone : State.RingWith { s with
        eng := { s.eng with copy := none, phase := .ready, judged := none, timer := none } } l :=
      .of_quiet (h.loops.congr rfl rfl rfl id) h.idle rfl h.held hquiet
    have hin : a.InRing { s.eng with copy := none, phase := .ready, judged := none, timer := none } := ha.congr rfl rfl rfl
    split
    · split
      · rename_i hb
        refine hdone.wait hb (fun _ => hquiet) (by simp) (fun _ _ _ c hc => ⟨rfl, fun _ => ?_⟩)
        cases hc
        exact hin
      · exact State.RingWith.finish (hdone.of_eq (by simp) (by simp)) (fun _ => hin) (by simpa using hquiet)
    · exact hdone.finish (fun _ => hin) hquiet

theorem State.RingWith.completePassed {s : State} {l : List EngineAccess} (h : s.RingWith l)
    (first : StepOutcome) (hquiet : Quiet (s.port.waits ++ l)) : (s.completePassed first).RingWith l :=
  h.complete _ trivial hquiet

/-! ### The port's return -/

theorem State.RingWith.writeCapture {s : State} {l : List EngineAccess} (h : s.RingWith l) (entry : Record) :
    (s.writeCapture entry).RingWith l :=
  h.of_eq (by simp) (by simp)

/-- An access of the list is made: what goes on from F is then made no more (R21). -/
theorem State.RingWith.makeAccess {s : State} {a : EngineAccess} {l : List EngineAccess} (h : s.RingWith (a :: l)) :
    (s.makeAccess a).RingWith l := by
  have hrest : s.RingWith l := by
    refine ⟨h.loops, h.idle, h.copy, h.starved, h.held, ?_, fun hin => h.fetch ?_, fun i o n c hin => h.outcome i o n c ?_⟩
    · have honce := h.once
      simp only [List.countP_append, List.countP_cons] at honce ⊢
      omega
    · simp only [List.mem_append, List.mem_cons] at hin ⊢
      exact hin.imp_right .inr
    · simp only [List.mem_append, List.mem_cons] at hin ⊢
      exact hin.imp_right .inr
  have hquiet : a.goesOn = true → Quiet (s.port.waits ++ l) := by
    intro hgoes
    have honce := h.once
    simp only [List.countP_append, List.countP_cons, hgoes, if_true] at honce
    simp only [Quiet, List.countP_append]
    omega
  cases a with
  | capture entry completes =>
    cases completes with
    | none => exact hrest.writeCapture entry
    | some o =>
      have hwritten := hrest.writeCapture entry
      simp only [State.makeAccess]
      split
      · exact hwritten.complete _ trivial (hquiet rfl)
      · exact hwritten
  | outcome index code count after =>
    cases after with
    | none => exact hrest.of_eq (by simp [State.makeAccess]) (by simp [State.makeAccess])
    | some c =>
      obtain ⟨-, hring⟩ := h.outcome index code count c (by simp)
      exact State.RingWith.finish (hrest.of_eq (by simp) (by simp)) (by simpa using hring) (by simpa using hquiet rfl)
  | fetch =>
    simp only [State.makeAccess]
    split
    · rename_i hjob
      obtain ⟨hne, hcopy⟩ := h.fetch (by simp)
      have htest := hrest.fetchTest hjob hcopy (hquiet rfl)
      rwa [State.fetchTest, if_neg hne] at htest
    · exact hrest

theorem State.RingWith.foldl_makeAccess {s : State} {l : List EngineAccess} (h : s.RingWith l) :
    (l.foldl State.makeAccess s).RingWith [] := by
  induction l generalizing s with
  | nil => exact h
  | cons a l ih => exact ih h.makeAccess

theorem State.RingWith.grantedAtRelease {s : State} {l : List EngineAccess} (h : s.RingWith l) :
    (grantedAtRelease s).RingWith l := by
  unfold Machine.grantedAtRelease
  split
  · exact h.congr rfl rfl rfl rfl rfl rfl ownerReleased_of_bench
  · exact h

theorem State.RingWith.returnPort {s : State} (h : s.RingWith []) : s.returnPort.RingWith [] := by
  have hback : State.RingWith { s with port := { owner := .engine, waits := [] } } s.port.waits :=
    ⟨h.loops, h.idle, h.copy, h.starved, fun hne => absurd rfl hne, by simpa using h.once, by simpa using h.fetch,
      by simpa using h.outcome⟩
  cases hw : s.port.waits with
  | nil =>
    simp only [State.returnPort, hw]
    exact hw ▸ hback
  | cons w ws =>
    rw [State.returnPort_waits hw]
    rw [hw] at hback
    refine State.RingWith.grantedAtRelease (State.RingWith.foldl_makeAccess ?_)
    unfold State.askAtReturn
    split
    · exact hback.congr rfl rfl rfl rfl rfl rfl (fun howner => by cases howner)
    · exact hback

/-! ### Faults, strobes and moves -/

theorem State.RingWith.recordFault {s : State} {l : List EngineAccess} (h : s.RingWith l) (i : FaultInfo)
    (a : Option GuardAction) : (s.recordFault i a).RingWith l :=
  (s.recordFault_standsOrHalts i a).ring h

theorem State.RingWith.enterJudging {s : State} {l : List EngineAccess} (h : s.RingWith l) (q : BitVec 16) :
    (s.enterJudging q).RingWith l := by
  unfold State.enterJudging
  split
  · exact State.RingWith.enterPhase (by exact h.congr rfl rfl rfl rfl rfl rfl id) _ _
  · exact h

theorem State.RingWith.stepFault {s : State} {l : List EngineAccess} (h : s.RingWith l) (i : FaultInfo) :
    (s.stepFault i).RingWith l := by
  unfold State.stepFault
  split
  · exact (h.recordFault _ _).enterJudging _
  · exact h.recordFault _ _

theorem State.RingWith.storeCapture {s : State} {l : List EngineAccess} (h : s.RingWith l) (entry : Record) :
    (s.storeCapture entry none).RingWith l := by
  unfold State.storeCapture
  split
  · rename_i hb
    exact h.wait hb (by simp [EngineAccess.goesOn]) (by simp) (by simp)
  · exact h.writeCapture entry

theorem State.RingWith.strobeJudged {s : State} {l : List EngineAccess} (h : s.RingWith l)
    (hquiet : Quiet (s.port.waits ++ l)) (r : Record) (levels : Levels) (qualifiedTaken : Bool) (result : FieldResult)
    (fault : FaultInfo) : (s.strobeJudged r levels qualifiedTaken result fault).RingWith l := by
  have hraised : ∀ entry, State.RingWith ((if noCaptureFlag r then s else s.storeCapture entry none).stepFault fault) l := by
    intro entry
    refine State.RingWith.stepFault ?_ _
    split
    · exact h
    · exact h.storeCapture _
  have hpassed : ∀ entry outcome, State.RingWith (if noCaptureFlag r then s.complete outcome .advance
      else if s.port.owner = .bench then s.wait (.capture entry (some outcome))
      else (s.writeCapture entry).complete outcome .advance) l := by
    intro entry outcome
    split
    · exact h.complete _ trivial hquiet
    · split
      · rename_i hb
        exact h.wait hb (fun _ => hquiet) (by simp) (by simp)
      · exact (h.writeCapture entry).complete _ trivial hquiet
  cases result with
  | mismatch => exact hraised _
  | jump => exact hraised _
  | none_ => exact hpassed _ _
  | pass => exact hpassed _ _

theorem State.RingWith.strobeComplete {s : State} {l : List EngineAccess} (h : s.RingWith l)
    (hquiet : Quiet (s.port.waits ++ l)) (levels : Levels) (qualifiedTaken : Bool) :
    (s.strobeComplete levels qualifiedTaken).RingWith l := by
  unfold State.strobeComplete
  split
  · exact h
  · dsimp only
    split <;> exact State.RingWith.strobeJudged (by exact h.congr rfl rfl rfl rfl rfl rfl id) (by exact hquiet) _ _ _ _ _

theorem State.RingWith.holdOffEnded {s : State} {l : List EngineAccess} (h : s.RingWith l)
    (hquiet : Quiet (s.port.waits ++ l)) (o : SampleOp) (start : Time) (testPoints : Levels) :
    (s.holdOffEnded o start testPoints).RingWith l := by
  unfold State.holdOffEnded
  dsimp only
  split
  · exact h.strobeComplete hquiet _ _
  · exact h.of_eq rfl rfl

theorem State.RingWith.settleEnded {s : State} {l : List EngineAccess} (h : s.RingWith l)
    (hquiet : Quiet (s.port.waits ++ l)) (o : SampleOp) (testPoints : Levels) : (s.settleEnded o testPoints).RingWith l := by
  have hstrobe : State.RingWith { s with eng := { s.eng with phase := .strobe } } l := h.congr rfl rfl rfl rfl rfl rfl id
  unfold State.settleEnded
  dsimp only
  split
  · exact hstrobe.holdOffEnded hquiet _ _ _
  · exact hstrobe.of_eq rfl rfl

theorem State.RingWith.strobeTimedOut {s : State} {l : List EngineAccess} (h : s.RingWith l) (b : Strobe)
    (testPoints : Levels) : (s.strobeTimedOut b testPoints).RingWith l := by
  have hended : State.RingWith { s with probe := { s.probe with strobe := none } } l := h.of_eq rfl rfl
  unfold State.strobeTimedOut
  split
  · exact h
  · refine State.RingWith.stepFault ?_ _
    split
    · exact hended
    · exact hended.storeCapture _

theorem State.inFlight_iff (s : State) : s.inFlight = true ↔ s.eng.job = .running ∧ s.eng.copy.isSome = true := by
  simp [State.inFlight]

theorem State.RingWith.powerReached {s : State} {l : List EngineAccess} (h : s.RingWith l)
    (hquiet : s.eng.phase = .awaitPower → Quiet (s.port.waits ++ l)) : s.powerReached.RingWith l := by
  unfold State.powerReached
  split
  · rename_i hwaits
    obtain ⟨-, hphase⟩ := hwaits
    exact h.completePassed _ (hquiet hphase)
  · exact h

theorem State.RingWith.claimGranted {s : State} {l : List EngineAccess} (h : s.RingWith l)
    (hquiet : s.eng.phase = .awaitPower → Quiet (s.port.waits ++ l)) : s.claimGranted.RingWith l := by
  unfold State.claimGranted
  split
  · exact h
  · dsimp only
    split
    · exact h.of_eq rfl rfl
    · split
      · exact State.RingWith.powerReached (h.of_eq rfl rfl) hquiet
      · exact (State.enterRamping_standsOrHalts _).ring (h.of_eq rfl rfl)

theorem State.RingWith.rampEnded {s : State} {l : List EngineAccess} (h : s.RingWith l)
    (hquiet : s.eng.phase = .awaitPower → Quiet (s.port.waits ++ l)) : s.rampEnded.RingWith l := by
  unfold State.rampEnded
  split
  · exact h
  · exact State.RingWith.powerReached (h.of_eq (by simp) (by simp)) (by simpa using hquiet)

theorem State.RingWith.startSetClaim {s : State} {l : List EngineAccess} (h : s.RingWith l) (start : PowerState)
    (o : PowerOp) : (s.startSetClaim start o).RingWith l :=
  (State.askClaim_standsOrHalts _ _).ring (State.RingWith.enterPhase (by exact h.of_eq rfl rfl) _ _)

theorem State.RingWith.startUpward {s : State} {l : List EngineAccess} (h : s.RingWith l) (o : PowerOp) :
    (s.startUpward o).RingWith l :=
  State.RingWith.enterPhase (by exact h.of_eq rfl rfl) _ _

theorem State.RingWith.setDraw {s : State} {l : List EngineAccess} (h : s.RingWith l)
    (hquiet : Quiet (s.port.waits ++ l)) (o : PowerOp) : (s.setDraw o).RingWith l := by
  unfold State.setDraw
  split
  · exact h.completePassed _ hquiet
  · split
    · exact State.RingWith.completePassed (h.of_eq (by simp) (by simp)) _ (by simpa using hquiet)
    · exact h.startSetClaim _ _

theorem State.RingWith.downward {s : State} {l : List EngineAccess} (h : s.RingWith l)
    (hquiet : Quiet (s.port.waits ++ l)) (o : PowerOp) : (s.downward o).RingWith l := by
  have hopen : State.RingWith { s with power := { s.power with main := false, state := .standby } } l := h.of_eq rfl rfl
  unfold State.downward
  dsimp only
  split
  · exact State.RingWith.completePassed (h.of_eq (by simp) (by simp)) _ (by simpa using hquiet)
  · split
    · exact hopen.completePassed _ hquiet
    · exact hopen.startSetClaim _ _

theorem State.RingWith.runPower {s t : State} {l : List EngineAccess} {o : PowerOp} (h : s.RingWith l)
    (hjob : s.eng.job = .running) (hquiet : Quiet (s.port.waits ++ l)) (ht : s.runPower o = some t) : t.RingWith l := by
  unfold State.runPower at ht
  dsimp only at ht
  generalize hu : (if o.target = .off then s
    else { s with power := { s.power with mainTrip := o.mainTrip, standbyTrip := o.standbyTrip } }) = u at ht
  have hsame : u.eng = s.eng ∧ u.port = s.port := by
    subst hu
    split <;> exact ⟨rfl, rfl⟩
  obtain ⟨heng, hport⟩ := hsame
  have h : u.RingWith l := h.of_eq heng hport
  have hjob : u.eng.job = .running := by rw [heng]; exact hjob
  have hquiet : Quiet (u.port.waits ++ l) := by rw [hport]; exact hquiet
  have hoff : ((u.powerDown .off).completePassed .done).RingWith l :=
    State.RingWith.completePassed (h.of_eq (by simp) (by simp)) _ (by simpa using hquiet)
  split at ht <;> cases ht
  · exact h.completePassed _ hquiet
  · exact hoff
  · exact hoff
  · exact h.startUpward _
  · exact h.startUpward _
  · exact h.startUpward _
  · exact h.setDraw hquiet _
  · exact h.setDraw hquiet _
  · exact h.downward hquiet _

theorem State.RingWith.dispatchPower {s t : State} {l : List EngineAccess} {r : Record} (h : s.RingWith l)
    (hjob : s.eng.job = .running) (hquiet : Quiet (s.port.waits ++ l)) (ht : s.dispatchPower r = some t) : t.RingWith l := by
  unfold State.dispatchPower at ht
  split at ht
  · cases ht
    exact h.refuseRecord hjob
  · exact h.runPower hjob hquiet ht

theorem State.RingWith.engineClass {s : State} {l : List EngineAccess} (h : s.RingWith l)
    (hquiet : s.eng.phase = .judging → Quiet (s.port.waits ++ l)) (q : BitVec 16) (c : FaultClass) :
    (s.engineClass q c).RingWith l := by
  unfold State.engineClass
  split
  · rename_i hjudges
    obtain ⟨-, hphase, -⟩ := hjudges
    split
    · exact h
    · split <;> exact h.complete _ trivial (hquiet hphase)
    · split
      · exact State.RingWith.enterPhase (by exact h.congr rfl rfl rfl rfl rfl rfl id) _ _
      · exact h.complete _ trivial (hquiet hphase)
  · exact h

theorem State.RingWith.dispatchClass {s : State} {l : List EngineAccess} (h : s.RingWith l)
    (hquiet : s.eng.phase = .judging → Quiet (s.port.waits ++ l)) (r : FaultRecord) (c : FaultClass) :
    (s.dispatchClass r c).RingWith l := by
  unfold State.dispatchClass
  split
  · exact (s.guardClass_standsOrHalts _ _).ring h
  · exact h
  · exact h
  · exact h.engineClass hquiet _ _

/-! ### REPEAT, POST and the control of the job -/

/-- A REPEAT that proceeds pushes or skips a body ahead of F (R39). -/
theorem State.RingWith.runRepeat {s : State} {l : List EngineAccess} {r : Record} (h : s.RingWith l)
    (hjob : s.eng.job = .running) (hquiet : Quiet (s.port.waits ++ l)) (hsound : s.eng.repeatRefused r = false)
    (hposted : s.eng.bodyPosted r = true) : (s.runRepeat r).RingWith l := by
  have hahead := h.loops.bodyAhead (by simp [hjob]) hsound hposted
  refine h.complete _ ?_ hquiet
  split
  · exact hahead
  · rename_i hcount
    refine ⟨rfl, hcount, ?_, hahead⟩
    simp only [Engine.repeatRefused, Bool.or_eq_false_iff, decide_eq_false_iff_not, not_and, not_le] at hsound
    exact hsound.2 hcount

/-- The re-test of a STARVED job (R30), which nothing waits for. -/
theorem State.RingWith.retest {s : State} (h : s.RingWith []) (hquiet : Quiet (s.port.waits ++ [])) :
    s.retest.RingWith [] := by
  unfold State.retest
  dsimp only
  split
  · rename_i hstarved
    have hloops : Engine.LoopsInOrder { s.eng with job := .running } := h.loops.congr rfl rfl rfl (by simp [hstarved])
    split
    · rename_i hcopy
      split
      · exact h
      · refine State.RingWith.fetchTest ?_ rfl hcopy hquiet
        exact .of_quiet hloops (by simp) hcopy h.held hquiet
    · rename_i r hr
      split
      · rename_i hposted
        have hruns : State.RingWith { s with eng := { s.eng with job := .running } } [] :=
          ⟨hloops, by simp, fun hne => ⟨(h.copy hne).1, .inl rfl⟩, by simp, h.held, h.once,
            fun hin => absurd hin hquiet.not_fetch, fun _ _ _ _ hin => absurd hin hquiet.not_outcome⟩
        exact hruns.runRepeat rfl hquiet (h.starved r hstarved hr) hposted
      · exact h
  · exact h

/-- An accepted POST (R10), which the free count admits. -/
theorem State.RingWith.postTo {s : State} (h : s.RingWith []) (hquiet : Quiet (s.port.waits ++ [])) {index : RingIndex}
    (hfree : (index - s.eng.postIndex).toNat ≤ s.eng.freeCount) : (s.postTo index).RingWith [] := by
  unfold State.postTo
  split
  · exact h
  · obtain ⟨hloops, hstill⟩ :=
      h.loops.posted (e' := { s.eng with postIndex := index }) rfl rfl rfl hfree
    refine State.RingWith.retest ⟨hloops, h.idle, fun hne => ?_, h.starved, h.held, h.once,
      fun hin => absurd hin hquiet.not_fetch, fun _ _ _ _ hin => absurd hin hquiet.not_outcome⟩ hquiet
    obtain ⟨hbefore, hruns⟩ := h.copy hne
    exact ⟨hstill hbefore, hruns⟩

/-- The job runs again from a state with nothing fetched (R24, R26). -/
theorem State.RingWith.runs {s t : State} (h : s.RingWith []) (hquiet : Quiet (s.port.waits ++ []))
    (hcopy : s.eng.copy = none) (hjob : s.eng.job ≠ .ended) (hjob' : t.eng.job = .running)
    (hloops : t.eng.loops = s.eng.loops) (hfetch : t.eng.fetchIndex = s.eng.fetchIndex)
    (hpost : t.eng.postIndex = s.eng.postIndex) (hcopy' : t.eng.copy = s.eng.copy) (hport : t.port = s.port) :
    t.fetchTest.RingWith [] := by
  refine State.RingWith.fetchTest (.of_quiet ?_ (by simp [hjob']) (hcopy'.trans hcopy) (by rw [hport]; exact h.held)
    (by rw [hport]; exact hquiet)) hjob' (hcopy'.trans hcopy) (by rw [hport]; exact hquiet)
  exact h.loops.congr hloops hfetch hpost (fun _ => hjob)

/-- A record is held in RUNNING and in STARVED alone. -/
theorem State.RingWith.copy_none {s : State} {l : List EngineAccess} (h : s.RingWith l)
    (hjob : s.eng.job ≠ .running ∧ s.eng.job ≠ .starved) : s.eng.copy = none := by
  by_contra hne
  obtain ⟨-, hrun | hstarved⟩ := h.copy hne
  · exact hjob.1 hrun
  · exact hjob.2 hstarved

theorem State.RingWith.startVerdict {s t : State} {p : List Byte} (h : s.RingWith []) (hquiet : Quiet (s.port.waits ++ []))
    (ht : s.startVerdict p = .ok t) : t.RingWith [] := by
  unfold State.startVerdict at ht
  split at ht
  · cases ht
  · split at ht
    · cases ht
    · split at ht <;> cases ht
      rename_i hidle
      exact h.runs hquiet (h.copy_none (by simp [hidle])) (by simp [hidle]) rfl rfl rfl rfl rfl rfl

theorem State.RingWith.pauseVerdict {s t : State} {p : List Byte} (h : s.RingWith []) (hquiet : Quiet (s.port.waits ++ []))
    (ht : s.pauseVerdict p = .ok t) : t.RingWith [] := by
  unfold State.pauseVerdict at ht
  split at ht
  · cases ht
  · split at ht <;> cases ht
    · exact h.congr rfl rfl rfl rfl rfl rfl id
    · rename_i hstarved
      exact .of_quiet (h.loops.congr rfl rfl rfl (by simp [hstarved])) (by simp) rfl h.held hquiet
    · exact h

theorem State.RingWith.resumeVerdict {s t : State} {p : List Byte} (h : s.RingWith []) (hquiet : Quiet (s.port.waits ++ []))
    (ht : s.resumeVerdict p = .ok t) : t.RingWith [] := by
  unfold State.resumeVerdict at ht
  split at ht
  · cases ht
  · split at ht
    · rename_i hpaused
      cases ht
      exact h.runs hquiet (h.copy_none (by simp [hpaused])) (by simp [hpaused]) rfl rfl rfl rfl rfl rfl
    · split at ht <;> cases ht
      exact h.congr rfl rfl rfl rfl rfl rfl id
    all_goals cases ht

theorem State.RingWith.abortVerdict {s t : State} {p : List Byte} (h : s.RingWith []) (ht : s.abortVerdict p = .ok t) :
    t.RingWith [] := by
  unfold State.abortVerdict at ht
  split at ht
  · cases ht
  · split at ht <;> cases ht
    rename_i hactive
    exact h.abort hactive

theorem State.RingWith.clearVerdict {s t : State} {p : List Byte} (h : s.RingWith []) (hquiet : Quiet (s.port.waits ++ []))
    (ht : s.clearVerdict p = .ok t) : t.RingWith [] := by
  unfold State.clearVerdict at ht
  split at ht
  · cases ht
  · split at ht <;> cases ht
    have heng : s.clear.eng = s.eng.cleared := by simp [State.clear]
    have hport : s.clear.port = s.port := by simp [State.clear]
    exact .of_quiet (Engine.loopsInOrder_of_nil (by rw [heng]; rfl)) (fun _ => by rw [heng]; rfl) (by rw [heng]; rfl)
      (by rw [hport]; exact h.held) (by rw [hport]; exact hquiet)

theorem State.RingWith.ringVerdict {s t : State} {p : List Byte} (h : s.RingWith []) (hquiet : Quiet (s.port.waits ++ []))
    (ht : s.ringVerdict p = .ok t) : t.RingWith [] := by
  unfold State.ringVerdict at ht
  split at ht
  · cases ht
  · split at ht
    · cases ht
    · split at ht <;> cases ht
      rename_i hidle
      exact .of_quiet (Engine.loopsInOrder_of_nil (h.idle hidle)) (fun _ => h.idle hidle) (h.copy_none (by simp [hidle]))
        h.held hquiet

end Sys2Proof.Machine
end

section
/-! PROOFS of the family "step ring and step memory", 8: the invariant O9 over the commands. -/

namespace Sys2Proof.Machine

/-! ### Step records -/

theorem State.awaiting_eq_some {s : State} {r : Record} (h : s.awaiting = some r) : s.AwaitsDispatch r := by
  unfold State.awaiting at h
  split at h
  · rename_i hawaits
    exact ⟨hawaits.1, hawaits.2.1, hawaits.2.2, h⟩
  · cases h

theorem State.awaitingKind_eq_some {s : State} {k : Nat} {r : Record} (h : s.awaitingKind k = some r) :
    s.AwaitsDispatch r :=
  State.awaiting_eq_some (Option.filter_eq_some_iff.mp h).1

theorem State.AwaitsDispatch.quiet {s : State} {r : Record} (h : s.AwaitsDispatch r) : Quiet (s.port.waits ++ []) := by
  obtain ⟨-, -, hwaits, -⟩ := h
  rw [hwaits]
  exact Quiet.of_goesOn (by simp)

/-- A record that runs to its completion at dispatch, after a change of another block. -/
theorem State.AwaitsDispatch.complete_ring {s u : State} {r : Record} (hr : s.AwaitsDispatch r) (h : s.RingWith [])
    (heng : u.eng = s.eng) (hport : u.port = s.port) (o : StepOutcome) {a : AfterStep} (ha : a.InRing s.eng) :
    (u.complete o a).RingWith [] :=
  State.RingWith.complete (h.of_eq heng hport) o (by rw [heng]; exact ha) (by rw [hport]; exact hr.quiet)

theorem execStepRepeat_ring {s t : State} (hs : s.RingWith []) (h : execStepRepeat s = .next t) : t.RingWith [] := by
  unfold execStepRepeat at h
  split at h
  · cases h; exact hs
  · rename_i r hr
    have hawaits := State.awaitingKind_eq_some hr
    have hquiet := hawaits.quiet
    obtain ⟨hjob, -, hwaits, hcopy⟩ := hawaits
    split at h
    · cases h; exact hs.refuseRecord hjob
    · rename_i hsound
      have hsound : s.eng.repeatRefused r = false := by simpa using hsound
      split at h <;> cases h
      · rename_i hposted
        exact hs.runRepeat hjob hquiet hsound hposted
      · rw [State.releasePort_eq]
        have hne := (hs.copy (by simp [hcopy])).1
        refine ⟨hs.loops.congr rfl rfl rfl (by simp [hjob]), by simp, fun _ => ⟨hne, .inr rfl⟩, fun r' _ hr' => ?_,
          fun hne => absurd hwaits hne, hs.once, fun hin => absurd hin hquiet.not_fetch,
          fun _ _ _ _ hin => absurd hin hquiet.not_outcome⟩
        cases hcopy.symm.trans hr'
        exact hsound

/-- The commands that dispatch the fetched record. -/
def dispatchesRecord : Instr → Bool
  | .stepLanes | .stepDrive | .stepSample | .stepField | .stepLimits | .stepRailcheck | .stepGuard | .stepScale | .stepPower
  | .stepWait | .stepRepeat | .stepMark | .stepStop | .unknownStepKind => true
  | .reset _ _ | .stationTick | .updateRound _ | .guardFault _ | .guardRearm _ | .tripDetection | .overdrawDetection
  | .zeroCaptureEnd | .rampExpiry | .railcheckAverageEnd | .settleEnd _ | .holdOffRelease _ | .qualifierEdge _
  | .strobeTimerExpiry _ | .waitExpiry | .recoverExpiry | .coincidenceJudgement | .frameFail _ _ _ | .frameClaim _ _ _
  | .frameDraw _ _ _ | .frameJoin _ _ _ | .frameSetup _ _ _ | .ownClaimTaken | .duplicateSlotFrame _
  | .frameReceivedBad _ _ | .framePassedOver _ | .pendingExpiry _ | .claimJudgement | .backoffExpiry | .frameBegin
  | .contentionLost | .bitError | .frameSent | .benchRequestArrival _ | .serveLoad | .servePost | .servePeek
  | .benchAccessGrant | .serveStart | .servePause | .serveResume | .serveAbort | .serveClear | .serveRing
  | .serveUnknownAction | .serveQueryStatus | .serveQueryReadings | .serveQueryUnknown | .serveFaultRead
  | .serveFaultTrim => false

theorem exec_ring_of_dispatchesRecord {i : Instr} {s t : State} (hs : s.RingWith []) (h : exec i s = .next t)
    (hi : dispatchesRecord i = true) : t.RingWith [] := by
  cases i with
  | stepRepeat => exact execStepRepeat_ring hs h
  | stepLanes =>
    simp only [exec, execStepLanes] at h
    split at h <;> cases h
    · exact hs
    · exact (State.awaitingKind_eq_some ‹_›).complete_ring hs (by rfl) (by rfl) _ trivial
  | stepDrive =>
    simp only [exec, execStepDrive] at h
    split at h <;> cases h
    · exact hs
    · exact (State.awaitingKind_eq_some ‹_›).complete_ring hs (by rfl) (by rfl) _ trivial
  | stepSample =>
    simp only [exec, execStepSample] at h
    split at h <;> cases h
    · exact hs
    · exact State.RingWith.enterPhase (by exact hs.of_eq rfl rfl) _ _
  | stepField =>
    simp only [exec, execStepField] at h
    split at h
    · cases h; exact hs
    · rename_i r hr
      have hawaits := State.awaitingKind_eq_some hr
      split at h <;> cases h
      · exact hs.refuseRecord hawaits.1
      · exact hawaits.complete_ring hs (by rfl) (by rfl) _ trivial
  | stepLimits =>
    simp only [exec, execStepLimits] at h
    split at h
    · cases h; exact hs
    · rename_i r hr
      have hawaits := State.awaitingKind_eq_some hr
      split at h <;> cases h
      · exact hs.refuseRecord hawaits.1
      · exact hawaits.complete_ring hs (by rfl) (by rfl) _ trivial
  | stepRailcheck =>
    simp only [exec, execStepRailcheck] at h
    split at h <;> cases h
    · exact hs
    · exact State.RingWith.enterPhase (by exact hs.of_eq rfl rfl) _ _
  | stepGuard =>
    simp only [exec, execStepGuard] at h
    split at h <;> cases h
    · exact hs
    · exact (State.awaitingKind_eq_some ‹_›).complete_ring hs (by simp) (by simp) _ trivial
  | stepScale =>
    simp only [exec, execStepScale] at h
    split at h <;> cases h
    · exact hs
    · exact (State.awaitingKind_eq_some ‹_›).complete_ring hs (by simp) (by simp) _ trivial
  | stepPower =>
    simp only [exec, execStepPower] at h
    split at h
    · cases h; exact hs
    · rename_i r hr
      have hawaits := State.awaitingKind_eq_some hr
      split at h <;> cases h
      exact hs.dispatchPower hawaits.1 hawaits.quiet ‹_›
  | stepWait =>
    simp only [exec, execStepWait] at h
    split at h
    · cases h; exact hs
    · split at h <;> cases h
      · exact (State.awaitingKind_eq_some ‹_›).complete_ring hs (by rfl) (by rfl) _ trivial
      · exact hs.enterPhase _ _
  | stepMark =>
    simp only [exec, execStepMark] at h
    split at h <;> cases h
    · exact hs
    · exact (State.awaitingKind_eq_some ‹_›).complete_ring hs (by rfl) (by rfl) _ trivial
  | stepStop =>
    simp only [exec, execStepStop] at h
    split at h <;> cases h
    · exact hs
    · exact (State.awaitingKind_eq_some ‹_›).complete_ring hs (by rfl) (by rfl) _ trivial
  | unknownStepKind =>
    simp only [exec, execUnknownStepKind] at h
    split at h <;> cases h
    · exact hs
    · rename_i hr
      exact hs.refuseRecord (State.awaiting_eq_some (Option.filter_eq_some_iff.mp hr).1).1
  | _ => cases hi

/-! ### Events of a record in flight -/

/-- What waits for the port goes on at READY alone (R31), so in every other phase nothing that waits goes on. -/
def State.WaitsAtReady (s : State) : Prop := ∀ w ∈ s.port.waits, w.goesOn = true → s.eng.phase = .ready

theorem State.WaitsAtReady.quiet {s : State} (h : s.WaitsAtReady) (hphase : s.eng.phase ≠ .ready) :
    Quiet (s.port.waits ++ []) := by
  refine Quiet.of_goesOn fun w hw => ?_
  by_contra hgoes
  exact hphase (h w (by simpa using hw) (by simpa using hgoes))

theorem State.strobeIn_eq_some {s : State} {p : StepPhase} {x : Record × Strobe} (h : s.strobeIn p = some x) :
    s.InPhase p x.1 ∧ s.probe.strobe = some x.2 := by
  unfold State.strobeIn at h
  split at h
  · rename_i hphase
    split at h
    · rename_i hr hb
      cases h
      exact ⟨⟨hphase.1, hphase.2, hr⟩, hb⟩
    · cases h
  · cases h

theorem State.timerDue_iff (s : State) (p : StepPhase) :
    s.timerDue p = true ↔ (s.eng.job = .running ∧ s.eng.phase = p) ∧ ∃ k, s.eng.timer = some k ∧ k.due s.clock = true := by
  simp [State.timerDue, Option.any_eq_true]

theorem execSettleEnd_ring {testPoints : Levels} {s t : State} (hs : s.RingWith []) (hw : s.WaitsAtReady)
    (h : execSettleEnd testPoints s = .next t) : t.RingWith [] := by
  unfold execSettleEnd at h
  split at h
  · cases h; exact hs
  · rename_i hb
    obtain ⟨⟨-, hphase, -⟩, -⟩ := State.strobeIn_eq_some hb
    split at h <;> cases h
    · exact hs.settleEnded (hw.quiet (by simp [hphase])) _ _
    · exact hs

theorem execHoldOffRelease_ring {testPoints : Levels} {s t : State} (hs : s.RingWith []) (hw : s.WaitsAtReady)
    (h : execHoldOffRelease testPoints s = .next t) : t.RingWith [] := by
  unfold execHoldOffRelease at h
  split at h
  · cases h; exact hs
  · rename_i hb
    obtain ⟨⟨-, hphase, -⟩, -⟩ := State.strobeIn_eq_some hb
    split at h <;> cases h
    · exact hs.holdOffEnded (hw.quiet (by simp [hphase])) _ _ _
    · exact hs

theorem execQualifierEdge_ring {testPoints : Levels} {s t : State} (hs : s.RingWith []) (hw : s.WaitsAtReady)
    (h : execQualifierEdge testPoints s = .next t) : t.RingWith [] := by
  unfold execQualifierEdge at h
  split at h
  · cases h; exact hs
  · rename_i hb
    obtain ⟨⟨-, hphase, -⟩, -⟩ := State.strobeIn_eq_some hb
    split at h <;> cases h
    · exact hs.strobeComplete (hw.quiet (by simp [hphase])) _ _
    · exact hs

theorem execZeroCaptureEnd_ring {s t : State} (hs : s.RingWith []) (h : execZeroCaptureEnd s = .next t) :
    t.RingWith [] := by
  unfold execZeroCaptureEnd at h
  split at h
  · cases h; exact hs
  · rename_i z _
    split at h
    · dsimp only at h
      split at h <;> cases h
      · have hfailed := (State.captureFailed_standsOrHalts _).ring (State.RingWith.recordFault
          (s := { s with rail := { s.rail with zeroCapture := none } }) (hs.of_eq rfl rfl) (backfeedFault z) none)
        split
        · exact hfailed.enterJudging _
        · exact hfailed
      · exact (State.captureDone_standsOrHalts _).ring (hs.of_eq rfl rfl)
    · cases h; exact hs

theorem execRailcheckAverageEnd_ring {s t : State} (hs : s.RingWith []) (hw : s.WaitsAtReady)
    (h : execRailcheckAverageEnd s = .next t) : t.RingWith [] := by
  unfold execRailcheckAverageEnd at h
  split at h
  · split at h
    · rename_i hends
      obtain ⟨-, -, hphase⟩ := hends
      dsimp only at h
      split at h <;> cases h
      · exact State.RingWith.stepFault (by exact hs.of_eq rfl rfl) _
      · exact State.RingWith.completePassed (by exact hs.of_eq rfl rfl) _ (hw.quiet (by simp [hphase]))
    · cases h; exact hs
  · cases h; exact hs

theorem execRecoverExpiry_ring {s t : State} (hs : s.RingWith []) (hw : s.WaitsAtReady)
    (h : execRecoverExpiry s = .next t) : t.RingWith [] := by
  unfold execRecoverExpiry at h
  split at h
  · rename_i hdue
    obtain ⟨⟨hjob, hphase⟩, -⟩ := (s.timerDue_iff _).mp hdue
    have hagain : State.RingWith { s with eng := { s.eng with attempt := s.eng.attempt + 1, timer := none } } [] :=
      hs.congr rfl rfl rfl rfl rfl rfl id
    dsimp only at h
    split at h
    · cases h; exact hs
    · split at h
      · cases h
        exact State.RingWith.enterPhase (by exact hagain.of_eq rfl rfl) _ _
      · split at h
        · cases h
          exact State.RingWith.enterPhase (by exact hagain.of_eq rfl rfl) _ _
        · split at h
          · split at h <;> cases h
            exact hagain.dispatchPower hjob (hw.quiet (by simp [hphase])) ‹_›
          · cases h; exact hs
  · cases h; exact hs

/-! ### Requests -/

/-- A request whose checks are being made finds nothing waiting for the port (R19, R169). -/
theorem State.RingWith.quiet_of_checking {s : State} (h : s.RingWith []) (hs : s.ServiceConsistent)
    (hchecking : s.bench.service = .checking) : Quiet (s.port.waits ++ []) := by
  have howner := hs.owner (by simp [hchecking])
  have hnone : s.port.waits = [] := by
    by_contra hne
    simp [h.held hne] at howner
  rw [hnone]
  exact Quiet.of_goesOn (by simp)

theorem State.RingWith.reply {s : State} (h : s.RingWith []) (q : Request) (payload : List Byte) :
    (s.reply q payload).RingWith [] :=
  h.of_eq (by simp) (by simp)

theorem State.RingWith.controlReply {s : State} (h : s.RingWith []) {v : Except RefusalCode State}
    (hv : ∀ t, v = .ok t → t.RingWith []) (q : Request) (action : Byte) : (s.controlReply q action v).RingWith [] := by
  cases v with
  | error c => exact h.reply q _
  | ok t => exact (hv t rfl).reply q _

theorem execServePost_ring {s t : State} (hs : s.RingWith []) (hservice : s.ServiceConsistent)
    (h : execServePost s = .next t) : t.RingWith [] := by
  unfold execServePost at h
  split at h
  · cases h; exact hs
  · rename_i q hq
    have hquiet := hs.quiet_of_checking hservice (Bench.checking_of_filter hq)
    split at h <;> cases h
    · exact hs.reply _ _
    · rename_i hadmitted
      refine State.RingWith.reply (hs.postTo hquiet ?_) _ _
      simp only [postRefusal] at hadmitted
      split_ifs at hadmitted with hlength hrange hfree
      omega

theorem State.RingWith.waitForPort {s : State} (h : s.RingWith []) (howner : s.port.owner = .engine) :
    s.waitForPort.RingWith [] :=
  h.congr rfl rfl rfl rfl rfl rfl (fun hb => by simp [howner] at hb)

/-- Every command keeps the ring in order. -/
theorem exec_ring {i : Instr} {s t : State} (hs : s.RingWith []) (hservice : s.ServiceConsistent) (hw : s.WaitsAtReady)
    (h : exec i s = .next t) : t.RingWith [] := by
  cases hd : dispatchesRecord i with
  | true => exact exec_ring_of_dispatchesRecord hs h hd
  | false =>
    cases hl : leavesEngine i with
    | true => exact (exec_standsOrHalts h hl).ring hs
    | false =>
      cases i with
      | reset slot rate =>
        cases h
        exact (State.ringInOrder_iff _).mp State.reset_ringInOrder
      | zeroCaptureEnd => exact execZeroCaptureEnd_ring hs h
      | railcheckAverageEnd => exact execRailcheckAverageEnd_ring hs hw h
      | settleEnd => exact execSettleEnd_ring hs hw h
      | holdOffRelease => exact execHoldOffRelease_ring hs hw h
      | qualifierEdge => exact execQualifierEdge_ring hs hw h
      | recoverExpiry => exact execRecoverExpiry_ring hs hw h
      | servePost => exact execServePost_ring hs hservice h
      | strobeTimerExpiry =>
        simp only [exec, execStrobeTimerExpiry] at h
        split at h
        · cases h; exact hs
        · split at h <;> cases h
          · exact hs.strobeTimedOut _ _
          · exact hs
      | waitExpiry =>
        simp only [exec, execWaitExpiry] at h
        split at h <;> cases h
        · rename_i hdue
          obtain ⟨⟨-, hphase⟩, -⟩ := (s.timerDue_iff _).mp hdue
          exact hs.complete _ trivial (hw.quiet (by simp [hphase]))
        · exact hs
      | rampExpiry =>
        simp only [exec, execRampExpiry] at h
        split at h
        · cases h; exact hs
        · split at h <;> cases h
          · exact hs.rampEnded fun hphase => hw.quiet (by simp [hphase])
          · exact hs
      | claimJudgement =>
        simp only [exec, execClaimJudgement] at h
        split at h
        · split at h
          · split at h <;> cases h
            · exact hs.claimGranted fun hphase => hw.quiet (by simp [hphase])
            · exact s.claimRefused_standsOrHalts.ring hs
          · cases h; exact hs
        · cases h; exact hs
      | coincidenceJudgement =>
        simp only [exec, execCoincidenceJudgement] at h
        split at h
        · cases h; exact hs
        · split at h <;> cases h
          · exact State.RingWith.dispatchClass (by exact hs.of_eq rfl rfl)
              (by exact fun hphase => hw.quiet (ne_of_eq_of_ne hphase (by simp))) _ _
          · exact hs
      | serveLoad =>
        rcases execServeLoad_or_peek_cases (.inl rfl) h with rfl | ⟨hchecking, ⟨q, c, rfl⟩ | ⟨rfl, -⟩⟩
        · exact hs
        · exact hs.reply _ _
        · exact hs.waitForPort (hservice.owner (by simp [hchecking]))
      | servePeek =>
        rcases execServeLoad_or_peek_cases (.inr rfl) h with rfl | ⟨hchecking, ⟨q, c, rfl⟩ | ⟨rfl, -⟩⟩
        · exact hs
        · exact hs.reply _ _
        · exact hs.waitForPort (hservice.owner (by simp [hchecking]))
      | benchAccessGrant =>
        rcases execBenchAccessGrant_cases h with rfl | ⟨q, m, payload, -, -, -, -, rfl⟩
        · exact hs
        · exact State.RingWith.returnPort (State.RingWith.reply (by exact hs.of_eq rfl rfl) _ _)
      | serveStart =>
        simp only [exec, execServeStart] at h
        split at h <;> cases h
        · exact hs
        · rename_i hq
          exact hs.controlReply (fun u => hs.startVerdict (hs.quiet_of_checking hservice (Bench.checking_of_filter hq))) _ _
      | servePause =>
        simp only [exec, execServePause] at h
        split at h <;> cases h
        · exact hs
        · rename_i hq
          exact hs.controlReply (fun u => hs.pauseVerdict (hs.quiet_of_checking hservice (Bench.checking_of_filter hq))) _ _
      | serveResume =>
        simp only [exec, execServeResume] at h
        split at h <;> cases h
        · exact hs
        · rename_i hq
          exact hs.controlReply (fun u => hs.resumeVerdict (hs.quiet_of_checking hservice (Bench.checking_of_filter hq))) _ _
      | serveAbort =>
        simp only [exec, execServeAbort] at h
        split at h <;> cases h
        · exact hs
        · exact hs.controlReply (fun u => hs.abortVerdict) _ _
      | serveClear =>
        simp only [exec, execServeClear] at h
        split at h <;> cases h
        · exact hs
        · rename_i hq
          exact hs.controlReply (fun u => hs.clearVerdict (hs.quiet_of_checking hservice (Bench.checking_of_filter hq))) _ _
      | serveRing =>
        simp only [exec, execServeRing] at h
        split at h <;> cases h
        · exact hs
        · rename_i hq
          exact hs.controlReply (fun u => hs.ringVerdict (hs.quiet_of_checking hservice (Bench.checking_of_filter hq))) _ _
      | stepRepeat | stepLanes | stepDrive | stepSample | stepField | stepLimits | stepRailcheck | stepGuard | stepScale
      | stepPower | stepWait | stepMark | stepStop | unknownStepKind => cases hd
      | _ => cases hl

/-- Settles O9: every command keeps the ring in order, so every step does. -/
theorem stepKeepsTheRingInOrder : Obligations.StepKeepsTheRingInOrder := by
  intro s t hservice hpower hring h
  obtain ⟨-, -, -, -, -, -, -, hw, -⟩ := hpower
  unfold step at h
  split at h
  · cases h; exact hring
  · rename_i cs _
    exact (State.ringInOrder_iff t).mpr
      (exec_ring (s := { s with pending := cs }) (((State.ringInOrder_iff s).mp hring).of_eq rfl rfl) hservice hw h)

end Sys2Proof.Machine
end

section
/-! PROOFS of the family "step ring and step memory", 9: the records that wait, time out and complete (O26, O30, O31, O34,
O38, O42). -/

namespace Sys2Proof.Machine

/-! ### The phases of a record, in full -/

theorem State.startSample_eq (s : State) : s.startSample = { s with
    eng := { s.eng with phase := .settle, timer := none }, port := { s.port with owner := ownerReleased s },
    probe := { s.probe with strobe := some { stage := .settle, start := s.clock, levels := 0 } } } := by
  rw [State.startSample, State.enterPhase_eq]
  rfl

theorem State.startAverage_eq (s : State) (o : RailcheckOp) : s.startAverage o = { s with
    eng := { s.eng with phase := .average, timer := none }, port := { s.port with owner := ownerReleased s },
    rail := { s.rail with average := some { channel := o.channel, count := o.count, sum := 0, rounds := 0 } } } := by
  rw [State.startAverage, State.enterPhase_eq]
  rfl

/-! ### Dispatch of MARK, WAIT, SAMPLE and RAILCHECK -/

/-- Settles O26: the dispatch of the record's kind, and the completion or the phase in full. -/
theorem markWaitSampleAndRailcheckAreDispatched : Obligations.MarkWaitSampleAndRailcheckAreDispatched := by
  refine ⟨fun s r hr hm hp => ?_, fun s r hr => ?_⟩
  · have hcompletes : Completes s (s.complete .done .advance) r .done :=
      State.complete_completes .done hm hr.2.2.2 hr.1 hp
    refine ⟨fun hk => ⟨_, ?_, hcompletes⟩, fun hk hzero => ⟨_, ?_, hcompletes⟩⟩
    · simp only [exec, execStepMark, hr.awaitingKind hk]
    · have hwait : waitOp r = 0 := by simp [waitOp, hzero]
      simp only [exec, execStepWait, hr.awaitingKind hk, hwait, if_true]
  · refine ⟨fun hk hne => ?_, fun hk => ?_, fun hk => ?_⟩
    · have hwait : waitOp r ≠ 0 := fun h => hne (BitVec.eq_of_toNat_eq h)
      simp only [exec, execStepWait, hr.awaitingKind hk, hwait, if_false, State.enterPhase_eq]
      rfl
    · simp only [exec, execStepSample, hr.awaitingKind hk, State.startSample_eq]
    · simp only [exec, execStepRailcheck, hr.awaitingKind hk, State.startAverage_eq]
      rfl

/-! ### The dispatch of a POWER does not look at the phase -/

/-- The engine in another phase. -/
def State.atPhase (s : State) (p : StepPhase) : State := { s with eng := { s.eng with phase := p } }

theorem State.complete_atPhase {s : State} (hcopy : s.eng.copy ≠ none) (p : StepPhase) (o : StepOutcome) (a : AfterStep) :
    (s.atPhase p).complete o a = s.complete o a := by
  obtain ⟨r, hr⟩ := Option.ne_none_iff_exists'.mp hcopy
  simp only [State.complete, State.atPhase, hr]

theorem State.completePassed_atPhase {s : State} (hcopy : s.eng.copy ≠ none) (p : StepPhase) (o : StepOutcome) :
    (s.atPhase p).completePassed o = s.completePassed o :=
  State.complete_atPhase hcopy p _ _

theorem State.refuseRecord_atPhase {s : State} (hcopy : s.eng.copy ≠ none) (p : StepPhase) :
    (s.atPhase p).refuseRecord = s.refuseRecord := by
  obtain ⟨r, hr⟩ := Option.ne_none_iff_exists'.mp hcopy
  simp only [State.refuseRecord, State.atPhase, hr, State.haltJob_eq, State.writeBack]
  split
  · split <;> rfl
  · rfl

theorem State.startSetClaim_atPhase (s : State) (p : StepPhase) (start : PowerState) (o : PowerOp) :
    (s.atPhase p).startSetClaim start o = s.startSetClaim start o := rfl

theorem State.release_atPhase (s : State) (p : StepPhase) (d : Draw) : (s.atPhase p).release d = (s.release d).atPhase p := by
  unfold State.release State.atPhase
  dsimp only
  split <;> rfl

theorem State.lowerDraw_atPhase (s : State) (p : StepPhase) (d : Draw) :
    (s.atPhase p).lowerDraw d = (s.lowerDraw d).atPhase p := by
  rw [State.lowerDraw, State.release_atPhase]
  rfl

theorem State.setDraw_atPhase {s : State} (hcopy : s.eng.copy ≠ none) (p : StepPhase) (o : PowerOp) :
    (s.atPhase p).setDraw o = s.setDraw o := by
  have hlower : ((s.atPhase p).lowerDraw o.declared).completePassed .done = (s.lowerDraw o.declared).completePassed .done := by
    rw [State.lowerDraw_atPhase, State.completePassed_atPhase (by simpa using hcopy)]
  unfold State.setDraw
  rw [State.completePassed_atPhase hcopy, hlower, State.startSetClaim_atPhase]
  rfl

theorem State.downward_atPhase {s : State} (hcopy : s.eng.copy ≠ none) (p : StepPhase) (o : PowerOp) :
    (s.atPhase p).downward o = s.downward o := by
  have hopen : ∀ u : State, u.eng.copy ≠ none → ((u.atPhase p).lowerDraw o.declared).completePassed .done =
      (u.lowerDraw o.declared).completePassed .done := fun u hu => by
    rw [State.lowerDraw_atPhase, State.completePassed_atPhase (by simpa using hu)]
  unfold State.downward
  dsimp only
  have hcopy' : ({ s with power := { s.power with main := false, state := .standby } } : State).eng.copy ≠ none := hcopy
  have h1 := hopen _ hcopy'
  have h2 := State.completePassed_atPhase hcopy' p .done
  have h3 := State.startSetClaim_atPhase { s with power := { s.power with main := false, state := .standby } } p s.power.state o
  exact ite_congr rfl (fun _ => h1) fun _ => ite_congr rfl (fun _ => h2) fun _ => h3

theorem State.powerDown_atPhase (s : State) (p : StepPhase) (target : PowerState) :
    (s.atPhase p).powerDown target = (s.powerDown target).atPhase p := by
  rw [State.powerDown_eq, State.powerDown_eq]
  rfl

theorem State.startUpward_atPhase (s : State) (p : StepPhase) (o : PowerOp) :
    (s.atPhase p).startUpward o = s.startUpward o := rfl

/-- R106: the trip limits that a powered target brings. -/
def State.limited (s : State) (o : PowerOp) : State :=
  if o.target = .off then s
  else { s with power := { s.power with mainTrip := o.mainTrip, standbyTrip := o.standbyTrip } }

theorem State.limited_atPhase (s : State) (p : StepPhase) (o : PowerOp) :
    (s.atPhase p).limited o = (s.limited o).atPhase p := by
  unfold State.limited
  split <;> rfl

@[simp] theorem State.limited_eng (s : State) (o : PowerOp) : (s.limited o).eng = s.eng := by
  unfold State.limited
  split <;> rfl

/-- The table of R106: what an admitted POWER does in each power state that can stand at its dispatch. -/
theorem State.runPower_eq (s : State) (o : PowerOp) : s.runPower o =
    match s.power.state, o.target with
    | .off, .off => some ((s.limited o).completePassed .done)
    | .standby, .off | .on, .off => some (((s.limited o).powerDown .off).completePassed .done)
    | .off, .standby | .off, .on | .standby, .on => some ((s.limited o).startUpward o)
    | .standby, .standby | .on, .on => some ((s.limited o).setDraw o)
    | .on, .standby => some ((s.limited o).downward o)
    | _, _ => none := by
  unfold State.runPower State.limited
  cases s.power.state <;> cases o.target <;> rfl

theorem State.runPower_atPhase {s : State} (hcopy : s.eng.copy ≠ none) (p : StepPhase) (o : PowerOp) :
    (s.atPhase p).runPower o = s.runPower o := by
  have hcopy : (s.limited o).eng.copy ≠ none := by simpa using hcopy
  rw [State.runPower_eq, State.runPower_eq, State.limited_atPhase, State.completePassed_atPhase hcopy,
    State.powerDown_atPhase, State.completePassed_atPhase (by simpa using hcopy), State.startUpward_atPhase,
    State.setDraw_atPhase hcopy, State.downward_atPhase hcopy]
  rfl

theorem State.dispatchPower_atPhase {s : State} (hcopy : s.eng.copy ≠ none) (p : StepPhase) (r : Record) :
    (s.atPhase p).dispatchPower r = s.dispatchPower r := by
  unfold State.dispatchPower
  rw [State.refuseRecord_atPhase hcopy, State.runPower_atPhase hcopy]

/-! ### WAIT and RECOVER -/

theorem Timer.due_of_span {k : Timer} {now : Time} (h : k.span ≤ (now - k.start).toNat) : k.due now = true := by
  simpa [Timer.due] using h

/-- A timer that has run out in its phase. -/
theorem State.InPhase.timerDue {s : State} {p : StepPhase} {r : Record} (hr : s.InPhase p r) {k : Timer}
    (hk : s.eng.timer = some k) (hdue : k.due s.clock = true) : s.timerDue p = true :=
  (s.timerDue_iff p).mpr ⟨⟨hr.1, hr.2.1⟩, k, hk, hdue⟩

/-- R44: the next attempt of the record in flight, whose delay has passed. -/
def State.retried (s : State) : State := { s with eng := { s.eng with attempt := s.eng.attempt + 1, timer := none } }

/-- A RECOVER that has passed runs the copy by its kind (R44). -/
theorem execRecoverExpiry_of_due {s : State} {r : Record} (hr : s.eng.copy = some r) (hdue : s.timerDue .recover = true) :
    (kindOf r = 3 → execRecoverExpiry s = .next s.retried.startSample) ∧
    (kindOf r = 6 → execRecoverExpiry s = .next (s.retried.startAverage (railcheckOp r))) ∧
    (kindOf r = 9 → execRecoverExpiry s = (s.retried.dispatchPower r).elim (.fault .powerStateAtDispatch) .next) := by
  unfold execRecoverExpiry
  rw [if_pos hdue]
  dsimp only
  split
  · rename_i hnone
    cases hnone.symm.trans hr
  · rename_i r' hr'
    cases hr'.symm.trans hr
    refine ⟨fun hk => by rw [if_pos hk]; rfl, fun hk => by rw [if_neg (by omega), if_pos hk]; rfl,
      fun hk => ?_⟩
    rw [if_neg (by omega), if_neg (by omega), if_pos hk]
    unfold State.retried
    split
    · rename_i u hu
      rw [hu]
      rfl
    · rename_i hu
      rw [hu]
      rfl

/-- Settles O30: a WAIT completes; a RECOVER runs its copy as the dispatch of its kind does, whose phase it overwrites. -/
theorem waitAndRecoverTimersRunOut : Obligations.WaitAndRecoverTimersRunOut := by
  intro s r k hk hspan
  have hdue := Timer.due_of_span hspan
  refine ⟨fun hr => ?_, fun hr hkind => ?_, fun hr hwaits => ?_⟩
  · have hcommand : exec .waitExpiry s = .next (s.complete .done .advance) := by
      simp only [exec, execWaitExpiry, hr.timerDue hk hdue, if_true]
    rw [hcommand]
    exact State.complete_endsRecord .done hr.2.2 hr.1
  · obtain ⟨hsample, -, -⟩ := execRecoverExpiry_of_due hr.2.2 (hr.timerDue hk hdue)
    exact (hsample hkind).trans (by rw [State.startSample_eq]; rfl)
  · intro again
    obtain ⟨hsample, hrailcheck, hpower⟩ := execRecoverExpiry_of_due hr.2.2 (hr.timerDue hk hdue)
    have hawaits : again.AwaitsDispatch r := ⟨hr.1, rfl, hwaits, hr.2.2⟩
    refine ⟨fun hkind => ?_, fun hkind => ?_, fun hkind => ?_⟩
    · simp only [exec, hsample hkind, execStepSample, hawaits.awaitingKind hkind, State.startSample_eq]
      exact ⟨rfl, _, rfl, rfl, rfl, hr.2.2⟩
    · simp only [exec, hrailcheck hkind, execStepRailcheck, hawaits.awaitingKind hkind, State.startAverage_eq]
      exact ⟨rfl, _, rfl, rfl, rfl, hr.2.2⟩
    · have hsame : again.dispatchPower r = s.retried.dispatchPower r :=
        State.dispatchPower_atPhase (s := s.retried) (by simp [State.retried, hr.2.2]) .ready r
      simp only [exec, hpower hkind, execStepPower, hawaits.awaitingKind hkind, hsame]
      cases s.retried.dispatchPower r <;> rfl

end Sys2Proof.Machine
end

section
/-! PROOFS of the family "step ring and step memory", 10: POWER records that complete, RAILCHECK averages and judgements
(O31, O34, O38, O42). -/

namespace Sys2Proof.Machine

/-! ### Releases of draw -/

/-- A release in full (R131). -/
theorem State.release_eq (s : State) (total : Draw) : s.release total = releasedTo s total := by
  unfold State.release releasedTo
  split <;> rfl

theorem releasedTo_withPower (s : State) (p : Power) (total : Draw) :
    releasedTo { s with power := p } total = { releasedTo s total with power := p } := by
  unfold releasedTo
  split <;> rfl

theorem releasedTo_power (s : State) (total : Draw) : (releasedTo s total).power = s.power := by
  unfold releasedTo
  split <;> rfl

theorem releasedTo_eng (s : State) (total : Draw) : (releasedTo s total).eng = s.eng := by
  unfold releasedTo
  split <;> rfl

theorem State.lowerDraw_eq (s : State) (p : Power) (d : Draw) :
    ({ s with power := p } : State).lowerDraw d = { releasedTo s d with power := { p with declared := d } } := by
  rw [State.lowerDraw, State.release_eq, releasedTo_withPower]

/-- A board without a move goes down to OFF by its release alone (R112, R114). -/
theorem State.powerDown_of_noMove {s : State} (h : s.power.move = none) (target : PowerState) :
    s.powerDown target =
      { releasedTo { s with power := { s.power with standby := false, main := false } } 0 with
        power := { s.power with standby := false, main := false, state := target, declared := 0 } } := by
  have hend : s.openSwitches.endMove = s.openSwitches := by
    unfold State.endMove
    split
    · rfl
    · rename_i hm
      cases h.symm.trans hm
  rw [State.powerDown, hend, State.release_eq]
  dsimp only
  rw [releasedTo_power]
  rfl

/-! ### POWER records that complete at dispatch -/

/-- A POWER dispatched goes by the table of R106. -/
theorem State.AwaitsDispatch.stepPower {s : State} {r : Record} (hr : s.AwaitsDispatch r) (hk : kindOf r = 9) {u : State}
    (hu : s.dispatchPower r = some u) : exec .stepPower s = .next u := by
  simp only [exec, execStepPower, hr.awaitingKind hk, hu]

/-- A POWER whose move leaves `u` and completes there. -/
theorem State.AwaitsDispatch.stepPower_endsRecord {s u : State} {r : Record} (hr : s.AwaitsDispatch r) (hk : kindOf r = 9)
    (heng : u.eng = s.eng) (hu : s.dispatchPower r = some (u.completePassed .done)) :
    EndsRecord (exec .stepPower s) u r (outcomeAt s.eng.attempt .done) := by
  rw [hr.stepPower hk hu, ← heng]
  exact State.complete_endsRecord _ (by rw [heng]; exact hr.2.2.2) (by rw [heng]; exact hr.1)

theorem powerOp_target_off {r : Record} (h1 : byteOf r 2 ≠ 1) (h2 : byteOf r 2 ≠ 2) : (powerOp r).target = .off :=
  (if_neg h1).trans (if_neg h2)

theorem powerOp_target_standby {r : Record} (h : byteOf r 2 = 1) : (powerOp r).target = .standby :=
  if_pos h

theorem powerOp_target_on {r : Record} (h : byteOf r 2 = 2) : (powerOp r).target = .on := by
  have h1 : byteOf r 2 ≠ 1 := by rw [h]; decide
  exact (if_neg h1).trans (if_pos h)

theorem State.dispatchPower_of_off {s : State} {r : Record} (h : (powerOp r).target = .off) :
    s.dispatchPower r = s.runPower (powerOp r) := by
  simp [State.dispatchPower, powerRefused, h]

theorem State.dispatchPower_of_draw {s : State} {r : Record} (h : halfOf r 4 ≠ 0) :
    s.dispatchPower r = s.runPower (powerOp r) := by
  have hadmitted : ¬ powerRefused (powerOp r) = true := fun hrefused => h (of_decide_eq_true hrefused).2
  exact if_neg hadmitted

/-- Settles O31: the row of R106's table that the record takes, and its completion. -/
theorem powerRecordsThatCompleteAtOnce : Obligations.PowerRecordsThatCompleteAtOnce := by
  intro s r hr hk hmove d limit limited off ends
  have hlimited : ∀ o : PowerOp, o = powerOp r → o.target ≠ .off → s.limited o = { s with power := limited } := by
    rintro o rfl hne
    rw [State.limited, if_neg hne]
    rfl
  refine ⟨fun h1 h2 => ?_, fun htarget hd => ?_, fun h1 hon hd => ?_⟩
  · have htarget := powerOp_target_off h1 h2
    have hsame : s.limited (powerOp r) = s := by rw [State.limited, if_pos htarget]
    refine ⟨fun hoff => ?_, fun hpowered => ?_⟩
    · refine hr.stepPower_endsRecord hk rfl ?_
      rw [State.dispatchPower_of_off htarget, State.runPower_eq, hoff, htarget, hsame]
    · refine hr.stepPower_endsRecord hk (releasedTo_eng _ _) ?_
      have hdown := State.powerDown_of_noMove hmove .off
      rw [State.dispatchPower_of_off htarget, State.runPower_eq, htarget, hsame, hdown]
      rcases hpowered with hstate | hstate <;> rw [hstate]
  · have hsets : s.dispatchPower r = some (State.setDraw { s with power := limited } (powerOp r)) := by
      rw [State.dispatchPower_of_draw hd, State.runPower_eq]
      rcases htarget with ⟨h1, hstate⟩ | ⟨h2, hstate⟩
      · rw [hlimited _ rfl (by simp [powerOp_target_standby h1]), hstate, powerOp_target_standby h1]
      · rw [hlimited _ rfl (by simp [powerOp_target_on h2]), hstate, powerOp_target_on h2]
    refine ⟨fun heq => ?_, fun hlt => ?_⟩
    · refine hr.stepPower_endsRecord hk rfl ?_
      rw [hsets, State.setDraw]
      exact congrArg some (if_pos heq)
    · refine hr.stepPower_endsRecord hk (releasedTo_eng _ _) ?_
      have hne : d ≠ s.power.declared := fun heq => by simp [heq] at hlt
      have hlower := s.lowerDraw_eq limited d
      rw [hsets, State.setDraw]
      exact congrArg some ((if_neg hne).trans ((if_pos hlt).trans (congrArg (State.completePassed · .done) hlower)))
  · have hdown : s.dispatchPower r = some (State.downward { s with power := limited } (powerOp r)) := by
      rw [State.dispatchPower_of_draw hd, State.runPower_eq]
      rw [hlimited _ rfl (by simp [powerOp_target_standby h1]), hon, powerOp_target_standby h1]
    refine ⟨fun heq => ?_, fun hlt => ?_⟩
    · refine hr.stepPower_endsRecord hk rfl ?_
      have hnlt : ¬ d.toNat < s.draw.held.toNat := by rw [heq]; omega
      rw [hdown, State.downward]
      exact congrArg some ((if_neg hnlt).trans (if_pos heq))
    · refine hr.stepPower_endsRecord hk (releasedTo_eng _ _) ?_
      have hlower := s.lowerDraw_eq { limited with main := false, state := .standby } d
      rw [hdown, State.downward]
      exact congrArg some ((if_pos hlt).trans (congrArg (State.completePassed · .done) hlower))

/-! ### The end of a ramp -/

/-- A record in AWAIT_POWER completes when its move has reached its end (R109, R110). -/
theorem State.powerReached_of_awaiting {u : State} {r : Record} (hr : u.InPhase .awaitPower r) :
    u.powerReached = u.completePassed .done :=
  if_pos ⟨u.inFlight_iff.mpr (by simp [hr.1, hr.2.2]), hr.2.1⟩

/-- Settles O34: the end of the ramp in full, and the completion of the record that waits for it. -/
theorem rampExpiryReachesTheTarget : Obligations.RampExpiryReachesTheTarget := by
  intro s r m k hm hk hspan hr u
  obtain ⟨hjob, hphase, hcopy⟩ := hr
  have heng : u.eng = s.eng := releasedTo_eng _ _
  have hended : s.rampEnded = u.powerReached := by
    unfold State.rampEnded
    split
    · rename_i hnone
      cases hnone.symm.trans hm
    · rename_i m' hm'
      cases hm'.symm.trans hm
      simp only [State.release_eq, releasedTo_withPower]
      rfl
  have hreached : u.powerReached = u.completePassed .done :=
    State.powerReached_of_awaiting (r := r) ⟨by rw [heng]; exact hjob, by rw [heng]; exact hphase, by rw [heng]; exact hcopy⟩
  have hcommand : exec .rampExpiry s = .next (u.completePassed .done) := by
    simp only [exec, execRampExpiry, hk, Timer.due_of_span hspan, if_true, hended, hreached]
  rw [hcommand, ← heng]
  exact State.complete_endsRecord _ (by rw [heng]; exact hcopy) (by rw [heng]; exact hjob)

/-! ### RAILCHECK -/

/-- The mean of R96 is its sum over its count, rounded to the nearest with halves upward. -/
theorem Average.value_bounds {a : Average} (h : 1 ≤ a.count) :
    2 * a.count * a.value ≤ 2 * a.sum + a.count ∧ 2 * a.sum + a.count < 2 * a.count * (a.value + 1) := by
  have hpos : (0 : Int) < 2 * a.count := by omega
  refine ⟨Int.mul_ediv_self_le (by omega), ?_⟩
  rw [mul_comm (2 * (a.count : Int))]
  exact Int.lt_ediv_add_one_mul_self (2 * a.sum + a.count) hpos

/-- Settles O38: the mean against its window, and the completion or the fault. -/
theorem railcheckAverageIsJudged : Obligations.RailcheckAverageIsJudged := by
  intro s r a hr ha hrounds hcount u low high
  obtain ⟨hjob, hphase, hcopy⟩ := hr
  obtain ⟨hlower, hupper⟩ := Average.value_bounds hcount
  have hends : a.rounds = a.count ∧ s.inFlight = true ∧ s.eng.phase = .average :=
    ⟨hrounds, s.inFlight_iff.mpr (by simp [hjob, hcopy]), hphase⟩
  refine ⟨a.value, hlower, hupper, fun hlow hhigh => ?_, fun hout => ?_⟩
  · have hin : ¬ (a.value < low ∨ high < a.value) := by omega
    have hcommand : exec .railcheckAverageEnd s = .next (u.completePassed .pass) := by
      simp only [exec, execRailcheckAverageEnd, ha, hcopy, if_pos hends]
      exact if_neg hin
    rw [hcommand]
    exact State.complete_endsRecord _ hcopy hjob
  · intro info
    have hcommand : exec .railcheckAverageEnd s = .next (u.stepFault info) := by
      simp only [exec, execRailcheckAverageEnd, ha, hcopy, if_pos hends]
      exact if_pos hout
    exact ⟨⟨_, hcommand, u.stepFault_judges info⟩,
      fun hplain => by rw [hcommand, State.stepFault_judging (s := u) hplain hjob hcopy]⟩

/-! ### The judgement of a step fault -/

theorem distinctPeers_eq (s : State) (stamp : Time) :
    distinctPeers s.line.params.coincidence stamp s.faults.notices = peersWithin s stamp := by
  unfold distinctPeers peersWithin withinWindow
  rw [List.countP_eq_length_filter]
  congr 2
  funext x
  congr 1
  funext n
  rw [Bool.decide_and]

theorem FaultRecord.judge_eq (s : State) (r : FaultRecord) :
    r.judge s.line.params.quorum (distinctPeers s.line.params.coincidence r.stamp s.faults.notices) = judgedRecord s r := by
  rw [distinctPeers_eq]
  rfl

theorem judgeOldest_of_provisional (quorum w : Nat) (notices : List Notice) {r : FaultRecord} (hr : r.cls = .provisional)
    {before : List FaultRecord} (hbefore : ∀ f ∈ before, f.cls ≠ .provisional) (after : List FaultRecord) :
    judgeOldest quorum w notices (before ++ r :: after) =
      some (r, before ++ r.judge quorum (distinctPeers w r.stamp notices) :: after) := by
  induction before with
  | nil => simp [judgeOldest, hr]
  | cons f before ih =>
    have hf : f.cls ≠ .provisional := hbefore f (by simp)
    have hrest := ih fun g hg => hbefore g (by simp [hg])
    simp only [List.cons_append, judgeOldest, if_neg hf, hrest, Option.map_some]

/-- The judgement of the oldest PROVISIONAL record (R143): the queue with it judged, and its class dispatched. -/
theorem State.JudgedNow.exec_eq {s : State} {r : FaultRecord} {q : List FaultRecord} (h : s.JudgedNow r q) :
    exec .coincidenceJudgement s =
      .next (({ s with faults := { s.faults with queue := q } } : State).dispatchClass r (judgedRecord s r).cls) := by
  obtain ⟨hr, hreached, before, after, hqueue, hbefore, rfl⟩ := h
  have hjudged := judgeOldest_of_provisional s.line.params.quorum s.line.params.coincidence s.faults.notices hr hbefore after
  simp only [exec, execCoincidenceJudgement, hqueue, hjudged, hreached, if_true, FaultRecord.judge_eq]
  rw [distinctPeers_eq]
  rfl

/-- A judgement changes a record in its place (R143). -/
theorem State.JudgedNow.length_eq {s : State} {r : FaultRecord} {q : List FaultRecord} (h : s.JudgedNow r q) :
    q.length = s.faults.queue.length := by
  obtain ⟨-, -, before, after, hqueue, -, rfl⟩ := h
  simp [hqueue]

/-- The class of a fault that is neither a guard's nor a trip or overdraw goes to the engine (R146). -/
theorem State.dispatchClass_of_step (s : State) {r : FaultRecord} (hsource : r.info.source ≠ .guard)
    (htrip : r.info.kind ≠ .trip) (hoverdraw : r.info.kind ≠ .overdraw) (c : FaultClass) :
    s.dispatchClass r c = s.engineClass r.sequence c := by
  unfold State.dispatchClass
  split
  · exact absurd ‹_› hsource
  · exact absurd ‹_› htrip
  · exact absurd ‹_› hoverdraw
  · rfl

theorem judgedRecord_cls_of_not_board {s : State} {r : FaultRecord} (h : (judgedRecord s r).cls ≠ .board) :
    (judgedRecord s r).cls = .rack := by
  simp only [judgedRecord] at h ⊢
  split at h <;> simp_all

/-- What an engine in JUDGING on the sequence does with each class (R42, R43, R44). -/
theorem State.engineClass_of_judging {s : State} {x : Record} {sequence : BitVec 16} (hr : s.InPhase .judging x)
    (hjudged : s.eng.judged = some sequence) :
    (s.check.field.action = .continue_ → s.engineClass sequence .board = s.complete .fail .advance) ∧
    (s.check.field.action = .halt → s.engineClass sequence .board = s.complete .fail (.halt .faultHalt)) ∧
    (s.check.field.action = .isolate → s.engineClass sequence .board = s.complete .fail .isolate) ∧
    (s.eng.attempt.toNat < s.check.field.retryLimit.toNat → s.engineClass sequence .rack = { s with
      eng := { s.eng with phase := .recover, judged := none,
                          timer := some { start := s.clock, span := s.line.params.settleDelay } },
      port := { s.port with owner := ownerReleased s } }) ∧
    (s.check.field.retryLimit.toNat ≤ s.eng.attempt.toNat →
      s.engineClass sequence .rack = s.complete .rack (.halt .rackUnstable)) := by
  have hjudges : s.eng.job = .running ∧ s.eng.phase = .judging ∧ s.eng.judged = some sequence := ⟨hr.1, hr.2.1, hjudged⟩
  unfold State.engineClass
  simp only [if_pos hjudges]
  refine ⟨fun h => by rw [h], fun h => by rw [h], fun h => by rw [h], fun h => ?_, fun h => if_neg (by omega)⟩
  rw [if_pos h, State.enterPhase_eq]
  rfl

/-- Settles O42: the class dispatched to the engine, and the completion, halt, isolation or retry that it brings. -/
theorem judgementReachesTheJudgingEngine : Obligations.JudgementReachesTheJudgingEngine := by
  intro s r q x hnow hsource htrip hoverdraw u board
  have hcommand : exec .coincidenceJudgement s = .next (u.engineClass r.sequence (judgedRecord s r).cls) := by
    rw [hnow.exec_eq, State.dispatchClass_of_step _ hsource htrip hoverdraw]
  have hboard : board → exec .coincidenceJudgement s = .next (u.engineClass r.sequence .board) := fun h => h ▸ hcommand
  have hrack : ¬ board → exec .coincidenceJudgement s = .next (u.engineClass r.sequence .rack) :=
    fun h => judgedRecord_cls_of_not_board h ▸ hcommand
  refine ⟨fun hnot => ?_, fun hr hjudged hb hmore => ?_, fun hr hjudged hreport howner => ?_, fun hr hjudged hm hp => ?_⟩
  · rw [hcommand]
    exact congrArg _ (if_neg hnot)
  · obtain ⟨-, -, -, hretry, -⟩ := State.engineClass_of_judging (s := u) hr hjudged
    rw [hrack hb, hretry hmore]
    rfl
  · obtain ⟨hcontinue, hhalt, hisolate, -, hunstable⟩ := State.engineClass_of_judging (s := u) hr hjudged
    have hwaits : ∀ o after, u.complete o after = writeBackWaiting u x o after := fun o after =>
      State.complete_waits o after hr.2.2 hreport howner
    refine ⟨fun hb ha => ?_, fun hb ha => ?_, fun hb ha => ?_, fun hb hlast => ?_⟩
    · rw [hboard hb, hcontinue ha, hwaits]
    · rw [hboard hb, hhalt ha, hwaits]
    · rw [hboard hb, hisolate ha, hwaits]
    · rw [hrack hb, hunstable hlast, hwaits]
  · obtain ⟨hcontinue, hhalt, hisolate, -, hunstable⟩ := State.engineClass_of_judging (s := u) hr hjudged
    obtain ⟨hjob, -, hcopy⟩ := hr
    refine ⟨_, hcommand, fun hb ha => ?_, fun hb ha => ?_, fun hb ha hdown => ?_, fun hb ha hoff htripped => ?_,
      fun hb hlast => ?_⟩
    · rw [hb, hcontinue ha]
      exact State.complete_completes .fail hm hcopy hjob hp
    · rw [hb, hhalt ha]
      exact State.complete_halts .fail .faultHalt hm hcopy hjob hp
    · rw [hb, hisolate ha]
      have hunpowered : s.power.state.unpowered = true := by rcases hdown with h | h <;> rw [h] <;> rfl
      obtain ⟨heq, hbytes⟩ := State.complete_isolates (s := u) .fail hm hcopy hjob hp
      rw [if_pos hunpowered] at heq
      refine ⟨⟨by rw [heq], by rw [heq], by rw [heq]⟩, hbytes, by rw [heq]⟩
    · rw [hb, hisolate ha]
      have hpowered : ¬ u.power.state.unpowered = true := by
        have hstate : s.power.state ≠ .off ∧ s.power.state ≠ .tripped := ⟨hoff, htripped⟩
        show ¬ s.power.state.unpowered = true
        cases hs : s.power.state <;> simp_all [PowerState.unpowered]
      obtain ⟨heq, hbytes⟩ := State.complete_isolates (s := u) .fail hm hcopy hjob hp
      have hqueue : u.faults.queue.length = s.faults.queue.length := hnow.length_eq
      rw [if_neg hpowered, hqueue] at heq
      refine ⟨by rw [heq], by rw [heq]; rfl, by rw [heq]; rfl, by rw [heq]; rfl, by rw [heq]; rfl, by rw [heq]; rfl,
        by rw [heq]; rfl, hbytes, ?_⟩
      rw [heq]
      rfl
    · rw [judgedRecord_cls_of_not_board hb, hunstable hlast]
      exact State.complete_halts .rack .rackUnstable hm hcopy hjob hp

end Sys2Proof.Machine
end

section
/-! PROOFS of the family "step ring and step memory", 11: the strobe of a SAMPLE to its end (O35, O37). -/

namespace Sys2Proof.Machine

/-! ### The capture entry -/

/-- R64: a state whose capture entry for the SAMPLE `r` has been stored in `m`, unless NOCAPTURE is set. -/
def State.withEntry (s : State) (r : Record) (m : Memory) : State :=
  { s with
    mem := m,
    probe := { s.probe with
      nextIndex := if noCaptureFlag r then s.probe.nextIndex else s.probe.nextIndex + 1,
      validCount := if noCaptureFlag r then s.probe.validCount else min (s.probe.validCount + 1) 512 } }

/-- Memory after the entry of a strobe is stored. -/
def State.entryMemory (s : State) (r entry : Record) : Memory :=
  if noCaptureFlag r then s.mem
  else Memory.putRecord s.mem (Config.captureBase + 16 * s.probe.nextIndex.toNat) entry

theorem State.entryMemory_wf {s : State} (hm : Memory.wf s.mem) (r entry : Record) : Memory.wf (s.entryMemory r entry) := by
  obtain ⟨-, hroom⟩ := captureSlot_bounds s.probe.nextIndex
  unfold State.entryMemory
  split
  · exact hm
  · exact Memory.putRecord_wf entry hm hroom

theorem State.entryMemory_stored {s : State} (hm : Memory.wf s.mem) (r entry : Record) :
    EntryStored s r entry (s.entryMemory r entry) := by
  obtain ⟨-, hroom⟩ := captureSlot_bounds s.probe.nextIndex
  intro a
  unfold State.entryMemory
  cases hcapture : noCaptureFlag r with
  | true => simp
  | false => simp only [Bool.false_eq_true, if_false, true_and, Memory.read_putRecord entry hm hroom]

theorem State.withEntry_of_capture {s : State} {r : Record} (h : noCaptureFlag r = false) (entry : Record) :
    s.withEntry r (s.entryMemory r entry) = s.writeCapture entry := by
  simp [State.withEntry, State.entryMemory, h, State.writeCapture]

/-- The entry stored, or none under NOCAPTURE, where the port is free for it. -/
theorem State.withEntry_entryMemory (s : State) {r : Record} (hport : noCaptureFlag r = false → s.port.owner ≠ .bench)
    (entry : Record) :
    (if noCaptureFlag r then s else s.storeCapture entry none) = s.withEntry r (s.entryMemory r entry) := by
  cases hcapture : noCaptureFlag r with
  | true => simp [State.withEntry, State.entryMemory, hcapture]
  | false =>
    rw [State.withEntry_of_capture hcapture]
    exact if_neg (hport hcapture)

/-! ### The strobe judged -/

/-- A strobe ended with `levels`, before its entry: READY, and the check context as the field path leaves it (R60, R70). -/
def State.strobeOver (s : State) (r : Record) (levels : Levels) : State :=
  { s with check := if checkFlag r then (fieldPath s.check levels).2 else s.check, eng := { s.eng with phase := .ready },
           probe := { s.probe with strobe := none } }

/-- The field result of a strobe, NONE without CHECK (R60). -/
def State.strobeResult (s : State) (r : Record) (levels : Levels) : FieldResult :=
  if checkFlag r then (fieldPath s.check levels).1 else .none_

/-- A strobe that completes is judged on its captured levels by the context before it (R60, R70, R79). -/
theorem State.strobeComplete_judged {s : State} {r : Record} (hr : s.eng.copy = some r) (levels : Levels)
    (qualifiedTaken : Bool) : ∃ fault,
      s.strobeComplete levels qualifiedTaken =
        (s.strobeOver r levels).strobeJudged r levels qualifiedTaken (s.strobeResult r levels) fault ∧
      (s.strobeResult r levels = .mismatch → fault = mismatchOf s levels) ∧
      (s.strobeResult r levels = .jump → fault = jumpOf s levels) := by
  unfold State.strobeComplete State.strobeResult State.strobeOver
  split
  · rename_i hnone
    cases hnone.symm.trans hr
  · rename_i r' hr'
    cases hr'.symm.trans hr
    dsimp only
    split
    · rename_i hcheck
      refine ⟨_, rfl, fun h => ?_, fun h => ?_⟩
      · rw [h]
        rfl
      · rw [h]
        rfl
    · exact ⟨_, rfl, by simp, by simp⟩

theorem State.strobeJudged_raised (s : State) (r : Record) (levels : Levels) (qualifiedTaken : Bool) {result : FieldResult}
    (h : result = .mismatch ∨ result = .jump) (fault : FaultInfo) :
    s.strobeJudged r levels qualifiedTaken result fault =
      (if noCaptureFlag r then s
        else s.storeCapture (s.strobeEntry levels false qualifiedTaken result) none).stepFault fault := by
  rcases h with rfl | rfl <;> rfl

theorem State.strobeJudged_passed (s : State) (r : Record) (levels : Levels) (qualifiedTaken : Bool) {result : FieldResult}
    (h : result = .none_ ∨ result = .pass) (fault : FaultInfo) :
    s.strobeJudged r levels qualifiedTaken result fault =
      if noCaptureFlag r then s.complete (outcomeAt s.eng.attempt (if checkFlag r then .pass else .done)) .advance
      else if s.port.owner = .bench then
        s.wait (.capture (s.strobeEntry levels false qualifiedTaken result)
          (some (outcomeAt s.eng.attempt (if checkFlag r then .pass else .done))))
      else (s.writeCapture (s.strobeEntry levels false qualifiedTaken result)).complete
        (outcomeAt s.eng.attempt (if checkFlag r then .pass else .done)) .advance := by
  rcases h with rfl | rfl <;> rfl

/-- A strobe that completes with the port free for its entry and its write-back (R60). -/
theorem State.strobeComplete_ends {s : State} {r : Record} (hjob : s.eng.job = .running) (hr : s.eng.copy = some r)
    (levels : Levels) (qualifiedTaken : Bool) (hm : Memory.wf s.mem)
    (hport : reportFlag r = true ∨ noCaptureFlag r = false → s.port.owner ≠ .bench) :
    StrobeEnds s (s.strobeComplete levels qualifiedTaken) r levels qualifiedTaken := by
  obtain ⟨fault, heq, hmismatch, hjump⟩ := State.strobeComplete_judged hr levels qualifiedTaken
  generalize hresult : s.strobeResult r levels = result at heq hmismatch hjump
  have hentry : ∃ entry, entry = (s.strobeOver r levels).strobeEntry levels false qualifiedTaken result := ⟨_, rfl⟩
  obtain ⟨entry, hentry⟩ := hentry
  obtain ⟨u, hu⟩ : ∃ u, u = (s.strobeOver r levels).withEntry r (s.entryMemory r entry) := ⟨_, rfl⟩
  have hstored : (if noCaptureFlag r then s.strobeOver r levels else (s.strobeOver r levels).storeCapture entry none) = u :=
    hu ▸ State.withEntry_entryMemory (s.strobeOver r levels) (fun h => hport (.inr h)) entry
  have huJob : u.eng.job = .running := by rw [hu]; exact hjob
  have huCopy : u.eng.copy = some r := by rw [hu]; exact hr
  have huStrobe : u.probe.strobe = none := by rw [hu]; rfl
  have hends : (result = .none_ ∨ result = .pass → Completes u (s.strobeComplete levels qualifiedTaken) r
        (outcomeAt s.eng.attempt (if checkFlag r then .pass else .done))) ∧
      (result = .mismatch → RaisesFault u (s.strobeComplete levels qualifiedTaken) (mismatchOf s levels)) ∧
      (result = .jump → RaisesFault u (s.strobeComplete levels qualifiedTaken) (jumpOf s levels)) := by
    rw [heq]
    refine ⟨fun hpassed => ?_, fun hraised => ?_, fun hraised => ?_⟩
    · have huMem : Memory.wf u.mem := by rw [hu]; exact State.entryMemory_wf hm r entry
      have huPort : u.PortFreeFor r := by rw [hu]; exact fun h => hport (.inl h)
      have hdone : ∀ o, Completes u (u.complete o .advance) r o := fun o =>
        State.complete_completes o huMem huCopy huJob huPort
      rw [State.strobeJudged_passed _ _ _ _ hpassed, ← hentry]
      cases hcapture : noCaptureFlag r with
      | true =>
        rw [hcapture, if_pos rfl] at hstored
        rw [if_pos rfl, hstored]
        exact hstored ▸ hdone _
      | false =>
        have howner : (s.strobeOver r levels).port.owner ≠ .bench := hport (.inr hcapture)
        rw [hcapture, if_neg (by simp), State.storeCapture, if_neg howner] at hstored
        rw [if_neg (by simp), if_neg howner, hstored]
        exact hdone _
    · rw [State.strobeJudged_raised _ _ _ _ (.inl hraised), ← hentry, hstored, hmismatch hraised]
      exact State.stepFault_raises huStrobe huJob huCopy _
    · rw [State.strobeJudged_raised _ _ _ _ (.inr hraised), ← hentry, hstored, hjump hraised]
      exact State.stepFault_raises huStrobe huJob huCopy _
  subst hresult hentry hu
  exact ⟨_, State.entryMemory_stored hm r _, hends⟩

/-- A strobe that completes while the bench holds the port (R21, R60). -/
theorem State.strobeComplete_waits {s : State} {r : Record} (hjob : s.eng.job = .running) (hr : s.eng.copy = some r)
    (levels : Levels) (qualifiedTaken : Bool) (howner : s.port.owner = .bench) :
    StrobeWaits s (s.strobeComplete levels qualifiedTaken) r levels qualifiedTaken := by
  obtain ⟨fault, heq, hmismatch, hjump⟩ := State.strobeComplete_judged hr levels qualifiedTaken
  generalize hresult : s.strobeResult r levels = result at heq hmismatch hjump
  obtain ⟨u, hu⟩ : ∃ u, u = s.strobeOver r levels := ⟨_, rfl⟩
  obtain ⟨entry, hentry⟩ : ∃ entry, entry = u.strobeEntry levels false qualifiedTaken result := ⟨_, rfl⟩
  have huJob : u.eng.job = .running := by rw [hu]; exact hjob
  have huCopy : u.eng.copy = some r := by rw [hu]; exact hr
  have huStrobe : u.probe.strobe = none := by rw [hu]; rfl
  have huOwner : u.port.owner = .bench := by rw [hu]; exact howner
  have hstore : (if noCaptureFlag r then u else u.storeCapture entry none) =
      if noCaptureFlag r then u else u.wait (.capture entry none) := by
    rw [State.storeCapture, if_pos huOwner]
  have hraises : ∀ fault, RaisesFault (if noCaptureFlag r then u else u.wait (.capture entry none))
      ((if noCaptureFlag r then u else u.wait (.capture entry none)).stepFault fault) fault := by
    intro fault
    cases noCaptureFlag r with
    | true => exact State.stepFault_raises huStrobe huJob huCopy _
    | false => exact State.stepFault_raises (s := u.wait (.capture entry none)) huStrobe huJob huCopy _
  have hwaits : (result = .none_ ∨ result = .pass →
        (noCaptureFlag r = false → s.strobeComplete levels qualifiedTaken = u.wait (.capture entry
          (some (outcomeAt s.eng.attempt (if checkFlag r then .pass else .done))))) ∧
        (noCaptureFlag r = true → reportFlag r = true → s.strobeComplete levels qualifiedTaken =
          writeBackWaiting u r (outcomeAt s.eng.attempt (if checkFlag r then .pass else .done)) .advance)) ∧
      (result = .mismatch → RaisesFault (if noCaptureFlag r then u else u.wait (.capture entry none))
        (s.strobeComplete levels qualifiedTaken) (mismatchOf s levels)) ∧
      (result = .jump → RaisesFault (if noCaptureFlag r then u else u.wait (.capture entry none))
        (s.strobeComplete levels qualifiedTaken) (jumpOf s levels)) := by
    have hattempt : s.eng.attempt = u.eng.attempt := by rw [hu]; rfl
    rw [heq, ← hu, hattempt]
    refine ⟨fun hpassed => ?_, fun hraised => ?_, fun hraised => ?_⟩
    · rw [State.strobeJudged_passed _ _ _ _ hpassed, ← hentry]
      refine ⟨fun hcapture => ?_, fun hcapture hreport => ?_⟩
      · rw [hcapture, if_neg (by simp), if_pos huOwner]
      · rw [if_pos hcapture, State.complete_waits _ _ huCopy hreport huOwner]
    · rw [State.strobeJudged_raised _ _ _ _ (.inl hraised), ← hentry, hstore, hmismatch hraised]
      exact hraises _
    · rw [State.strobeJudged_raised _ _ _ _ (.inr hraised), ← hentry, hstore, hjump hraised]
      exact hraises _
  subst hresult hentry hu
  exact hwaits

/-- A strobe that completes with `levels` (R60). -/
theorem State.strobeComplete_cases {s : State} {r : Record} (hjob : s.eng.job = .running) (hr : s.eng.copy = some r)
    (levels : Levels) (qualifiedTaken : Bool) :
    (Memory.wf s.mem → (reportFlag r = true ∨ noCaptureFlag r = false → s.port.owner ≠ .bench) →
      StrobeEnds s (s.strobeComplete levels qualifiedTaken) r levels qualifiedTaken) ∧
    (s.port.owner = .bench → StrobeWaits s (s.strobeComplete levels qualifiedTaken) r levels qualifiedTaken) :=
  ⟨State.strobeComplete_ends hjob hr levels qualifiedTaken, State.strobeComplete_waits hjob hr levels qualifiedTaken⟩

/-- The completion sets READY, whatever the phase before it. -/
theorem State.strobeComplete_atPhase {s : State} {r : Record} (hr : s.eng.copy = some r) (p : StepPhase) (levels : Levels)
    (qualifiedTaken : Bool) : (s.atPhase p).strobeComplete levels qualifiedTaken = s.strobeComplete levels qualifiedTaken := by
  simp only [State.strobeComplete, State.atPhase, hr]

/-! ### The waits of a SAMPLE -/

theorem State.InPhase.strobeIn {s : State} {p : StepPhase} {r : Record} (hr : s.InPhase p r) {b : Strobe}
    (hb : s.probe.strobe = some b) : s.strobeIn p = some (r, b) := by
  simp [State.strobeIn, hr.1, hr.2.1, hr.2.2, hb]

/-- R54: a line operand is none above 63. -/
theorem holdOffInactive_of_released {r : Record} {sensed : Levels}
    (h : 63 < (byteOf r 7).toNat ∨ sensed.getLsbD (byteOf r 7).toNat = false) :
    holdOffInactive (sampleOp r) sensed = true := by
  unfold holdOffInactive sampleOp lineOperand
  dsimp only
  split
  · rfl
  · rename_i hline
    split at hline <;> cases hline
    rcases h with hnone | hlow
    · omega
    · simp [hlow]

/-- The strobe completes at the end of the hold-off wait when no qualified edge is waited for (R56, R57). -/
theorem State.holdOffEnded_of_immediate (s : State) {r : Record} (start : Time) (points : Levels)
    (h : s.probe.source = 0 ∨ 63 < (byteOf r 5).toNat) :
    s.holdOffEnded (sampleOp r) start points = s.strobeComplete (points ^^^ s.probe.polarity) false := by
  refine if_pos (h.imp_right fun hnone => ?_)
  exact if_neg (by omega)

theorem edgeReached_of_level {r : Record} {sensed : Levels} (hline : (byteOf r 5).toNat ≤ 63)
    (h : sensed.getLsbD (byteOf r 5).toNat = decide (byteOf r 6 ≠ 1)) : edgeReached (sampleOp r) sensed = true := by
  have hqualifier : (sampleOp r).qualifier = some (byteOf r 5).toNat := if_pos hline
  have hfall : (sampleOp r).fall = decide (byteOf r 6 = 1) := rfl
  unfold edgeReached
  rw [hqualifier]
  simp only [h, hfall]
  by_cases hcode : byteOf r 6 = 1 <;> simp [hcode]

/-- R57: at the edge the QUALIFIED lanes take the sensed levels, and the IMMEDIATE lanes keep theirs. -/
theorem State.qualifiedCapture_getLsbD (s : State) (b : Strobe) (points : Levels) {line : Nat} (h : line < 64) :
    (s.qualifiedCapture b points).getLsbD line =
      if s.probe.source.getLsbD (line / 8) then (points ^^^ s.probe.polarity).getLsbD line else b.levels.getLsbD line := by
  rw [State.qualifiedCapture, mergeLines_getLsbD _ _ _ h, qualifiedLines, spread_getLsbD _ h]
  rfl

/-- Settles O35: the end of SETTLE, of the hold-off wait and of the qualifier wait each complete the strobe. -/
theorem strobeCompletesOnItsCapturedLevels : Obligations.StrobeCompletesOnItsCapturedLevels := by
  intro s r b points hb ends sensed holdOff qualifier released immediate
  refine ⟨fun hr helapsed hreleased himmediate => ?_, fun hr hstage hreleased himmediate => ?_,
    fun hr hstage hline hlevel => ?_⟩
  · refine ⟨_, ?_, State.strobeComplete_cases hr.1 hr.2.2 sensed false⟩
    have hstrobe := (s.atPhase .strobe).holdOffEnded_of_immediate s.clock points himmediate
    have hsettled : s.settleEnded (sampleOp r) points = s.strobeComplete sensed false :=
      (if_pos (holdOffInactive_of_released hreleased)).trans (hstrobe.trans (State.strobeComplete_atPhase hr.2.2 _ _ _))
    have hsettle : settleElapsed b.start s.clock (sampleOp r).settle = true := helapsed
    simp only [exec, execSettleEnd, hr.strobeIn hb, hsettle, if_true, hsettled]
  · refine ⟨_, ?_, State.strobeComplete_cases hr.1 hr.2.2 sensed false⟩
    have hends := s.holdOffEnded_of_immediate b.start points himmediate
    have hinactive : b.stage = .holdOff ∧ holdOffInactive (sampleOp r) (sensedLevels s.probe points) = true :=
      ⟨hstage, holdOffInactive_of_released hreleased⟩
    simp only [exec, execHoldOffRelease, hr.strobeIn hb, if_pos hinactive, hends]
    rfl
  · refine ⟨_, s.qualifiedCapture b points, ?_, State.strobeComplete_cases hr.1 hr.2.2 _ true,
      fun line h => s.qualifiedCapture_getLsbD b points h⟩
    have hedge : b.stage = .qualifier ∧ edgeReached (sampleOp r) (sensedLevels s.probe points) = true :=
      ⟨hstage, edgeReached_of_level hline hlevel⟩
    simp only [exec, execQualifierEdge, hr.strobeIn hb, if_pos hedge]

/-! ### The strobe timeout -/

theorem State.timeoutLevels_getLsbD (s : State) (b : Strobe) (points : Levels) {line : Nat} (h : line < 64) :
    (s.timeoutLevels b points).getLsbD line =
      if b.stage = .qualifier ∧ s.probe.source.getLsbD (line / 8) = false then b.levels.getLsbD line
      else (points ^^^ s.probe.polarity).getLsbD line := by
  unfold State.timeoutLevels
  by_cases hstage : b.stage = .qualifier
  · rw [if_pos hstage, State.qualifiedCapture_getLsbD _ _ _ h]
    cases s.probe.source.getLsbD (line / 8) <;> simp [hstage]
  · rw [if_neg hstage, if_neg (fun hand => hstage hand.1)]
    rfl

/-- Settles O37: the entry of the timeout stored or waiting, and STROBE_TIMEOUT raised against the SAMPLE. -/
theorem strobeTimeoutStoresAnEntryAndIsJudged : Obligations.StrobeTimeoutStoresAnEntryAndIsJudged := by
  intro s r b points hr hb hspan info
  obtain ⟨u, hu⟩ : ∃ u : State, u = { s with probe := { s.probe with strobe := none } } := ⟨_, rfl⟩
  obtain ⟨entry, hentry⟩ : ∃ entry, entry = s.strobeEntry (s.timeoutLevels b points) true false .none_ := ⟨_, rfl⟩
  have hinfo : timeoutFault s.check (decide (b.stage = .qualifier)) = info := by
    simp only [timeoutFault, decide_eq_true_eq]
    rfl
  have hdue : ({ start := b.start, span := (sampleOp r).timeout } : Timer).due s.clock = true := Timer.due_of_span hspan
  have hcommand : exec (.strobeTimerExpiry points) s =
      .next ((if noCaptureFlag r then u else u.storeCapture entry none).stepFault info) := by
    have hstrobe := hr.strobeIn hb
    simp only [exec, execStrobeTimerExpiry, hstrobe, hdue, if_true, State.strobeTimedOut]
    split
    · rename_i hnone
      cases hnone.symm.trans hr.2.2
    · rename_i r' hr'
      cases hr'.symm.trans hr.2.2
      rw [hu, hentry, hinfo]
  have huJob : u.eng.job = .running := by rw [hu]; exact hr.1
  have huCopy : u.eng.copy = some r := by rw [hu]; exact hr.2.2
  have huStrobe : u.probe.strobe = none := by rw [hu]
  have hstored : Memory.wf s.mem → (noCaptureFlag r = false → s.port.owner ≠ .bench) →
      EntryStored s r entry (s.entryMemory r entry) ∧
      RaisesFault (u.withEntry r (s.entryMemory r entry))
        ((if noCaptureFlag r then u else u.storeCapture entry none).stepFault info) info := by
    intro hm hport
    have hstore : (if noCaptureFlag r then u else u.storeCapture entry none) = u.withEntry r (s.entryMemory r entry) := by
      rw [u.withEntry_entryMemory (by rw [hu]; exact hport), hu]
      rfl
    rw [hstore]
    exact ⟨State.entryMemory_stored hm r entry,
      State.stepFault_raises (s := u.withEntry r (s.entryMemory r entry)) huStrobe huJob huCopy _⟩
  have hwaits : noCaptureFlag r = false → s.port.owner = .bench → RaisesFault (u.wait (.capture entry none))
      ((if noCaptureFlag r then u else u.storeCapture entry none).stepFault info) info := by
    intro hcapture howner
    have huOwner : u.port.owner = .bench := by rw [hu]; exact howner
    rw [hcapture, if_neg (by simp), State.storeCapture, if_pos huOwner]
    exact State.stepFault_raises (s := u.wait (.capture entry none)) huStrobe huJob huCopy _
  refine ⟨s.timeoutLevels b points, _, hcommand, fun line h => s.timeoutLevels_getLsbD b points h,
    fun hm hport => ⟨s.entryMemory r entry, ?_⟩, fun hcapture howner => ?_⟩
  · obtain ⟨hmemory, hraises⟩ := hstored hm hport
    have hphase : { s.eng with phase := .strobe } = s.eng := by rw [← hr.2.1]
    have hover : u.withEntry r (s.entryMemory r entry) = strobeStored s r (s.entryMemory r entry) s.check .strobe := by
      rw [strobeStored, hphase, hu]
      rfl
    rw [hover] at hraises
    subst hentry
    exact ⟨hmemory, hraises⟩
  · have hraises := hwaits hcapture howner
    subst hu hentry
    exact hraises

end Sys2Proof.Machine
end

section
/-! PROOFS of the family "step ring and step memory", 12: the judgement of the own claim (O49). -/

namespace Sys2Proof.Machine

/-! ### What a halt by a block leaves -/

theorem outcomeByte_of_ne {m : Memory} {index : RingIndex} {r : Record} {o : StepOutcome} {a : Nat}
    (h14 : a ≠ 16 * index.toNat + 14) (h15 : a ≠ 16 * index.toNat + 15) : outcomeByte m index r o a = Memory.read m a := by
  simp [outcomeByte, h14, h15]

/-- The draw, the power, the engine, the line and memory after the halt of a block (R46, R47). -/
theorem HaltsAbandoning.fields {s t : State} {reason : HaltReason} (h : HaltsAbandoning s t reason) :
    t.draw = s.draw ∧ t.power = s.power ∧
    t.eng = (if s.eng.job.active = true then haltedEngine s.eng reason else s.eng) ∧
    t.line = (if s.eng.job.active = true then lineAfterEnd s.line t.eng s.faults.queue.length else s.line) ∧
    (Memory.wf s.mem → ∀ a, a ≠ 16 * s.eng.fetchIndex.toNat + 14 → a ≠ 16 * s.eng.fetchIndex.toNat + 15 →
      Memory.read t.mem a = Memory.read s.mem a) := by
  obtain ⟨hstands, hhalts⟩ := h
  cases hactive : s.eng.job.active with
  | false =>
    cases hstands hactive
    exact ⟨rfl, rfl, rfl, rfl, fun _ _ _ _ => rfl⟩
  | true =>
    obtain ⟨hnone, hflight⟩ := hhalts hactive
    by_cases hc : s.eng.job ≠ .running ∨ s.eng.copy = none
    · rw [hnone hc]
      exact ⟨rfl, rfl, rfl, rfl, fun _ _ _ _ => rfl⟩
    · rw [not_or, not_not] at hc
      obtain ⟨r, hr⟩ := Option.ne_none_iff_exists'.mp hc.2
      obtain ⟨heq, hbytes⟩ := hflight r hc.1 hr
      refine ⟨by rw [heq], by rw [heq], by rw [heq]; rfl, by rw [heq]; rfl, fun hm a h14 h15 => ?_⟩
      rw [hbytes hm a, outcomeByte_of_ne h14 h15, ite_self]

/-! ### The judgement -/

/-- R127: a peer's share, whichever of its pending claim's sides is named first. -/
theorem PeerEntry.share_eq (e : PeerEntry) : (match e.pending with
      | some p => if p.beforeMine = true then p.asking.toNat else e.held.toNat
      | none => e.held.toNat) = e.share := by
  unfold PeerEntry.share
  cases e.pending <;> rfl

/-- The own claim judged at the end of its window (R127). -/
theorem execClaimJudgement_of_reached {s : State} {c : OwnClaim} {at' : Time} (hstate : s.draw.claimState = .claiming)
    (hc : s.draw.claim = some c) (hwindow : s.draw.windowTimer = some at') (hreached : reached s.clock at' = true) :
    exec .claimJudgement s =
      .next (if s.draw.claimSum c.asking ≤ s.line.params.budget then s.claimGranted else s.claimRefused) := by
  simp only [exec, execClaimJudgement, hwindow, hc, hstate, hreached, and_self, if_true]
  split <;> rfl

/-- R127: the Draw Unit once the own claim `c` is granted. -/
def DrawUnit.granted (d : DrawUnit) (c : OwnClaim) : DrawUnit :=
  { d with held := c.asking, claim := none, claimState := .none_, windowTimer := none }

/-- A granted claim of an upward move goes on to RAMPING (R108, R109). -/
theorem State.claimGranted_ramps {s : State} {c : OwnClaim} {m : Move} (hc : s.draw.claim = some c)
    (hm : s.power.move = some m) (hstage : m.stage ≠ .setClaim) :
    s.claimGranted = { s with
      draw := s.draw.granted c,
      power := { s.power with
        state := .ramping, standby := true, main := s.power.main || decide (m.target = .on),
        move := some { m with stage := .ramping }, rampTimer := some { start := s.clock, span := m.ramp } } } := by
  unfold State.claimGranted
  simp only [hc, hm, if_neg hstage, State.enterRamping]
  rfl

/-- A granted SET_CLAIM sets the declared draw and goes to the record that waits for it (R110). -/
theorem State.claimGranted_sets {s : State} {c : OwnClaim} {m : Move} (hc : s.draw.claim = some c)
    (hm : s.power.move = some m) (hstage : m.stage = .setClaim) :
    s.claimGranted = ({ s with
      draw := s.draw.granted c, power := { s.power with declared := m.asked, move := none } } : State).powerReached := by
  unfold State.claimGranted
  simp only [hc, hm, if_pos hstage]
  rfl

/-- R108: the draw wait limit of the move that stands. -/
theorem State.limitPassed_iff {s : State} {m : Move} (hm : s.power.move = some m) :
    s.limitPassed ↔ ∃ t0, m.claimOrder = some t0 ∧ m.waitLimit ≠ 0 ∧ 1000 * m.waitLimit.toNat < (s.clock - t0).toNat := by
  unfold State.limitPassed
  rw [hm]
  constructor
  · rintro ⟨m', t0, hm', h⟩
    cases hm'
    exact ⟨t0, h⟩
  · rintro ⟨t0, h⟩
    exact ⟨m, t0, rfl, h⟩

/-- Settles O49: the exact sum against the budget, the grant by its stage, and the refusal in full. -/
theorem claimIsJudgedAgainstTheBudget : Obligations.ClaimIsJudgedAgainstTheBudget := by
  intro s c m at' hstate hc hwindow hreached hm share sum granted withdrawn denied
  have hcommand := execClaimJudgement_of_reached hstate hc hwindow hreached
  have hsum : s.draw.claimSum c.asking = sum := by
    have hshare : share = PeerEntry.share := funext PeerEntry.share_eq
    simp only [sum, hshare]
    rfl
  have hgranted : sum ≤ s.line.params.budget → exec .claimJudgement s = .next s.claimGranted := fun h => by
    rw [hcommand, if_pos (hsum ▸ h)]
  have hrefused : s.line.params.budget < sum → exec .claimJudgement s = .next s.claimRefused := fun h => by
    rw [hcommand, if_neg (by rw [hsum]; omega)]
  obtain ⟨hdeferred, hdenied⟩ := State.claimRefused_refuses hc
  refine ⟨fun h hstage => ?_, fun h hstage r hr => ?_, fun h hnot => ?_, fun h hd => ?_, fun h => ?_⟩
  · rw [hgranted h, State.claimGranted_ramps hc hm hstage]
    rfl
  · have hreachedRecord := State.powerReached_of_awaiting (u := { s with
      draw := granted, power := { s.power with declared := m.asked, move := none } }) hr
    rw [hgranted h, State.claimGranted_sets hc hm hstage]
    exact hreachedRecord ▸ State.complete_endsRecord _ hr.2.2 hr.1
  · rw [hrefused h, hdeferred fun hlimit => hnot ((State.limitPassed_iff hm).mp hlimit)]
    rfl
  · exact ⟨_, hrefused h, (hdenied m hm ((State.limitPassed_iff hm).mpr hd)).fields⟩
  · exact ⟨_, hrefused h, State.claimRefused_refuses hc⟩

end Sys2Proof.Machine
end

section
/-! PROOFS of the family "step ring and step memory", 13: the bench requests admitted and refused (O53, O54). -/

namespace Sys2Proof.Machine

/-! ### The request in service and its answer -/

theorem State.Serves.inService {s : State} {q : Request} {rest : List Request} (h : s.Serves q rest) :
    s.bench.inService = some q := by
  simp [Bench.inService, h.1, h.2]

theorem State.Serves.kindInService {s : State} {q : Request} {rest : List Request} (h : s.Serves q rest) {k : FrameKind}
    (hk : q.kind = k) : s.kindInService k = some q := by
  simp [State.kindInService, h.inService, hk, Option.filter]

theorem State.Serves.controlInService {s : State} {q : Request} {rest : List Request} (h : s.Serves q rest)
    (hk : q.kind = .control) {action : Byte} (ha : q.payload.head? = some action) :
    s.controlInService action = some q := by
  simp [State.controlInService, h.inService, hk, ha, Option.filter]

theorem State.Serves.queryInService {s : State} {q : Request} {rest : List Request} (h : s.Serves q rest)
    (hk : q.kind = .query) {what : Byte} (ha : q.payload.head? = some what) : s.queryInService (some what) = some q := by
  simp [State.queryInService, h.inService, hk, ha, Option.filter]

theorem State.Serves.queryInService_none {s : State} {q : Request} {rest : List Request} (h : s.Serves q rest)
    (hk : q.kind = .query) (h1 : q.payload.head? ≠ some 1) (h2 : q.payload.head? ≠ some 2) :
    s.queryInService none = some q := by
  simp only [State.queryInService, h.inService, Option.filter, hk, decide_true, Bool.true_and]
  exact if_pos (decide_eq_true ⟨h1, h2⟩)

/-- A reply in full (R169, R171). -/
theorem State.reply_answered {u : State} {q : Request} {rest : List Request} (h : u.bench.queue = q :: rest)
    (payload : List Byte) : u.reply q payload = answered u q rest payload := by
  unfold State.reply answered State.endService State.hand
  cases q.toAll <;> simp [h]

theorem State.Serves.reply {s u : State} {q : Request} {rest : List Request} (h : s.Serves q rest)
    (hbench : u.bench = s.bench) (payload : List Byte) : u.reply q payload = answered u q rest payload :=
  State.reply_answered (by rw [hbench]; exact h.2) payload

/-- A REFUSE carries the kind of its request and the code (R171). -/
theorem State.Serves.refuse {s : State} {q : Request} {rest : List Request} (h : s.Serves q rest) (c : RefusalCode) :
    s.refuse q c = answered s q rest [q.kind.code.setWidth 8, 1, c.code] :=
  h.reply rfl _

theorem State.Serves.deny {s : State} {q : Request} {rest : List Request} (h : s.Serves q rest) (action : Byte)
    (c : RefusalCode) : s.controlReply q action (.error c) = answered s q rest [8, 1, c.code, action] :=
  h.reply rfl _

theorem State.Serves.accept {s u : State} {q : Request} {rest : List Request} (h : s.Serves q rest)
    (hbench : u.bench = s.bench) (action : Byte) :
    s.controlReply q action (.ok u) = answered u q rest [8, 0, action] :=
  h.reply hbench _

/-! ### The checks of a LOAD, a PEEK and a POST -/

/-- R12: a record that bytes `a` to `last` reach is live. -/
theorem Engine.reachesLive_iff (e : Engine) {a last : Nat} (h : a ≤ last) :
    e.reachesLive a last = true ↔ ∃ n, a / 16 ≤ n ∧ n ≤ last / 16 ∧
      (BitVec.ofNat 10 n - e.retain).toNat < (e.postIndex - e.retain).toNat := by
  simp only [Engine.reachesLive, Engine.isLive, Engine.liveCount, List.any_eq_true, List.mem_range]
  constructor
  · rintro ⟨i, hi, hlive⟩
    exact ⟨a / 16 + i, by omega, by omega, of_decide_eq_true hlive⟩
  · rintro ⟨n, hfrom, hto, hlive⟩
    refine ⟨n - a / 16, by omega, ?_⟩
    rw [show a / 16 + (n - a / 16) = n by omega]
    exact decide_eq_true hlive

/-- The checks of a LOAD that carries data, by the last byte it would write (R11). -/
theorem loadRefusal_of_length (e : Engine) {p : List Byte} (h : 3 ≤ p.length) :
    loadRefusal e p =
      if 24575 < leAt 2 p 0 + p.length - 3 then some .range
      else if 16384 ≤ leAt 2 p 0 + p.length - 3 then some .readOnly
      else if e.reachesLive (leAt 2 p 0) (leAt 2 p 0 + p.length - 3) then some .protected_
      else none := by
  have hlast : leAt 2 p 0 + (p.length - 2) - 1 = leAt 2 p 0 + p.length - 3 := by omega
  unfold loadRefusal
  dsimp only
  rw [if_neg (by omega), hlast]
  rfl

theorem loadRefusal_none {e : Engine} {p : List Byte} (h : 3 ≤ p.length) (hlast : leAt 2 p 0 + p.length - 3 < 16384)
    (hclear : ∀ n, leAt 2 p 0 / 16 ≤ n → n ≤ (leAt 2 p 0 + p.length - 3) / 16 →
      ¬ (BitVec.ofNat 10 n - e.retain).toNat < (e.postIndex - e.retain).toNat) : loadRefusal e p = none := by
  have hnot : ¬ e.reachesLive (leAt 2 p 0) (leAt 2 p 0 + p.length - 3) = true := by
    rw [Engine.reachesLive_iff e (by omega)]
    rintro ⟨n, hfrom, hto, hlive⟩
    exact hclear n hfrom hto hlive
  rw [loadRefusal_of_length e h, if_neg (by omega), if_neg (by omega), if_neg hnot]

theorem loadRefusal_protected {e : Engine} {p : List Byte} (h : 3 ≤ p.length)
    (hlast : leAt 2 p 0 + p.length - 3 < 16384) {n : Nat} (hfrom : leAt 2 p 0 / 16 ≤ n)
    (hto : n ≤ (leAt 2 p 0 + p.length - 3) / 16)
    (hlive : (BitVec.ofNat 10 n - e.retain).toNat < (e.postIndex - e.retain).toNat) :
    loadRefusal e p = some .protected_ := by
  have hreaches := (Engine.reachesLive_iff e (a := leAt 2 p 0) (last := leAt 2 p 0 + p.length - 3) (by omega)).mpr
    ⟨n, hfrom, hto, hlive⟩
  rw [loadRefusal_of_length e h, if_neg (by omega), if_neg (by omega), if_pos hreaches]

theorem peekRefusal_none {p : List Byte} (h : p.length = 3) (hsome : 1 ≤ (byteAt p 2).toNat)
    (hmost : (byteAt p 2).toNat ≤ 30) (hlast : leAt 2 p 0 + (byteAt p 2).toNat ≤ 24576) : peekRefusal p = none := by
  unfold peekRefusal
  dsimp only
  rw [if_neg (by omega), if_neg (by omega), if_neg (by omega)]

theorem peekRefusal_badLength {p : List Byte}
    (h : p.length ≠ 3 ∨ (byteAt p 2).toNat = 0 ∨ 30 < (byteAt p 2).toNat) : peekRefusal p = some .badLength := by
  unfold peekRefusal
  dsimp only
  split_ifs with h1 h2 h3
  · rfl
  · rfl
  · omega
  · omega

theorem peekRefusal_range {p : List Byte} (h : p.length = 3) (hsome : (byteAt p 2).toNat ≠ 0)
    (hmost : (byteAt p 2).toNat ≤ 30) (hlast : 24576 < leAt 2 p 0 + (byteAt p 2).toNat) : peekRefusal p = some .range := by
  unfold peekRefusal
  dsimp only
  rw [if_neg (by omega), if_neg (by omega), if_pos (by omega)]

/-! ### Refusals -/

theorem State.Serves.load_refused {s : State} {q : Request} {rest : List Request} (h : s.Serves q rest)
    (hk : q.kind = .load) {c : RefusalCode} (hc : loadRefusal s.eng q.payload = some c) :
    exec .serveLoad s = .next (answered s q rest [5, 1, c.code]) := by
  simp only [exec, execServeLoad, h.kindInService hk, hc, h.refuse, hk]
  rfl

theorem State.Serves.peek_refused {s : State} {q : Request} {rest : List Request} (h : s.Serves q rest)
    (hk : q.kind = .peek) {c : RefusalCode} (hc : peekRefusal q.payload = some c) :
    exec .servePeek s = .next (answered s q rest [7, 1, c.code]) := by
  simp only [exec, execServePeek, h.kindInService hk, hc, h.refuse, hk]
  rfl

theorem State.Serves.post_refused {s : State} {q : Request} {rest : List Request} (h : s.Serves q rest)
    (hk : q.kind = .post) {c : RefusalCode} (hc : postRefusal s.eng q.payload = some c) :
    exec .servePost s = .next (answered s q rest [6, 1, c.code]) := by
  simp only [exec, execServePost, h.kindInService hk, hc, h.refuse, hk]
  rfl

/-- A CONTROL of an action whose verdict is a REFUSE. -/
theorem State.Serves.control_denied {s : State} {q : Request} {rest : List Request} (h : s.Serves q rest)
    (hk : q.kind = .control) (c : RefusalCode) :
    (q.payload.head? = some 1 → s.startVerdict q.payload = .error c →
      exec .serveStart s = .next (answered s q rest [8, 1, c.code, 1])) ∧
    (q.payload.head? = some 2 → s.pauseVerdict q.payload = .error c →
      exec .servePause s = .next (answered s q rest [8, 1, c.code, 2])) ∧
    (q.payload.head? = some 3 → s.resumeVerdict q.payload = .error c →
      exec .serveResume s = .next (answered s q rest [8, 1, c.code, 3])) ∧
    (q.payload.head? = some 4 → s.abortVerdict q.payload = .error c →
      exec .serveAbort s = .next (answered s q rest [8, 1, c.code, 4])) ∧
    (q.payload.head? = some 5 → s.clearVerdict q.payload = .error c →
      exec .serveClear s = .next (answered s q rest [8, 1, c.code, 5])) ∧
    (q.payload.head? = some 6 → s.ringVerdict q.payload = .error c →
      exec .serveRing s = .next (answered s q rest [8, 1, c.code, 6])) := by
  refine ⟨fun ha hv => ?_, fun ha hv => ?_, fun ha hv => ?_, fun ha hv => ?_, fun ha hv => ?_, fun ha hv => ?_⟩
  · simp only [exec, execServeStart, h.controlInService hk ha, hv, h.deny]
  · simp only [exec, execServePause, h.controlInService hk ha, hv, h.deny]
  · simp only [exec, execServeResume, h.controlInService hk ha, hv, h.deny]
  · simp only [exec, execServeAbort, h.controlInService hk ha, hv, h.deny]
  · simp only [exec, execServeClear, h.controlInService hk ha, hv, h.deny]
  · simp only [exec, execServeRing, h.controlInService hk ha, hv, h.deny]

theorem State.pauseVerdict_badState {s : State} {p : List Byte} (hp : p.length = 1)
    (h : s.eng.job = .idle ∨ s.eng.job = .halted ∨ s.eng.job = .ended) : s.pauseVerdict p = .error .badState := by
  unfold State.pauseVerdict
  rw [if_neg (by omega)]
  rcases h with h | h | h <;> rw [h]

theorem State.resumeVerdict_badState {s : State} {p : List Byte} (hp : p.length = 1) (hpaused : s.eng.job ≠ .paused)
    (h : s.eng.job ≠ .running ∨ s.eng.latch = false) : s.resumeVerdict p = .error .badState := by
  unfold State.resumeVerdict
  rw [if_neg (by omega)]
  split
  · exact absurd ‹_› hpaused
  · rename_i hrunning
    have hlatch : s.eng.latch = false := h.resolve_left (not_not.mpr hrunning)
    rw [hlatch]
    rfl
  all_goals rfl

/-- Settles O54: each request's checks in order, and the REFUSE of the first that fails. -/
theorem requestsAreRefusedByTheFirstFailedCheck : Obligations.RequestsAreRefusedByTheFirstFailedCheck := by
  intro s q rest h p a m refused deny
  refine ⟨fun hk => ⟨fun hlength => ?_, fun hlength hlast => ?_, fun hlength hfrom hto => ?_,
      fun hlength hlast n hfrom hto hlive => ?_⟩,
    fun hk => ⟨fun hlength => ?_, fun hlength hsome hmost hlast => ?_⟩,
    fun hk => ⟨fun hlength => ?_, fun hlength hrange => ?_, fun hlength hrange hroom => ?_⟩,
    fun hk => ⟨fun ha hlength => ?_, fun ha hlength => ?_, fun h1 h2 hlength => ?_⟩,
    fun hk hlength => ?_, fun hk hlength => ?_, fun hk => ?_⟩
  · exact h.load_refused hk (if_pos hlength)
  · refine h.load_refused hk (c := .range) ?_
    rw [loadRefusal_of_length s.eng hlength, if_pos hlast]
  · refine h.load_refused hk (c := .readOnly) ?_
    rw [loadRefusal_of_length s.eng hlength, if_neg (by omega), if_pos hfrom]
  · exact h.load_refused hk (loadRefusal_protected hlength hlast hfrom hto hlive)
  · exact h.peek_refused hk (peekRefusal_badLength hlength)
  · exact h.peek_refused hk (peekRefusal_range hlength hsome hmost hlast)
  · exact h.post_refused hk (if_pos hlength)
  · refine h.post_refused hk (c := .range) ?_
    exact (if_neg (not_not.mpr hlength)).trans (if_pos hrange)
  · refine h.post_refused hk (c := .overrun) ?_
    exact (if_neg (not_not.mpr hlength)).trans ((if_neg (Nat.not_lt.mpr hrange)).trans (if_pos hroom))
  · have hlength : ¬ q.payload.length = 1 := hlength
    simp only [exec, execServeQueryStatus, h.queryInService hk ha, if_neg hlength, h.refuse, hk]
    rfl
  · have hlength : ¬ q.payload.length = 1 := hlength
    simp only [exec, execServeQueryReadings, h.queryInService hk ha, if_neg hlength, h.refuse, hk]
    rfl
  · have hlength : ¬ q.payload.length = 1 := hlength
    simp only [exec, execServeQueryUnknown, h.queryInService_none hk h1 h2, if_neg hlength, h.refuse, hk]
    rfl
  · have hlength : ¬ q.payload.length = 1 := hlength
    simp only [exec, execServeFaultRead, h.kindInService hk, if_neg hlength, h.refuse, hk]
    rfl
  · have hlength : ¬ q.payload.length = 1 := hlength
    simp only [exec, execServeFaultTrim, h.kindInService hk, if_neg hlength, h.refuse, hk]
    rfl
  · obtain ⟨hstart, hpause, hresume, habort, hclear, hring⟩ := h.control_denied hk .badLength
    obtain ⟨hstart', -⟩ := h.control_denied hk .notSet
    obtain ⟨hstart'', hpause', hresume', habort', hclear', hring'⟩ := h.control_denied hk .badState
    obtain ⟨-, -, -, -, -, hring''⟩ := h.control_denied hk .range
    have hone : ∀ b : Byte, p = [b] → p.head? = some b ∧ p.length = 1 := fun b hp => by rw [hp]; exact ⟨rfl, rfl⟩
    refine ⟨fun ha hlength => hstart ha (if_pos hlength), fun ha hlength => hpause ha (if_pos hlength),
      fun ha hlength => hresume ha (if_pos hlength), fun ha hlength => habort ha (if_pos hlength),
      fun ha hlength => hclear ha (if_pos hlength), fun hp hset => ?_, fun hp hset hidle => ?_, fun hp hjob => ?_,
      fun hp hpaused hlatch => ?_, fun hp hactive => ?_, fun hp hactive => ?_, fun ha hlength => hring ha (if_pos hlength),
      fun ha hlength hrange => ?_, fun ha hlength hrange hidle => ?_⟩
    · obtain ⟨ha, hlength⟩ := hone 1 hp
      exact hstart' ha ((if_neg (not_not.mpr hlength)).trans (if_pos hset))
    · obtain ⟨ha, hlength⟩ := hone 1 hp
      exact hstart'' ha ((if_neg (not_not.mpr hlength)).trans ((if_neg (by simp [hset])).trans (if_neg hidle)))
    · obtain ⟨ha, hlength⟩ := hone 2 hp
      exact hpause' ha (State.pauseVerdict_badState hlength hjob)
    · obtain ⟨ha, hlength⟩ := hone 3 hp
      exact hresume' ha (State.resumeVerdict_badState hlength hpaused hlatch)
    · obtain ⟨ha, hlength⟩ := hone 4 hp
      exact habort' ha ((if_neg (not_not.mpr hlength)).trans (if_neg (by simp [hactive])))
    · obtain ⟨ha, hlength⟩ := hone 5 hp
      exact hclear' ha ((if_neg (not_not.mpr hlength)).trans (if_pos hactive))
    · exact hring'' ha ((if_neg (not_not.mpr hlength)).trans (if_pos hrange))
    · exact hring' ha ((if_neg (not_not.mpr hlength)).trans ((if_neg (Nat.not_lt.mpr hrange)).trans (if_neg hidle)))

end Sys2Proof.Machine
end

section
/-! PROOFS of the family "step ring and step memory", 14: the bench requests carried out (O53, O57, O58). -/

namespace Sys2Proof.Machine

/-! ### POST and the re-test of a STARVED job -/

theorem postRefusal_none {e : Engine} {p : List Byte} (h : p.length = 2) (hrange : leAt 2 p 0 ≤ 1023)
    (hfree : (BitVec.ofNat 10 (leAt 2 p 0) - e.postIndex).toNat ≤ e.freeCount) : postRefusal e p = none :=
  (if_neg (not_not.mpr h)).trans ((if_neg (Nat.not_lt.mpr hrange)).trans (if_neg (Nat.not_lt.mpr hfree)))

/-- An accepted POST is answered after its effect (R10). -/
theorem State.Serves.post_accepted {s : State} {q : Request} {rest : List Request} (h : s.Serves q rest)
    (hk : q.kind = .post) (hp : postRefusal s.eng q.payload = none) :
    exec .servePost s = .next (answered (s.postTo (BitVec.ofNat 10 (leAt 2 q.payload 0))) q rest [6, 0]) := by
  simp only [exec, execServePost, h.kindInService hk, hp]
  exact congrArg _ (h.reply (by simp) _)

/-- The post index moved (R10). -/
def State.posted (s : State) (index : RingIndex) : State := { s with eng := { s.eng with postIndex := index } }

theorem State.postTo_of_same {s : State} {index : RingIndex} (h : index = s.eng.postIndex) :
    s.postTo index = s.posted index := by
  rw [State.postTo, if_pos h, h]
  rfl

theorem State.postTo_of_ne {s : State} {index : RingIndex} (h : index ≠ s.eng.postIndex) :
    s.postTo index = (s.posted index).retest :=
  if_neg h

theorem State.retest_of_not_starved {s : State} (h : s.eng.job ≠ .starved) : s.retest = s := if_neg h

/-- A job STARVED at F runs and fetches once F is posted (R30). -/
theorem State.retest_fetches {s : State} (hjob : s.eng.job = .starved) (hcopy : s.eng.copy = none)
    (hne : s.eng.fetchIndex ≠ s.eng.postIndex) (howner : s.port.owner = .engine) :
    s.retest = { s with eng := { s.eng with
      job := .running, copy := some (Memory.record s.mem (16 * s.eng.fetchIndex.toNat)) } } := by
  unfold State.retest
  dsimp only
  rw [if_pos hjob]
  split
  · rw [if_neg hne, State.fetchTest_eq, if_neg hne, if_neg (by simp [howner])]
  · rename_i r hr
    cases hcopy.symm.trans hr

/-- A job STARVED on a REPEAT goes on with it once its body is posted (R30, R38). -/
theorem State.retest_repeat {s : State} {r : Record} (hjob : s.eng.job = .starved) (hr : s.eng.copy = some r) :
    s.retest = if s.eng.bodyPosted r then ({ s with eng := { s.eng with job := .running } } : State).runRepeat r else s := by
  unfold State.retest
  dsimp only
  rw [if_pos hjob]
  split
  · rename_i hnone
    cases hnone.symm.trans hr
  · rename_i r' hr'
    cases hr'.symm.trans hr
    rfl

/-- The loop that a REPEAT at F pushes (R39). -/
def State.repeatLoop (u : State) (r : Record) : LoopEntry :=
  { bodyStart := u.eng.fetchIndex + 1, bodyEnd := u.eng.bodyEnd r, remaining := repeatCount r }

theorem State.runRepeat_skips {u : State} {r : Record} (h : repeatCount r = 0) :
    u.runRepeat r = u.complete .done (.skip (u.eng.bodyEnd r)) := by
  rw [State.runRepeat, if_pos h]

theorem State.runRepeat_enters {u : State} {r : Record} (h : repeatCount r ≠ 0) :
    u.runRepeat r = u.complete .done (.enter (u.repeatLoop r)) := by
  rw [State.runRepeat, if_neg h]
  rfl

/-- A REPEAT that proceeds with the port free completes DONE and pushes its loop, or skips past its body (R39). -/
theorem State.runRepeat_goesOn {u : State} {r : Record} (hm : Memory.wf u.mem) (hr : u.eng.copy = some r)
    (hjob : u.eng.job = .running) (hp : u.PortFreeFor r) :
    (u.runRepeat r = { u with eng := (u.runRepeat r).eng, port := (u.runRepeat r).port, line := (u.runRepeat r).line,
                              mem := (u.runRepeat r).mem }) ∧
    (repeatCount r ≠ 0 →
      GoesOn u (u.runRepeat r) r .done (u.repeatLoop r :: u.eng.loops) (u.eng.fetchIndex + 1)) ∧
    (repeatCount r = 0 → GoesOn u (u.runRepeat r) r .done (loopEnd u.eng.loops (u.eng.bodyEnd r)).1
      (loopEnd u.eng.loops (u.eng.bodyEnd r)).2) := by
  by_cases hcount : repeatCount r = 0
  · obtain ⟨hgoes, heq⟩ := State.complete_goesOn .done (.skip (u.eng.bodyEnd r)) hm hr hjob hp (.inr (.inr ⟨_, rfl⟩))
    rw [State.runRepeat_skips hcount]
    exact ⟨heq, fun hne => absurd hcount hne, fun _ => hgoes⟩
  · obtain ⟨hgoes, heq⟩ := State.complete_goesOn .done (.enter (u.repeatLoop r)) hm hr hjob hp (.inr (.inl ⟨_, rfl⟩))
    rw [State.runRepeat_enters hcount]
    exact ⟨heq, fun _ => hgoes, fun hzero => absurd hzero hcount⟩

/-- An admitted LOAD or PEEK asks for the port, which passes at once at a release point (R19, R20). -/
theorem State.waitForPort_eq (s : State) : s.waitForPort = { s with
    bench := { s.bench with service := .waitingPort },
    port := { s.port with owner := if s.eng.job ≠ .running ∨ s.eng.phase ≠ .ready then .bench else .asked } } := by
  unfold State.waitForPort State.askPort State.atReleasePoint
  simp only [Bool.or_eq_true, decide_eq_true_eq]

theorem ringIndex_ne_iff (a b : RingIndex) : a ≠ b ↔ (a - b).toNat ≠ 0 := by
  bv_omega

/-- Settles O53: the checks pass, and the request asks for the port or moves P and re-tests the job. -/
theorem loadPeekAndPostAreAdmitted : Obligations.LoadPeekAndPostAreAdmitted := by
  intro s q rest h p a asks live index moved posted
  refine ⟨fun hk hlength hlast hclear => ?_, fun hk hlength hsome hmost hlast => ?_, fun hk hlength hrange hfree => ?_⟩
  · have hadmitted : loadRefusal s.eng q.payload = none := loadRefusal_none hlength hlast hclear
    simp only [exec, execServeLoad, h.kindInService hk, hadmitted, State.waitForPort_eq, asks]
  · have hadmitted : peekRefusal q.payload = none := peekRefusal_none hlength hsome hmost hlast
    simp only [exec, execServePeek, h.kindInService hk, hadmitted, State.waitForPort_eq, asks]
  · have hcommand : exec .servePost s = .next (answered (s.postTo index) q rest [6, 0]) :=
      h.post_accepted hk (postRefusal_none hlength hrange hfree)
    have hmoves : moved ≠ 0 → s.postTo index = posted.retest := fun hne =>
      State.postTo_of_ne ((ringIndex_ne_iff _ _).mpr hne)
    rw [hcommand]
    refine ⟨fun hstill => ?_, fun hne hjob hcopy hF howner => ?_, fun r hne hjob hr => ⟨fun hshort => ?_,
      fun hwhole howner hm => ?_⟩⟩
    · have hsame : s.postTo index = posted := by
        by_cases hindex : index = s.eng.postIndex
        · exact State.postTo_of_same hindex
        · have hjob := hstill.resolve_left ((ringIndex_ne_iff _ _).mp hindex)
          exact (State.postTo_of_ne hindex).trans (State.retest_of_not_starved hjob)
      rw [hsame]
    · have hposted : posted.eng.fetchIndex ≠ posted.eng.postIndex := by
        show s.eng.fetchIndex ≠ index
        rw [hF]
        exact ((ringIndex_ne_iff _ _).mpr hne).symm
      rw [hmoves hne, State.retest_fetches (s := posted) hjob hcopy hposted howner]
    · have hnot : ¬ posted.eng.bodyPosted r = true := fun hbody => Nat.not_lt.mpr hshort (of_decide_eq_true hbody)
      rw [hmoves hne, State.retest_repeat (s := posted) hjob hr, if_neg hnot]
    · have hbody : posted.eng.bodyPosted r = true := decide_eq_true hwhole
      have hfree : s.PortFreeFor r := fun _ => by simp [howner]
      obtain ⟨heq, henter, hskip⟩ := State.runRepeat_goesOn
        (u := { posted with eng := { posted.eng with job := .running } }) hm hr rfl hfree
      rw [hmoves hne, State.retest_repeat (s := posted) hjob hr, if_pos hbody]
      exact ⟨_, rfl, heq, henter, hskip⟩

/-! ### The job's control -/

/-- The fetch test with the port free (R29). -/
theorem State.fetchTest_of_engine {s : State} (h : s.port.owner = .engine) : s.fetchTest = { s with
    eng := if s.eng.fetchIndex = s.eng.postIndex then { s.eng with job := .starved, latch := false }
      else { s.eng with copy := some (Memory.record s.mem (16 * s.eng.fetchIndex.toNat)) } } := by
  have hreleased : ownerReleased s = s.port.owner := if_neg (by simp [h])
  rw [State.fetchTest_eq, hreleased]
  split
  · rfl
  · rw [if_neg (by simp [h])]

/-- The bytes of a RING's index, low byte first (R183). -/
theorem leAt_two_of_bytes (b0 b1 b2 : Byte) : leAt 2 [b0, b1, b2] 1 = (b2 ++ b1 : BitVec 16).toNat := by
  rw [BitVec.toNat_append, ← Nat.shiftLeft_add_eq_or_of_lt b1.isLt, Nat.shiftLeft_eq]
  simp [leAt, leNat]
  omega

/-- A CONTROL of an action whose verdict is a next state with the bench as it was. -/
theorem State.Serves.control_accepted {s u : State} {q : Request} {rest : List Request} (h : s.Serves q rest)
    (hk : q.kind = .control) (hbench : u.bench = s.bench) :
    (q.payload.head? = some 1 → s.startVerdict q.payload = .ok u →
      exec .serveStart s = .next (answered u q rest [8, 0, 1])) ∧
    (q.payload.head? = some 2 → s.pauseVerdict q.payload = .ok u →
      exec .servePause s = .next (answered u q rest [8, 0, 2])) ∧
    (q.payload.head? = some 3 → s.resumeVerdict q.payload = .ok u →
      exec .serveResume s = .next (answered u q rest [8, 0, 3])) ∧
    (q.payload.head? = some 4 → s.abortVerdict q.payload = .ok u →
      exec .serveAbort s = .next (answered u q rest [8, 0, 4])) ∧
    (q.payload.head? = some 5 → s.clearVerdict q.payload = .ok u →
      exec .serveClear s = .next (answered u q rest [8, 0, 5])) ∧
    (q.payload.head? = some 6 → s.ringVerdict q.payload = .ok u →
      exec .serveRing s = .next (answered u q rest [8, 0, 6])) := by
  refine ⟨fun ha hv => ?_, fun ha hv => ?_, fun ha hv => ?_, fun ha hv => ?_, fun ha hv => ?_, fun ha hv => ?_⟩
  · simp only [exec, execServeStart, h.controlInService hk ha, hv, h.accept hbench]
  · simp only [exec, execServePause, h.controlInService hk ha, hv, h.accept hbench]
  · simp only [exec, execServeResume, h.controlInService hk ha, hv, h.accept hbench]
  · simp only [exec, execServeAbort, h.controlInService hk ha, hv, h.accept hbench]
  · simp only [exec, execServeClear, h.controlInService hk ha, hv, h.accept hbench]
  · simp only [exec, execServeRing, h.controlInService hk ha, hv, h.accept hbench]

/-! The verdicts on START, PAUSE, RESUME and RING in the states they act in (R17, R24 to R26). -/

theorem State.startVerdict_ok {s : State} (hset : s.line.isSet = true) (hjob : s.eng.job = .idle) :
    s.startVerdict [1] = .ok s.start := by
  simp [State.startVerdict, hset, hjob]

theorem State.pauseVerdict_running {s : State} (hjob : s.eng.job = .running) :
    s.pauseVerdict [2] = .ok { s with eng := { s.eng with latch := true } } := by
  simp [State.pauseVerdict, hjob]

theorem State.pauseVerdict_starved {s : State} (hjob : s.eng.job = .starved) :
    s.pauseVerdict [2] = .ok { s with eng := { s.eng with job := .paused, copy := none } } := by
  simp [State.pauseVerdict, hjob]

theorem State.pauseVerdict_paused {s : State} (hjob : s.eng.job = .paused) : s.pauseVerdict [2] = .ok s := by
  simp [State.pauseVerdict, hjob]

theorem State.resumeVerdict_paused {s : State} (hjob : s.eng.job = .paused) :
    s.resumeVerdict [3] =
      .ok ({ s with eng := { s.eng with job := .running, phase := .ready } } : State).fetchTest := by
  simp [State.resumeVerdict, hjob]

theorem State.resumeVerdict_latched {s : State} (hjob : s.eng.job = .running) (hlatch : s.eng.latch = true) :
    s.resumeVerdict [3] = .ok { s with eng := { s.eng with latch := false } } := by
  simp [State.resumeVerdict, hjob, hlatch]

/-- The two ring indices set by RING (R17). -/
def State.ringAt (s : State) (index : RingIndex) : State :=
  { s with eng := { s.eng with fetchIndex := index, postIndex := index } }

theorem State.ringVerdict_ok {s : State} {b1 b2 : Byte} (hrange : (b2 ++ b1 : BitVec 16).toNat ≤ 1023)
    (hjob : s.eng.job = .idle) :
    s.ringVerdict [6, b1, b2] = .ok (s.ringAt ((b2 ++ b1 : BitVec 16).setWidth 10)) := by
  have hform : ¬ [6, b1, b2].length ≠ 3 := by simp
  rw [State.ringVerdict, if_neg hform, leAt_two_of_bytes, if_neg (Nat.not_lt.mpr hrange), if_pos hjob,
    BitVec.ofNat_toNat]
  rfl

/-- Settles O57: each accepted action's state, answered after its effect. -/
theorem startPauseResumeAndRing : Obligations.StartPauseResumeAndRing := by
  intro s q rest h hk howner runs accepts
  have hone : ∀ {b : Byte}, q.payload = [b] → q.payload.head? = some b := fun hp => by rw [hp]; rfl
  refine ⟨fun hp hset hjob => ?_, fun hp hjob => ?_, fun hp hjob => ?_, fun hp hjob => ?_, fun hp hjob => ?_,
    fun hp hjob hlatch => ?_, fun b1 b2 hp hrange hjob => ?_⟩
  · have hstart : s.start = { s with eng := runs { s.eng with
        phase := .ready, attempt := 0, latch := false, haltReason := none, haltIndex := none } } :=
      State.fetchTest_of_engine (s := { s with eng := _ }) howner
    obtain ⟨haccept, -⟩ := h.control_accepted (u := s.start) hk (by rw [hstart])
    rw [haccept (hone hp) (hp ▸ State.startVerdict_ok hset hjob), hstart]
  · obtain ⟨-, haccept, -⟩ := h.control_accepted (u := { s with eng := { s.eng with latch := true } }) hk rfl
    exact haccept (hone hp) (hp ▸ State.pauseVerdict_running hjob)
  · obtain ⟨-, haccept, -⟩ := h.control_accepted (u := { s with eng := { s.eng with job := .paused, copy := none } }) hk rfl
    exact haccept (hone hp) (hp ▸ State.pauseVerdict_starved hjob)
  · obtain ⟨-, haccept, -⟩ := h.control_accepted (u := s) hk rfl
    exact haccept (hone hp) (hp ▸ State.pauseVerdict_paused hjob)
  · have hresume : ({ s with eng := { s.eng with job := .running, phase := .ready } } : State).fetchTest =
        { s with eng := runs { s.eng with phase := .ready } } :=
      State.fetchTest_of_engine (s := { s with eng := _ }) howner
    obtain ⟨-, -, haccept, -⟩ := h.control_accepted
      (u := ({ s with eng := { s.eng with job := .running, phase := .ready } } : State).fetchTest) hk (by rw [hresume])
    rw [haccept (hone hp) (hp ▸ State.resumeVerdict_paused hjob), hresume]
  · obtain ⟨-, -, haccept, -⟩ := h.control_accepted (u := { s with eng := { s.eng with latch := false } }) hk rfl
    exact haccept (hone hp) (hp ▸ State.resumeVerdict_latched hjob hlatch)
  · obtain ⟨-, -, -, -, -, haccept⟩ := h.control_accepted 
      (u := s.ringAt ((b2 ++ b1 : BitVec 16).setWidth 10)) hk rfl
    exact haccept (by rw [hp]; rfl) (hp ▸ State.ringVerdict_ok hrange hjob)

end Sys2Proof.Machine
end

section
/-! PROOFS of the family "step ring and step memory", 15: ABORT and CLEAR (O58). -/

namespace Sys2Proof.Machine

/-! ### What the halt of ABORT leaves -/

/-- The halt of a block leaves the check context, the faults, the channels, the clock and the bench (R46, R47). -/
theorem HaltsAbandoning.unchanged {s t : State} {reason : HaltReason} (h : HaltsAbandoning s t reason) :
    t.check = s.check ∧ t.faults = s.faults ∧ t.rail.channels = s.rail.channels ∧ t.clock = s.clock ∧
    t.bench = s.bench := by
  obtain ⟨hstands, hhalts⟩ := h
  cases hactive : s.eng.job.active with
  | false =>
    cases hstands hactive
    exact ⟨rfl, rfl, rfl, rfl, rfl⟩
  | true =>
    obtain ⟨hnone, hflight⟩ := hhalts hactive
    by_cases hc : s.eng.job ≠ .running ∨ s.eng.copy = none
    · rw [hnone hc]
      exact ⟨rfl, rfl, rfl, rfl, rfl⟩
    · rw [not_or, not_not] at hc
      obtain ⟨r, hr⟩ := Option.ne_none_iff_exists'.mp hc.2
      obtain ⟨heq, -⟩ := hflight r hc.1 hr
      rw [heq]
      exact ⟨rfl, rfl, rfl, rfl, rfl⟩

theorem outcomeByte_of_not_report {m : Memory} {index : RingIndex} {r : Record} {o : StepOutcome} (a : Nat)
    (h : ¬ reportFlag r = true) : outcomeByte m index r o a = Memory.read m a := by
  simp [outcomeByte, h]

/-- A record in flight has ABORTED written back when the port is free for it (R46). -/
theorem HaltsAbandoning.aborted_written {s t : State} {reason : HaltReason} {r : Record} (h : HaltsAbandoning s t reason)
    (hm : Memory.wf s.mem) (hjob : s.eng.job = .running) (hr : s.eng.copy = some r) (hp : s.PortFreeFor r) (a : Nat) :
    Memory.read t.mem a = outcomeByte s.mem s.eng.fetchIndex r .aborted a := by
  have hactive : s.eng.job.active = true := by rw [hjob]; rfl
  obtain ⟨-, hbytes⟩ := (h.2 hactive).2 r hjob hr
  rw [hbytes hm a]
  split
  · rename_i howner
    exact (outcomeByte_of_not_report a fun hreport => hp hreport howner).symm
  · rfl

/-! ### The board taken down -/

theorem PowerState.unpowered_iff (p : PowerState) : p.unpowered = true ↔ p = .off ∨ p = .tripped := by
  cases p <;> simp [PowerState.unpowered]

/-- A board without a move goes down with the DRAW of its release alone (R114). -/
theorem poweredDown_line_of_noMove {s : State} (h : s.power.move = none) (target : PowerState) :
    (poweredDown s target).line = if s.draw.held = 0 then s.line else drawSent s.line 0 := by
  simp [poweredDown, h]

/-- A board with a claim outstanding goes down with the DRAW of the claim before that of the release (R114, R130). -/
theorem poweredDown_of_claiming {s : State} (hmove : s.power.move ≠ none) (hclaim : s.draw.claimState ≠ .none_)
    (target : PowerState) :
    (poweredDown s target).draw = { abandoned s.draw with held := 0 } ∧
    (poweredDown s target).line =
      if s.draw.held = 0 then drawSent s.line 0 else drawSent (drawSent s.line s.draw.held) 0 := by
  have hends : (s.power.move.isSome && decide (s.draw.claimState ≠ .none_)) = true := by
    rw [Option.isSome_iff_ne_none.mpr hmove, decide_eq_true hclaim]
    rfl
  simp only [poweredDown, hends, if_true, true_and]
  by_cases hheld : s.draw.held = 0
  · rw [if_pos hheld, if_pos hheld, hheld]
  · rw [if_neg hheld, if_neg hheld]

theorem poweredDown_table (s : State) (target : PowerState) : (poweredDown s target).draw.table = s.draw.table := by
  unfold poweredDown
  dsimp only
  split <;> rfl

/-! ### CLEAR -/

/-- CLEAR on the eight channels: each to its own gain of R82 (R103). -/
theorem Rail.cleared_channel (r : Rail) (i : Fin 8) :
    r.cleared.channels.get i = (r.channels.get i).cleared
      (if i = 0 then 16384 else if i = 1 then 20480 else if i = 2 then 8192 else 4096) := by
  fin_cases i <;> rfl

theorem FaultRecord.cleared_eq (f : FaultRecord) :
    f.cleared = { f with guardAction := if f.guardAction = none then none else some .log } := by
  unfold FaultRecord.cleared
  cases f.guardAction <;> rfl

/-- CLEAR of a board without a move, in full (R28, R103, R113). -/
theorem State.clear_eq {s : State} (h : s.power.move = none) :
    s.clear = { s with
      line := if s.draw.held = 0 then s.line else drawSent s.line 0,
      eng := s.eng.cleared, check := CheckContext.reset, probe := s.probe.cleared, rail := s.rail.cleared,
      power := { s.power with state := .off, standby := false, main := false, mainTrip := 32767, standbyTrip := 32767,
                              declared := 0 },
      draw := { s.draw with held := 0 },
      faults := { s.faults with queue := s.faults.queue.map FaultRecord.cleared } } := by
  unfold State.clear
  rw [State.powerDown_eq]
  simp [poweredDown, h]

/-- Settles O58: ABORT by the halt of a block behind the power down, CLEAR block by block. -/
theorem abortAndClear : Obligations.AbortAndClear := by
  intro s q rest h hk
  refine ⟨fun hp hactive => ?_, fun hp hactive hmove => ?_⟩
  · have hhalts := State.abort_halts hactive
    have hbench : s.abort.bench = s.bench := by
      rw [hhalts.unchanged.2.2.2.2]
      split <;> rfl
    obtain ⟨-, -, -, haccept, -⟩ := h.control_accepted (u := s.abort) hk hbench
    have hverdict : s.abortVerdict q.payload = .ok s.abort := by
      rw [hp]
      exact if_pos hactive
    refine ⟨s.abort, haccept (by rw [hp]; rfl) hverdict, fun hdown => ?_, fun hoff htripped => ?_, ?_, fun hm r hjob hr hfree => ?_, ?_⟩
    · rw [if_pos ((PowerState.unpowered_iff _).mpr hdown)] at hhalts
      obtain ⟨hdraw, hpower, -⟩ := hhalts.fields
      exact ⟨hhalts, hpower, hdraw⟩
    · have hpowered : ¬ s.power.state.unpowered = true := by
        rw [PowerState.unpowered_iff]
        exact not_or.mpr ⟨hoff, htripped⟩
      rw [if_neg hpowered] at hhalts
      obtain ⟨hdraw, hpower, -, hline, -⟩ := hhalts.fields
      have hline : s.abort.line =
          lineAfterEnd (poweredDown s .off).line s.abort.eng s.faults.queue.length := hline.trans (if_pos hactive)
      rw [hpower, hdraw, poweredDown_table]
      refine ⟨hhalts, rfl, rfl, rfl, rfl, rfl, rfl, rfl, rfl, rfl, fun hmove => ?_, fun hmove hclaim => ?_⟩
      · rw [hline, poweredDown_line_of_noMove hmove]
      · obtain ⟨hgone, hsent⟩ := poweredDown_of_claiming hmove hclaim .off
        rw [hline, hsent, hgone]
        exact ⟨rfl, rfl, rfl, rfl, rfl, rfl⟩
    · obtain ⟨-, -, heng, -⟩ := hhalts.fields
      have hsame : (if s.power.state.unpowered then s else poweredDown s .off).eng = s.eng := by split <;> rfl
      rw [heng, hsame, if_pos hactive]
    · split at hhalts
      · exact hhalts.aborted_written hm hjob hr hfree
      · exact hhalts.aborted_written (s := poweredDown s .off) hm hjob hr hfree
    · have hunchanged := hhalts.unchanged
      split at hunchanged <;> exact hunchanged
  · have hclear := State.clear_eq hmove
    obtain ⟨-, -, -, -, haccept, -⟩ := h.control_accepted (u := s.clear) hk (by rw [hclear])
    have hverdict : s.clearVerdict q.payload = .ok s.clear := by
      rw [hp]
      exact if_neg (Bool.not_eq_true _ ▸ hactive)
    refine ⟨s.clear, haccept (by rw [hp]; rfl) hverdict, ?_⟩
    rw [hclear]
    refine ⟨rfl, rfl, rfl, rfl, rfl, rfl, rfl, rfl, rfl, fun i => s.rail.cleared_channel i, rfl, rfl, rfl, rfl, ?_, rfl⟩
    have hqueue : FaultRecord.cleared = fun f : FaultRecord =>
        { f with guardAction := if f.guardAction = none then none else some .log } := funext FaultRecord.cleared_eq
    exact congrArg (fun c => { s.faults with queue := s.faults.queue.map c }) hqueue

end Sys2Proof.Machine
end

section
/-! PROOFS of the family "step ring and step memory", 16: the grant of the port (O55). -/

namespace Sys2Proof.Machine

/-! ### The port given back -/

/-- R19: the port with the engine, no access waiting for it. -/
def State.portBack (s : State) : State := { s with port := { owner := .engine, waits := [] } }

theorem State.returnPort_nothingWaits {s : State} (h : s.port.waits = []) : s.returnPort = s.portBack := by
  unfold State.returnPort
  rw [h]
  rfl

/-- The ask at the port's return changes the service and the port's owner alone, and takes no port away (R21). -/
theorem AsksNext.keeps {s t : State} (h : AsksNext s t) :
    t = { s with bench := t.bench, port := { s.port with owner := t.port.owner } } ∧
    (s.port.owner ≠ .bench → t.port.owner ≠ .bench) := by
  by_cases hasks : s.bench.service = .checking ∧ ∃ q ∈ s.bench.queue.head?, s.Admits q
  · rw [h.1 hasks]
    exact ⟨rfl, fun _ => by simp⟩
  · rw [h.2 hasks]
    exact ⟨rfl, id⟩

/-- R29: the record at F fetched. -/
def State.fetched (s : State) : State :=
  { s with eng := { s.eng with copy := some (Memory.record s.mem (16 * s.eng.fetchIndex.toNat)) } }

/-- A waiting fetch is made by a job that still runs (R21). -/
theorem State.makeAccess_fetch {s : State} (howner : s.port.owner ≠ .bench) :
    s.makeAccess .fetch = if s.eng.job = .running then s.fetched else s := by
  unfold State.makeAccess State.fetch
  dsimp only
  rw [if_neg howner]
  rfl

/-- The port's return with a fetch that waited (R21). -/
theorem State.returnPort_fetches {s : State} (h : s.port.waits = [.fetch]) :
    AsksNext s.portBack s.portBack.askAtReturn ∧
    s.returnPort = grantedAtRelease
      (if s.eng.job = .running then s.portBack.askAtReturn.fetched else s.portBack.askAtReturn) := by
  have hasks := State.askAtReturn_asks s.portBack
  refine ⟨hasks, ?_⟩
  obtain ⟨hkeeps, howner⟩ := hasks.keeps
  have heng : s.portBack.askAtReturn.eng = s.eng := by rw [hkeeps]; rfl
  have hmade := State.makeAccess_fetch (s := s.portBack.askAtReturn) (howner (by simp [State.portBack]))
  rw [heng] at hmade
  rw [← hmade]
  exact State.returnPort_waits h

/-! ### The bench's access -/

theorem Memory.readBytes_eq_map (m : Memory) (a n : Nat) :
    Memory.readBytes m a n = (List.range n).map fun i => Memory.read m (a + i) := by
  refine List.ext_getElem (by simp) fun k hk _ => ?_
  have hk : k < n := by simpa using hk
  have hbyte := Memory.readBytes_getD m n a k hk
  rw [List.getD_eq_getElem _ _ (by simpa using hk)] at hbyte
  simp [hbyte]

theorem State.grantedAccess_eq {s : State} {q : Request} {rest : List Request} (hservice : s.bench.service = .waitingPort)
    (howner : s.port.owner = .bench) (hqueue : s.bench.queue = q :: rest) : s.grantedAccess = some q := by
  simp [State.grantedAccess, hservice, howner, hqueue]

/-- The grant to a LOAD: the bytes, the reply, the port's return (R19, R172). -/
theorem State.grant_load {s : State} {q : Request} {rest : List Request} (hservice : s.bench.service = .waitingPort)
    (howner : s.port.owner = .bench) (hqueue : s.bench.queue = q :: rest) (hk : q.kind = .load)
    (hroom : leAt 2 q.payload 0 + (q.payload.drop 2).length ≤ 24576) :
    exec .benchAccessGrant s = .next (answered
      { s with mem := Memory.writeBytes s.mem (leAt 2 q.payload 0) (q.payload.drop 2) } q rest [5, 0]).returnPort := by
  have hreply := State.reply_answered
    (u := { s with mem := Memory.writeBytes s.mem (leAt 2 q.payload 0) (q.payload.drop 2) }) hqueue (acceptPayload .load [])
  simp only [exec, execBenchAccessGrant, State.grantedAccess_eq hservice howner hqueue, hk, if_neg (Nat.not_lt.mpr hroom),
    hreply, Config.memoryBytes]
  rfl

/-- The grant to a PEEK: the bytes read, the reply, the port's return (R19, R172). -/
theorem State.grant_peek {s : State} {q : Request} {rest : List Request} (hservice : s.bench.service = .waitingPort)
    (howner : s.port.owner = .bench) (hqueue : s.bench.queue = q :: rest) (hk : q.kind = .peek)
    (hroom : leAt 2 q.payload 0 + (byteAt q.payload 2).toNat ≤ 24576) :
    exec .benchAccessGrant s = .next (answered s q rest (leBytes 2 (32768 + leAt 2 q.payload 0) ++
      (List.range (byteAt q.payload 2).toNat).map fun i => Memory.read s.mem (leAt 2 q.payload 0 + i))).returnPort := by
  simp only [exec, execBenchAccessGrant, State.grantedAccess_eq hservice howner hqueue, hk, if_neg (Nat.not_lt.mpr hroom),
    State.reply_answered hqueue, Config.memoryBytes, peekPayload, Memory.readBytes_eq_map]

/-- The two sequels of a grant whose answer is `u`: no access waited, or the fetch did (R21). -/
theorem State.grant_sequels {s u : State} (heng : u.eng = s.eng) (hgrant : exec .benchAccessGrant s = .next u.returnPort) :
    (u.port.waits = [] → exec .benchAccessGrant s = .next u.portBack) ∧
    (u.port.waits = [.fetch] → ∃ v, AsksNext u.portBack v ∧ v.eng = s.eng ∧
      (s.eng.job = .running → exec .benchAccessGrant s = .next (grantedAtRelease v.fetched)) ∧
      (s.eng.job ≠ .running → exec .benchAccessGrant s = .next (grantedAtRelease v))) := by
  refine ⟨fun hw => by rw [hgrant, State.returnPort_nothingWaits hw], fun hw => ?_⟩
  obtain ⟨hasks, hreturn⟩ := State.returnPort_fetches hw
  rw [heng] at hreturn
  have hveng : u.portBack.askAtReturn.eng = s.eng := by
    rw [hasks.keeps.1]
    exact heng
  exact ⟨_, hasks, hveng, fun hjob => by rw [hgrant, hreturn, if_pos hjob], fun hjob => by rw [hgrant, hreturn, if_neg hjob]⟩

/-- Settles O55: the whole access and its reply, and the waiting fetch behind the ask of the next request. -/
theorem grantedAccessIsMadeWhole : Obligations.GrantedAccessIsMadeWhole := by
  intro s q rest hservice howner hqueue data a m back fetches
  have hfetched : ∀ v : State, v.eng = s.eng → v.fetched = fetches v := fun v hv => by
    simp only [State.fetched, fetches, hv]
  refine ⟨fun hk hroom hm => ⟨_, fun x => Memory.read_writeBytes data hm hroom x, ?_⟩, fun hk hroom => ?_⟩
  · obtain ⟨hnone, hfetch⟩ := State.grant_sequels (by exact rfl) (State.grant_load hservice howner hqueue hk hroom)
    refine ⟨hnone, fun hw => ?_⟩
    obtain ⟨v, hasks, hv, hruns, hrests⟩ := hfetch hw
    exact ⟨v, hasks, fun hjob => hfetched v hv ▸ hruns hjob, hrests⟩
  · obtain ⟨hnone, hfetch⟩ := State.grant_sequels (by exact rfl) (State.grant_peek hservice howner hqueue hk hroom)
    refine ⟨hnone, fun hw => ?_⟩
    obtain ⟨v, hasks, hv, hruns, hrests⟩ := hfetch hw
    exact ⟨v, hasks, fun hjob => hfetched v hv ▸ hruns hjob, hrests⟩

end Sys2Proof.Machine
end

section
/-! PROOFS of the family "step ring and step memory", 17: the accesses made at the port's return (O56). -/

namespace Sys2Proof.Machine

/-! ### The bare grant, and the accesses behind it -/

/-- The grant with no access waiting: it makes nothing, or the bench's access that `s` makes before those that wait. -/
theorem grant_of_bare {s b : State}
    (h : exec .benchAccessGrant { s with port := { s.port with waits := [] } } = .next b) :
    b.port = { s.port with waits := [] } ∨ ∃ q m payload,
      b = (({ s with mem := m, port := { s.port with waits := [] } } : State).reply q payload).returnPort ∧
      exec .benchAccessGrant s = .next (({ s with mem := m } : State).reply q payload).returnPort := by
  have hsame : ({ s with port := { s.port with waits := [] } } : State).grantedAccess = s.grantedAccess := rfl
  simp only [exec, execBenchAccessGrant, hsame] at h ⊢
  cases hq : s.grantedAccess with
  | none =>
    rw [hq] at h
    cases h
    exact .inl rfl
  | some q =>
    rw [hq] at h
    cases hk : q.kind
    case load =>
      simp only [hk] at h ⊢
      split at h <;> cases h
      rename_i hroom
      exact .inr ⟨q, _, _, rfl, if_neg hroom⟩
    case peek =>
      simp only [hk] at h ⊢
      split at h <;> cases h
      rename_i hroom
      exact .inr ⟨q, _, _, rfl, if_neg hroom⟩
    all_goals
      simp only [hk] at h
      cases h
      exact .inl rfl

theorem State.reply_withPort (s : State) (p : MemPort) (q : Request) (payload : List Byte) :
    ({ s with port := p } : State).reply q payload = { s.reply q payload with port := p } := by
  unfold State.reply
  split <;> rfl

/-- Accesses that wait behind the bench's are made after it and after the ask (R21). -/
theorem grant_makes_waiting {s b : State}
    (hbare : exec .benchAccessGrant { s with port := { s.port with waits := [] } } = .next b)
    (howner : s.port.owner = .bench) (hback : b.port.owner = .engine) :
    b.eng = s.eng ∧ b.power = s.power ∧
    (s.port.waits ≠ [] → exec .benchAccessGrant s =
      .next (grantedAtRelease (s.port.waits.foldl State.makeAccess b.askAtReturn))) := by
  rcases grant_of_bare hbare with hport | ⟨q, m, payload, rfl, hgrant⟩
  · rw [hport, howner] at hback
    cases hback
  · rw [State.returnPort_nothingWaits (by simp)]
    refine ⟨by simp [State.portBack], by simp [State.portBack], fun hwaits => ?_⟩
    obtain ⟨access, others, hw⟩ := List.exists_cons_of_ne_nil hwaits
    have hreturn := State.returnPort_waits (s := ({ s with mem := m } : State).reply q payload) (w := access) (ws := others)
      (by simpa using hw)
    have hport := State.reply_withPort { s with mem := m } { s.port with waits := [] } q payload
    rw [hgrant, hreturn, hw, State.portBack, hport]

/-! ### Capture entries -/

/-- A capture entry written whole (R64). -/
theorem State.writeCapture_written {s : State} (hm : Memory.wf s.mem) (entry : Record) :
    ∃ m, CaptureWritten s entry m ∧ Memory.wf m ∧ s.writeCapture entry = withCapture s m := by
  obtain ⟨-, hroom⟩ := captureSlot_bounds s.probe.nextIndex
  exact ⟨_, fun a => Memory.read_putRecord entry hm hroom a, Memory.putRecord_wf entry hm hroom, rfl⟩

/-- Capture entries that waited are written one after the other, and nothing else changes (R21, R64). -/
theorem captures_written (entries : List Record) : ∀ {v : State}, Memory.wf v.mem → ∃ w, CapturesWritten v entries w ∧
    w = { v with mem := w.mem, probe := w.probe } ∧ Memory.wf w.mem ∧
    (entries.map fun entry => EngineAccess.capture entry none).foldl State.makeAccess v = w := by
  induction entries with
  | nil => exact fun hm => ⟨_, rfl, rfl, hm, rfl⟩
  | cons entry entries ih =>
    intro v hm
    obtain ⟨m, hwritten, hwf, heq⟩ := State.writeCapture_written hm entry
    obtain ⟨w, hrest, hkeeps, hw, hfold⟩ := ih (v := withCapture v m) hwf
    refine ⟨w, ⟨m, hwritten, hrest⟩, hkeeps, hw, ?_⟩
    rw [List.map_cons, List.foldl_cons, ← hfold, ← heq]
    rfl

/-! ### Outcomes -/

/-- The outcome bytes written at the port's return (R15). -/
theorem State.read_writeOutcome {s : State} (hm : Memory.wf s.mem) (index : RingIndex) (o : StepOutcome) (count : Byte)
    (a : Nat) : Memory.read (s.writeOutcome index o count).mem a =
      if a = 16 * index.toNat + 14 then o.code
      else if a = 16 * index.toNat + 15 then count else Memory.read s.mem a := by
  have hindex := index.isLt
  have hroom : 16 * index.toNat + 14 < Config.memoryBytes := by simp only [Config.memoryBytes]; omega
  unfold State.writeOutcome
  dsimp only
  rw [Memory.read_write (Memory.write_wf _ hm hroom), Memory.read_write hm]
  by_cases h14 : a = 16 * index.toNat + 14
  · rw [if_neg (by omega), if_pos h14, if_pos h14]
  · rw [if_neg h14, if_neg h14]

theorem State.read_writeOutcome_of_report {s : State} (hm : Memory.wf s.mem) (index : RingIndex) {r : Record}
    (hreport : reportFlag r = true) (o : StepOutcome) (a : Nat) :
    Memory.read (s.writeOutcome index o (failCountAfter o (failCountOf r))).mem a = outcomeByte s.mem index r o a := by
  rw [State.read_writeOutcome hm]
  simp [outcomeByte, hreport]

/-- PROGRESS of a completion whose write-back waited carries the stamp of the completion (R49). -/
theorem State.progress_of_waiting (s : State) (m : Memory) (c : Completion) :
    ({ s with mem := m } : State).progress c =
      { s with mem := m, line := lineAfterCompletion { s with clock := c.stamp } c.record c.outcome } := by
  unfold State.progress lineAfterCompletion
  split <;> rfl

/-- The end of the job by a STOP, in full (R36, R48). -/
theorem State.endJob_eq (s : State) : s.endJob = { s with
    eng := s.endJob.eng, line := lineAfterEnd s.line s.endJob.eng s.faults.queue.length,
    port := { s.port with owner := ownerReleased s } } := by
  unfold State.endJob
  rw [State.releasePort_eq]
  rfl

theorem State.endJob_eng (s : State) : s.endJob.eng = { s.eng with
    job := .ended, phase := .ready, copy := none, latch := false, haltReason := none,
    fetchIndex := s.eng.fetchIndex + 1, haltIndex := some (s.eng.fetchIndex + 1) } := by
  unfold State.endJob
  rw [State.releasePort_eq]
  rfl

/-- A port that no bench access asks for is not granted (R19). -/
theorem grantedAtRelease_of_notAsked {s : State} (h : s.port.owner ≠ .asked) : grantedAtRelease s = s := by
  have howner : ownerReleased s = s.port.owner := if_neg h
  unfold grantedAtRelease
  rw [howner, ite_self]

theorem ownerReleased_ne_asked (s : State) : ownerReleased s ≠ .asked := by
  unfold ownerReleased
  split
  · simp
  · assumption

end Sys2Proof.Machine
end

section
/-! PROOFS of the family "step ring and step memory", 18: what follows an outcome that waited (O56). -/

namespace Sys2Proof.Machine

/-! ### The sequel of an outcome that waited -/

/-- R21: the engine of a completion whose write-back waits: the copy is gone, and no phase stands. -/
def Engine.StandsCompleted (e : Engine) : Prop := e.phase = .ready ∧ e.copy = none ∧ e.judged = none ∧ e.timer = none

/-- R49: the state with the outcome of the completion `c` in memory `m` and its PROGRESS sent. -/
def State.reported (w : State) (m : Memory) (c : Completion) : State :=
  { w with mem := m, line := lineAfterCompletion { w with clock := c.stamp } c.record c.outcome }

/-- An outcome that waited is written, PROGRESS goes out, and the job goes on as its state at the return says (R21). -/
theorem State.makeAccess_outcome (w : State) (index : RingIndex) (count : Byte) (c : Completion) :
    w.makeAccess (.outcome index c.outcome count (some c)) =
      if w.eng.job = .running then (w.reported (w.writeOutcome index c.outcome count).mem c).goOn c.after
      else (w.reported (w.writeOutcome index c.outcome count).mem c).goOnHalted c.after := by
  have hprogress : (w.writeOutcome index c.outcome count).progress c =
      w.reported (w.writeOutcome index c.outcome count).mem c := State.progress_of_waiting w _ c
  simp only [State.makeAccess, State.finish, hprogress]
  rfl

/-- The step boundary behind an outcome that waited (R33), with PROGRESS of the stamp of the completion. -/
theorem State.reported_boundary {w : State} {m : Memory} {c : Completion} (hjob : w.eng.job = .running)
    (hdone : w.eng.StandsCompleted)
    (hm : ∀ a, Memory.read m a = outcomeByte w.mem w.eng.fetchIndex c.record c.outcome a) (after : AfterStep) :
    let t := (w.reported m c).boundary after
    GoesOn { w with clock := c.stamp } t c.record c.outcome (w.eng.moved after).1 (w.eng.moved after).2 ∧
    t = { w with eng := t.eng, port := t.port, line := t.line, mem := t.mem } ∧ t.port.owner ≠ .asked := by
  obtain ⟨hphase, -, hjudged, htimer⟩ := hdone
  dsimp only
  rw [State.boundary_eq]
  refine ⟨⟨hm, rfl, rfl, rfl, ?_⟩, rfl, ownerReleased_ne_asked w⟩
  simp only [State.reported, hjob, hphase, hjudged, htimer]
  rfl

/-- A job halted behind an outcome that waited (R46). -/
theorem State.reported_haltJob (w : State) (m : Memory) (c : Completion) (reason : HaltReason) :
    let t := (w.reported m c).haltJob reason
    HaltsFrom w t (lineAfterCompletion { w with clock := c.stamp } c.record c.outcome) reason ∧ t.mem = m ∧
    t = { w with eng := t.eng, line := t.line, port := { w.port with owner := t.port.owner }, mem := t.mem } ∧
    t.port.owner ≠ .asked := by
  dsimp only
  rw [State.haltJob_eq]
  exact ⟨⟨rfl, rfl, rfl⟩, rfl, rfl, ownerReleased_ne_asked w⟩

/-- A STOP whose outcome waited (R36). -/
theorem State.reported_endJob {w : State} {m : Memory} {c : Completion} (hdone : w.eng.StandsCompleted) :
    let t := (w.reported m c).endJob
    t.eng = { w.eng with job := .ended, phase := .ready, copy := none, judged := none, timer := none, latch := false,
                         haltReason := none, fetchIndex := w.eng.fetchIndex + 1, haltIndex := some (w.eng.fetchIndex + 1) } ∧
    t.mem = m ∧
    t = { w with eng := t.eng, mem := t.mem, port := { w.port with owner := ownerReleased w },
                 line := lineAfterEnd (lineAfterCompletion { w with clock := c.stamp } c.record c.outcome) t.eng
                   w.faults.queue.length } := by
  obtain ⟨-, -, hjudged, htimer⟩ := hdone
  have hmem : (w.reported m c).endJob.mem = m := by
    rw [State.endJob_eq]
    rfl
  dsimp only
  refine ⟨?_, hmem, ?_⟩
  · rw [State.endJob_eng]
    simp only [State.reported, hjudged, htimer]
  · rw [hmem]
    exact State.endJob_eq _

/-- An isolation whose outcome waited, of a board that is powered: the power down, then the halt (R115). -/
theorem State.reported_isolates (w : State) (m : Memory) (c : Completion) (hpowered : ¬ w.power.state.unpowered = true) :
    let sent := { w with line := lineAfterCompletion { w with clock := c.stamp } c.record c.outcome }
    let off := poweredDown sent .off
    (w.reported m c).isolateBoard.haltJob .isolated = { off with
      eng := haltedEngine w.eng .isolated, mem := m, port := { w.port with owner := ownerReleased w },
      line := lineAfterEnd off.line (haltedEngine w.eng .isolated) w.faults.queue.length } := by
  have hdown : (w.reported m c).isolateBoard = poweredDown (w.reported m c) .off :=
    (if_neg hpowered).trans (State.powerDown_eq _ _)
  dsimp only
  rw [hdown, State.haltJob_eq]
  rfl

/-! ### The halted job -/

/-- What a halted job lets an outcome that waited still do: an isolation takes a powered board down (R46, R115). -/
theorem State.goOnHalted_eq (z : State) (after : AfterStep) :
    (after ≠ .isolate ∨ z.power.state.unpowered = true → z.goOnHalted after = z) ∧
    (after = .isolate → ¬ z.power.state.unpowered = true → z.goOnHalted after = poweredDown z .off) := by
  refine ⟨fun h => ?_, fun hisolate hpowered => ?_⟩
  · cases after
    case isolate => exact if_pos (h.resolve_left fun hne => hne rfl)
    all_goals rfl
  · subst hisolate
    show z.isolateBoard = poweredDown z .off
    rw [State.isolateBoard, if_neg hpowered, State.powerDown_eq]

/-! ### The accesses in their order -/

/-- The state `w` in which the capture entries that waited are written, and the accesses made behind them (R21). -/
theorem accesses_behind_captures {s b : State}
    (hbare : exec .benchAccessGrant { s with port := { s.port with waits := [] } } = .next b)
    (howner : s.port.owner = .bench) (hback : b.port.owner = .engine) (hm : Memory.wf b.mem) :
    ∃ v, AsksNext b v ∧ ∀ entries : List Record, ∃ w, CapturesWritten v entries w ∧
      w.eng = s.eng ∧ w.power = s.power ∧ w.port.owner ≠ .bench ∧ Memory.wf w.mem ∧
      ∀ behind, s.port.waits = (entries.map fun entry => EngineAccess.capture entry none) ++ behind → s.port.waits ≠ [] →
        exec .benchAccessGrant s = .next (grantedAtRelease (behind.foldl State.makeAccess w)) := by
  obtain ⟨heng, hpower, hgrant⟩ := grant_makes_waiting hbare howner hback
  have hasks := State.askAtReturn_asks b
  obtain ⟨hv, hvowner⟩ := hasks.keeps
  refine ⟨_, hasks, fun entries => ?_⟩
  obtain ⟨w, hwritten, hw, hwm, hfold⟩ := captures_written entries (v := b.askAtReturn) (by rw [hv]; exact hm)
  refine ⟨w, hwritten, by rw [hw, hv]; exact heng, by rw [hw, hv]; exact hpower, ?_, hwm, fun behind hwaits hne => ?_⟩
  · rw [hw]
    exact hvowner (by simp [hback])
  · rw [hgrant hne, hwaits, List.foldl_append, hfold]

/-- The last capture entry of a SAMPLE completes its record, unless a halt has abandoned it (R46, R64). -/
theorem State.makeAccess_lastCapture {w : State} (hm : Memory.wf w.mem) (howner : w.port.owner ≠ .bench) (entry : Record)
    (o : StepOutcome) : ∃ m, CaptureWritten w entry m ∧ Memory.wf m ∧
      (∀ r, w.eng.job = .running → w.eng.copy = some r →
        Completes (withCapture w m) (w.makeAccess (.capture entry (some o))) r o) ∧
      (w.eng.job = .halted → w.makeAccess (.capture entry (some o)) = withCapture w m) := by
  obtain ⟨m, hentry, hmwf, hcapture⟩ := State.writeCapture_written hm entry
  have hmade : w.makeAccess (.capture entry (some o)) =
      if w.inFlight then (withCapture w m).complete o .advance else withCapture w m := by
    rw [← hcapture]
    rfl
  refine ⟨m, hentry, hmwf, fun r hjob hcopy => ?_, fun hjob => ?_⟩
  · have hflies : w.inFlight = true := by simp [State.inFlight, hjob, hcopy]
    rw [hmade, if_pos hflies]
    exact State.complete_completes (s := withCapture w m) o hmwf hcopy hjob fun _ => howner
  · have hnot : ¬ w.inFlight = true := by simp [State.inFlight, hjob]
    rw [hmade, if_neg hnot]

/-- Settles O56: the accesses in their order, and what each lets follow. -/
theorem waitingAccessesAreMadeAtTheReturn : Obligations.WaitingAccessesAreMadeAtTheReturn := by
  intro s b hservice howner hbare hback hm
  obtain ⟨v, hasks, hcaptures⟩ := accesses_behind_captures hbare howner hback hm
  refine ⟨v, hasks, fun entries => ?_⟩
  obtain ⟨w, hwritten, heng, hpower, hwowner, hwm, hbehind⟩ := hcaptures entries
  refine ⟨w, hwritten, ?_⟩
  intro captures f goes aborted
  have hlast : ∀ access, s.port.waits = captures ++ [access] → goes (grantedAtRelease (w.makeAccess access)) :=
    fun access h => hbehind [access] h (by simp [h])
  refine ⟨fun hne hwaits => ?_, fun hwaits => ?_, fun count hwaits => ?_, fun entry o => ?_,
    fun c hwaits hreport hphase hcopy hjudged htimer => ?_⟩
  · exact hbehind [] (by simpa using hwaits) (by simpa [hwaits, captures] using hne)
  · have hfetch := hlast .fetch hwaits
    rw [State.makeAccess_fetch hwowner, heng] at hfetch
    refine ⟨fun hjob => ?_, fun hjob => ?_⟩
    · have hindex : f = w.eng.fetchIndex := by rw [heng]
      rw [if_pos hjob, State.fetched, ← hindex] at hfetch
      exact hfetch
    · rw [if_neg hjob] at hfetch
      exact hfetch
  · exact ⟨_, fun a => State.read_writeOutcome hwm f .aborted count a, hlast _ hwaits⟩
  · obtain ⟨m, hentry, hmwf, hcompletes, hhalted⟩ := State.makeAccess_lastCapture hwm hwowner entry o
    rw [heng] at hcompletes hhalted
    refine ⟨m, hentry, fun r hwaits hr => ?_, fun hwaits hjob => ?_, fun count hwaits hjob => ?_⟩
    · obtain ⟨hjob, -, hcopy⟩ := hr
      have hcomplete := hcompletes r hjob hcopy
      have hgo := hlast _ hwaits
      rw [grantedAtRelease_of_notAsked (hcomplete.1.2.2.1 ▸ ownerReleased_ne_asked _)] at hgo
      exact ⟨_, hgo, hcomplete⟩
    · exact hhalted hjob ▸ hlast _ hwaits
    · have hgo := hbehind _ hwaits (by simp [hwaits])
      rw [List.foldl_cons, hhalted hjob] at hgo
      exact ⟨_, fun a => State.read_writeOutcome (s := withCapture w m) hmwf f .aborted count a, hgo⟩
  · intro at' line sent unpowered written onward halts
    have hdone : w.eng.StandsCompleted := by
      rw [heng]
      exact ⟨hphase, hcopy, hjudged, htimer⟩
    have hunpowered : w.power.state.unpowered = true ↔ unpowered := by rw [hpower]; exact PowerState.unpowered_iff _
    have hgo := hlast _ hwaits
    rw [State.makeAccess_outcome] at hgo
    have hbytes := fun a => State.read_writeOutcome_of_report hwm f hreport c.outcome a
    generalize (w.writeOutcome f c.outcome (failCountAfter c.outcome (failCountOf c.record))).mem = m at hgo hbytes
    have hbytesF : ∀ a, Memory.read m a = outcomeByte w.mem w.eng.fetchIndex c.record c.outcome a := by
      rw [heng]
      exact hbytes
    refine ⟨fun hjob => ?_, fun hjob => ?_⟩
    · have hwjob : w.eng.job = .running := by rw [heng]; exact hjob
      rw [if_pos hwjob] at hgo
      have hmade : ∀ t, (w.reported m c).goOn c.after = t → t.port.owner ≠ .asked → goes t := fun t ht howner => by
        rw [ht, grantedAtRelease_of_notAsked howner] at hgo
        exact hgo
      have hboundary : ∀ after, (w.reported m c).goOn c.after = (w.reported m c).boundary after →
          onward (s.eng.moved after).1 (s.eng.moved after).2 := fun after hafter => by
        obtain ⟨hgoes, heq, howner⟩ := State.reported_boundary hwjob hdone hbytesF after
        have hmoved : w.eng.moved after = s.eng.moved after := by rw [heng]
        rw [hmoved] at hgoes
        exact ⟨_, hmade _ hafter howner, hgoes, heq⟩
      have hhalts : ∀ reason, (w.reported m c).goOn c.after = (w.reported m c).haltJob reason → halts reason :=
        fun reason hafter => by
          obtain ⟨hfrom, hmem, heq, howner⟩ := State.reported_haltJob w m c reason
          exact ⟨_, hmade _ hafter howner, hfrom, fun a => by rw [hmem]; exact hbytes a, heq⟩
      refine ⟨fun hafter => hboundary .advance (by rw [hafter]; rfl), fun l hafter => hboundary (.enter l) (by rw [hafter]; rfl),
        fun e hafter => hboundary (.skip e) (by rw [hafter]; rfl), fun hafter => ?_,
        fun reason hafter => hhalts reason (by rw [hafter]; rfl), fun hafter hoff => ?_, fun hafter hon => ?_⟩
      · obtain ⟨hended, hmem, heq⟩ := State.reported_endJob (m := m) (c := c) hdone
        have howner : (w.reported m c).endJob.port.owner ≠ .asked := by
          rw [heq]
          exact ownerReleased_ne_asked w
        rw [heng] at hended
        exact ⟨_, hmade _ (by rw [hafter]; rfl) howner, fun a => by rw [hmem]; exact hbytes a, hended, heq⟩
      · refine hhalts .isolated ?_
        have hstands : (w.reported m c).isolateBoard = w.reported m c := if_pos (hunpowered.mpr hoff)
        rw [hafter]
        exact congrArg (fun z : State => z.haltJob .isolated) hstands
      · have hpowered : ¬ w.power.state.unpowered = true := fun h => hon (hunpowered.mp h)
        have heq := State.reported_isolates w m c hpowered
        have howner : ((w.reported m c).isolateBoard.haltJob .isolated).port.owner ≠ .asked := by
          rw [heq]
          exact ownerReleased_ne_asked w
        refine ⟨_, hmade ((w.reported m c).isolateBoard.haltJob .isolated) (by rw [hafter]; rfl) howner, ?_⟩
        rw [heq]
        exact ⟨hbytes, congrArg (haltedEngine · .isolated) heng, rfl, rfl, rfl, rfl, rfl⟩
    · have hnot : ¬ w.eng.job = .running := by simp [heng, hjob]
      obtain ⟨hstands, hdown⟩ := State.goOnHalted_eq (w.reported m c) c.after
      rw [if_neg hnot] at hgo
      refine ⟨m, hbytes, fun h => ?_, fun hisolate hon => ?_⟩
      · rw [hstands (h.imp id hunpowered.mpr)] at hgo
        exact hgo
      · rw [hdown hisolate fun h => hon (hunpowered.mp h)] at hgo
        exact hgo

end Sys2Proof.Machine
end

section
/-! PROOFS of the family "step engine", 1: the records that end the job, repeat and cannot run (O27, O28, O29). -/

namespace Sys2Proof.Machine

/-! ### STOP -/

/-- R32: the state once the record in flight has completed, before its outcome is written. -/
def State.completed (s : State) : State :=
  { s with eng := { s.eng with copy := none, phase := .ready, judged := none, timer := none } }

/-- A completion that finds the port free: the outcome in memory, PROGRESS, and the job's way on (R32). -/
theorem State.complete_reported {s : State} {r : Record} (o : StepOutcome) (after : AfterStep) (hm : Memory.wf s.mem)
    (hr : s.eng.copy = some r) (hjob : s.eng.job = .running) (hp : s.PortFreeFor r) :
    ∃ m, (∀ a, Memory.read m a = outcomeByte s.mem s.eng.fetchIndex r o a) ∧
      s.complete o after =
        (s.completed.reported m { record := r, outcome := o, stamp := s.clock, after := after }).goOn after := by
  unfold State.complete
  rw [hr]
  dsimp only
  by_cases hreport : reportFlag r = true
  · refine ⟨_, State.read_writeOutcome_of_report (s := s.completed) hm s.eng.fetchIndex hreport o, ?_⟩
    rw [if_pos hreport, if_neg (hp hreport)]
    exact (State.makeAccess_outcome s.completed s.eng.fetchIndex (failCountAfter o (failCountOf r))
      { record := r, outcome := o, stamp := s.clock, after := after }).trans (if_pos hjob)
  · refine ⟨s.mem, fun a => (outcomeByte_of_not_report a hreport).symm, ?_⟩
    rw [if_neg hreport]
    refine (if_pos hjob).trans (congrArg (State.goOn · after) ?_)
    exact State.progress_of_waiting s.completed s.mem { record := r, outcome := o, stamp := s.clock, after := after }

/-- Settles O27: the completion of a STOP is reported, and the job ends behind it. -/
theorem stopEndsTheJob : Obligations.StopEndsTheJob := by
  intro s r hr hm hp hk
  obtain ⟨m, hbytes, hcomplete⟩ := State.complete_reported .done .stop hm hr.2.2.2 hr.1 hp
  obtain ⟨hended, hmem, heq⟩ := State.reported_endJob (w := s.completed) (m := m)
    (c := { record := r, outcome := .done, stamp := s.clock, after := .stop }) ⟨rfl, rfl, rfl, rfl⟩
  have hcommand : exec .stepStop s = .next (s.complete .done .stop) := by
    simp only [exec, execStepStop, hr.awaitingKind hk]
  refine ⟨_, hcommand.trans (congrArg _ hcomplete), hended, ?_, fun a => ?_, ?_⟩
  · exact congrArg State.line heq
  · exact (congrArg (Memory.read · a) hmem).trans (hbytes a)
  · rw [State.goOn, heq]
    rfl

/-! ### REPEAT -/

/-- The structure checks of R37 in the words of its rule. -/
theorem Engine.repeatRefused_iff (e : Engine) (r : Record) :
    e.repeatRefused r = true ↔ repeatSpan r = 0 ∨
      (∃ l ls, e.loops = l :: ls ∧ (l.bodyEnd - l.bodyStart).toNat < (e.bodyEnd r - l.bodyStart).toNat) ∨
      (repeatCount r ≠ 0 ∧ 4 ≤ e.loops.length) := by
  unfold Engine.repeatRefused
  cases e.loops with
  | nil => simp
  | cons l ls => simp [or_assoc]

/-- A loop end (R40): the loops that end here with their last pass are popped, and the first one left goes round again or
stands. -/
theorem loopEnd_eq_dropWhile (stack : List LoopEntry) (index : RingIndex) :
    loopEnd stack index =
      match stack.dropWhile (fun l => decide (l.bodyEnd = index ∧ l.remaining.toNat ≤ 1)) with
      | [] => ([], index + 1)
      | l :: ls => if l.bodyEnd = index then ({ l with remaining := l.remaining - 1 } :: ls, l.bodyStart)
                   else (l :: ls, index + 1) := by
  induction stack with
  | nil => rfl
  | cons l ls ih =>
    by_cases hend : l.bodyEnd = index
    · by_cases hlast : l.remaining.toNat ≤ 1
      · rw [List.dropWhile_cons_of_pos (by simp [hend, hlast]), ← ih, loopEnd, if_pos hend, if_neg (by omega)]
      · rw [List.dropWhile_cons_of_neg (by simp [hlast]), loopEnd, if_pos hend, if_pos (by omega)]
        exact (if_pos hend).symm
    · rw [List.dropWhile_cons_of_neg (by simp [hend]), loopEnd, if_neg hend]
      exact (if_neg hend).symm

/-- Settles O28: the two ways of a REPEAT of sound structure, and the loop end by induction on the loop stack. -/
theorem repeatRunsOnceItsBodyIsPostedAndLoopsEnd : Obligations.RepeatRunsOnceItsBodyIsPostedAndLoopsEnd := by
  refine ⟨?_, loopEnd_eq_dropWhile⟩
  intro s r hr hk f span e hspan hinside hdepth
  have hsound : ¬ s.eng.repeatRefused r = true := by
    rw [Engine.repeatRefused_iff]
    rintro (hzero | ⟨l, ls, hloops, hout⟩ | ⟨hcount, hfour⟩)
    · exact hspan hzero
    · exact absurd (hinside l ls hloops) (Nat.not_le.mpr hout)
    · exact hdepth.elim hcount fun hfew => absurd hfour (Nat.not_le.mpr hfew)
  refine ⟨fun hshort => ?_, fun hposted hm hp => ?_⟩
  · have hbody : ¬ s.eng.bodyPosted r = true := fun h => Nat.not_lt.mpr hshort (of_decide_eq_true h)
    simp only [exec, execStepRepeat, hr.awaitingKind hk, if_neg hsound, if_neg hbody, State.releasePort_eq]
    rfl
  · have hbody : s.eng.bodyPosted r = true := decide_eq_true hposted
    obtain ⟨heq, henter, hskip⟩ := State.runRepeat_goesOn hm hr.2.2.2 hr.1 hp
    refine ⟨s.runRepeat r, ?_, heq, henter, hskip⟩
    simp only [exec, execStepRepeat, hr.awaitingKind hk, if_neg hsound, if_pos hbody]

/-! ### Records that cannot run -/

/-- A LIMITS in mode RANGE is refused when its B lies below its A as the FIELD part reads them (R69). -/
theorem limitsRefused_of_range {g : Signedness} {r : Record} (hmode : byteOf r 2 = 2)
    (horder : if g = .signed then (wordOf r 8).toInt < (wordOf r 4).toInt else (wordOf r 8).toNat < (wordOf r 4).toNat) :
    limitsRefused g (limitsOp r) = true := by
  have hrange : (limitsOp r).mode = .range := by simp [limitsOp, hmode]
  refine decide_eq_true ⟨hrange, ?_⟩
  cases g
  case unsigned => exact Int.ofNat_lt.mpr horder
  case signed => exact horder

/-- A POWER to a powered target with a declared draw of 0 is refused (R106). -/
theorem powerRefused_of_noDraw {r : Record} (htarget : byteOf r 2 = 1 ∨ byteOf r 2 = 2) (hdraw : halfOf r 4 = 0) :
    powerRefused (powerOp r) = true := by
  refine decide_eq_true ⟨?_, hdraw⟩
  rcases htarget with h1 | h2
  · simp [powerOp_target_standby h1]
  · simp [powerOp_target_on h2]

/-- Settles O29: each refusing check leads to the same refusal. -/
theorem recordsThatCannotRunAreRefused : Obligations.RecordsThatCannotRunAreRefused := by
  intro s r hr hm hp e
  have hrefuses : ∀ i, exec i s = .next s.refuseRecord → ∃ t, exec i s = .next t ∧ RefusesRecord s t r := fun i h =>
    ⟨_, h, State.refuseRecord_refuses hm hr.2.2.2 hp⟩
  refine ⟨fun hk => hrefuses _ ?_, fun hk hgeometry => hrefuses _ ?_, fun hk hmode horder => hrefuses _ ?_,
    fun hk htarget hdraw => hrefuses _ ?_, fun hk hstructure => hrefuses _ ?_⟩
  · obtain ⟨hjob, hphase, hwaits, hcopy⟩ := hr
    simp [exec, execUnknownStepKind, State.awaiting, hjob, hphase, hwaits, hcopy, Option.filter, unknownKind, hk]
  · have hrefused : fieldRefused (fieldOp r) = true := by
      refine decide_eq_true (hgeometry.imp_left fun hzero => ?_)
      exact congrArg BitVec.toNat hzero
    simp only [exec, execStepField, hr.awaitingKind hk, if_pos hrefused]
  · simp only [exec, execStepLimits, hr.awaitingKind hk, if_pos (limitsRefused_of_range hmode horder)]
  · exact hr.stepPower hk (if_pos (powerRefused_of_noDraw htarget hdraw))
  · have hrefused : s.eng.repeatRefused r = true := by
      refine (Engine.repeatRefused_iff _ _).mpr (hstructure.imp_left fun hzero => ?_)
      exact congrArg (BitVec.setWidth 10) hzero
    simp only [exec, execStepRepeat, hr.awaitingKind hk, if_pos hrefused]

end Sys2Proof.Machine
end

section
/-! PROOFS of the family "step engine", 2: the board taken down by a trip or an overdraw (O20, O21). -/

namespace Sys2Proof.Machine

/-! ### A fault recorded with no move present -/

theorem State.haltFlood_of_noMove {s : State} (h : s.power.move = none) : s.haltFlood = s.haltActive .faultFlood := by
  have hmove : s.endMoveFlood = s := by
    rw [State.endMoveFlood_eq]
    simp only [floodEnds, h]
  unfold State.haltFlood
  rw [hmove]
  split
  · rfl
  · rename_i hidle
    exact (if_neg hidle).symm

/-- The record appended is the one that R135 and R136 describe. -/
theorem State.faultRecord_eq (s : State) (i : FaultInfo) (a : Option GuardAction) : s.faultRecord i a = freshRecord s i a := by
  simp [State.faultRecord, freshRecord, State.inFlight]

/-- With no move present a fault leaves the job alone, or, at a flooded queue, halts it FAULT_FLOOD and does nothing
else to the board (R116, R138). -/
theorem State.recordFault_of_noMove {s : State} (h : s.power.move = none) (i : FaultInfo) (a : Option GuardAction) :
    ∃ u : State, u.eng = s.eng ∧ u.mem = s.mem ∧ u.power = s.power ∧ u.rail = s.rail ∧ u.draw.held = s.draw.held ∧
      s.recordFault i a = if s.faults.hasRoom then u else u.haltActive .faultFlood := by
  have hnotice : ∀ f : Recorder, ∃ u : State, u = ({ s with faults := f } : State).handFail i s.faults.nextSequence ∧
      u.eng = s.eng ∧ u.mem = s.mem ∧ u.power = s.power ∧ u.rail = s.rail ∧ u.draw.held = s.draw.held := fun f => by
    obtain ⟨heng, hmem, -, -, hrail, hpower⟩ :=
      State.handFail_of_noMove (s := { s with faults := f }) h i s.faults.nextSequence
    exact ⟨_, rfl, heng, hmem, hpower, hrail, by simp⟩
  by_cases hroom : s.faults.hasRoom = true
  · have hkeeps : ∃ f : Recorder, s.recordFault i a = ({ s with faults := f } : State).handFail i s.faults.nextSequence := by
      unfold State.recordFault
      split <;> exact ⟨_, rfl⟩
    obtain ⟨f, hf⟩ := hkeeps
    obtain ⟨u, hu, heng, hmem, hpower, hrail, hheld⟩ := hnotice f
    exact ⟨u, heng, hmem, hpower, hrail, hheld, by rw [if_pos hroom, hf, hu]⟩
  · have hfloods := State.recordFault_floods (Bool.not_eq_true _ ▸ hroom) i a
    obtain ⟨u, hu, heng, hmem, hpower, hrail, hheld⟩ := hnotice _
    rw [← hu, State.haltFlood_of_noMove (by rw [hpower]; exact h)] at hfloods
    exact ⟨u, heng, hmem, hpower, hrail, hheld, by rw [if_neg hroom, hfloods]⟩

/-! ### Power down, fault and halt -/

/-- R114, R115: the board taken down to `target`, the fault `i` recorded and the job halted with `reason`. -/
def State.downAndHalted (s : State) (target : PowerState) (i : FaultInfo) (reason : HaltReason) : State :=
  ((s.powerDown target).recordFault i none).haltActive reason

theorem State.takeTrip_eq (s : State) (i : FaultInfo) : s.takeTrip i = s.downAndHalted .tripped i .tripped := rfl

theorem State.takeOverdraw_eq (s : State) :
    s.takeOverdraw = s.downAndHalted .off (overdrawFault s.rail.measured s.draw.held) .overdrawn := rfl

/-- A second halt finds no active job (R46). -/
theorem State.haltActive_haltActive (s : State) (reason later : HaltReason) :
    (s.haltActive reason).haltActive later = s.haltActive reason := by
  have hidle : ¬ (s.haltActive reason).eng.job.active = true := by
    rw [State.haltActive_eng]
    split
    · exact Bool.false_ne_true
    · assumption
  exact if_neg hidle

/-- The whole of it is a halt of the taken-down board, FAULT_FLOOD where the fault queue has no room (R114, log entry 10). -/
theorem State.downAndHalted_halts (s : State) (target : PowerState) (i : FaultInfo) (reason : HaltReason) :
    ∃ u : State, u.eng = s.eng ∧ u.mem = s.mem ∧ u.power = (poweredDown s target).power ∧
      u.rail = (poweredDown s target).rail ∧ u.draw.held = 0 ∧
      s.downAndHalted target i reason = u.haltActive (if s.faults.hasRoom then reason else .faultFlood) := by
  obtain ⟨u, heng, hmem, hpower, hrail, hheld, heq⟩ :=
    State.recordFault_of_noMove (s := poweredDown s target) rfl i none
  refine ⟨u, heng, hmem, hpower, hrail, hheld, ?_⟩
  rw [State.downAndHalted, State.powerDown_eq, heq]
  change State.haltActive (if s.faults.hasRoom then _ else _) _ = _
  split
  · rfl
  · exact State.haltActive_haltActive _ _ _

/-- R114, R115: from `s` the board has gone down to `target`, the fault `i` has reached the Fault Recorder and an active job
has halted: with `reason`, or FAULT_FLOOD where the queue has no room. -/
structure TakenDown (s t : State) (target : PowerState) (i : FaultInfo) (reason : HaltReason) : Prop where
  power : t.power = (poweredDown s target).power
  held : t.draw.held = 0
  zeroCapture : t.rail.zeroCapture = (poweredDown s target).rail.zeroCapture
  queue : s.faults.queue.length < 32 → t.faults.queue = s.faults.queue ++ [freshRecord s i none]
  eng : t.eng = if s.eng.job.active = true then haltedEngine s.eng
    (if 32 ≤ s.faults.queue.length ∧ ∀ f ∈ s.faults.queue, f.cls = .provisional then .faultFlood else reason) else s.eng
  mem : Memory.wf s.mem → ∀ a, a ≠ 16 * s.eng.fetchIndex.toNat + 14 → a ≠ 16 * s.eng.fetchIndex.toNat + 15 →
    Memory.read t.mem a = Memory.read s.mem a
  table : t.draw.table = s.draw.table
  channels : t.rail.channels = s.rail.channels
  overdrawCount : t.rail.overdrawCount = s.rail.overdrawCount
  check : t.check = s.check
  bench : t.bench = s.bench
  clock : t.clock = s.clock
  probe : t.probe = { s.probe with strobe := t.probe.strobe }
  records : ∃ u, Records (poweredDown s target) u i none ∧ HaltsAbandoning u t reason

/-- Probe Lanes that differ in their strobe alone. -/
theorem Probe.eq_withStrobe {p q : Probe} (hdirection : q.direction = p.direction) (hpolarity : q.polarity = p.polarity)
    (hdrive : q.drive = p.drive) (hsource : q.source = p.source) (hnext : q.nextIndex = p.nextIndex)
    (hvalid : q.validCount = p.validCount) : q = { p with strobe := q.strobe } := by
  cases q
  simp_all

theorem State.downAndHalted_takenDown (s : State) (target : PowerState) (i : FaultInfo) (reason : HaltReason) :
    TakenDown s (s.downAndHalted target i reason) target i reason := by
  obtain ⟨u, heng, hmem, hpower, hrail, hheld, heq⟩ := s.downAndHalted_halts target i reason
  have hengine := State.haltActive_eng u (if s.faults.hasRoom then reason else .faultFlood)
  have hreason : (if s.faults.hasRoom then reason else HaltReason.faultFlood) =
      if 32 ≤ s.faults.queue.length ∧ ∀ f ∈ s.faults.queue, f.cls = .provisional then .faultFlood else reason := by
    have hroom := s.faults.hasRoom_iff
    split
    · rename_i h
      exact (if_neg (hroom.mp h)).symm
    · rename_i h
      exact (if_pos (not_not.mp (hroom.not.mp h))).symm
  rw [heng, hreason] at hengine
  rw [hreason] at heq
  refine { power := ?power, held := ?held, zeroCapture := ?zeroCapture, queue := fun hroom => ?queue, eng := ?eng,
           mem := fun hm a h14 h15 => ?mem, table := ?_, channels := ?_, overdrawCount := ?_, check := ?_, bench := ?_,
           clock := ?_, probe := ?probe, records := ?records }
  case power => simp [heq, hpower]
  case held => simp [heq, hheld]
  case zeroCapture => simp [heq, hrail]
  case queue =>
    have hrecorded := State.recordFault_room (s := poweredDown s target) hroom i none
    rw [State.faultRecord_eq] at hrecorded
    simp only [State.downAndHalted, State.powerDown_eq, hrecorded, State.haltActive_frame, State.handFail_frame]
    rfl
  case eng => rw [heq, hengine]
  case mem => rw [heq, State.read_haltActive_of_ne (hmem ▸ hm) _ (heng ▸ h14) (heng ▸ h15), hmem]
  case probe => apply Probe.eq_withStrobe <;> simp [State.downAndHalted]
  case records =>
    rw [State.downAndHalted, State.powerDown_eq]
    exact ⟨_, State.recordFault_records _ i none, State.haltActive_halts _ reason⟩
  all_goals simp [State.downAndHalted]

/-! ### The detections -/

/-- R101, R114: the channel of a due trip is 1 where MAIN trips, and else 3. -/
theorem execTripDetection_of_due {s : State}
    (h : (s.power.main = true ∧ s.rail.tripMain = 2) ∨ (s.power.standby = true ∧ s.rail.tripStandby = 2)) :
    exec .tripDetection s = .next (s.downAndHalted .tripped
      (if s.power.main = true ∧ s.rail.tripMain = 2 then tripFault 1 (s.rail.channels.get 1).scaled s.power.mainTrip
       else tripFault 3 (s.rail.channels.get 3).scaled s.power.standbyTrip) .tripped) := by
  simp only [exec, execTripDetection]
  split
  · rfl
  · rename_i hmain
    rw [if_pos (h.resolve_left hmain)]
    rfl

/-- Settles O20: a due trip takes the board down, and one that is not due changes nothing. -/
theorem tripPowersDownRecordsAndHalts : Obligations.TripPowersDownRecordsAndHalts := by
  intro s byMain flying full reading limit fresh due
  refine ⟨fun hnot => ?_, fun hdue => ?_⟩
  · obtain ⟨hmain, hstandby⟩ := not_or.mp hnot
    exact (if_neg hmain).trans (if_neg hstandby)
  · have hinfo : (if byMain then tripFault 1 (s.rail.channels.get 1).scaled s.power.mainTrip
        else tripFault 3 (s.rail.channels.get 3).scaled s.power.standbyTrip) = fresh.info := by
      simp only [fresh, reading, limit]
      split <;> rfl
    have hcommand := execTripDetection_of_due hdue
    rw [hinfo] at hcommand
    have hdown := s.downAndHalted_takenDown .tripped fresh.info .tripped
    refine ⟨_, hcommand, ?_, ?_, ?_, ?_, ?_, ?_, ?_, hdown.held, hdown.table, fun hmove => ⟨?rampTimer, ?zeroCapture⟩, hdown.channels,
      hdown.queue, hdown.eng, hdown.mem, hdown.check, hdown.bench, hdown.clock, hdown.probe, hdown.records⟩
    case rampTimer => rw [hdown.power]; exact if_neg hmove
    case zeroCapture => rw [hdown.zeroCapture]; exact if_neg hmove
    all_goals rw [hdown.power]; rfl

/-- Settles O21: the count returns to 0, and a board in STANDBY or ON is taken down. -/
theorem overdrawIsolatesRecordsAndHalts : Obligations.OverdrawIsolatesRecordsAndHalts := by
  intro s flying full fresh hcount
  have hcommand : exec .overdrawDetection s = .next
      (if s.power.state = .standby ∨ s.power.state = .on
       then ({ s with rail := { s.rail with overdrawCount := 0 } } : State).takeOverdraw
       else { s with rail := { s.rail with overdrawCount := 0 } }) := by
    simp only [exec, execOverdrawDetection, if_pos hcount]
    split <;> rfl
  by_cases hpowered : s.power.state = .standby ∨ s.power.state = .on
  · rw [if_pos hpowered, State.takeOverdraw_eq] at hcommand
    have hinfo : overdrawFault s.rail.measured s.draw.held = fresh.info := by
      simp only [overdrawFault, int32, BitVec.ofInt_natCast, fresh]
    have hdown := State.downAndHalted_takenDown { s with rail := { s.rail with overdrawCount := 0 } } .off fresh.info .overdrawn
    refine ⟨_, hinfo ▸ hcommand, hdown.overdrawCount, fun hstandby hon => absurd hpowered (not_or.mpr ⟨hstandby, hon⟩),
      fun _ => ⟨?_, ?_, ?_, ?_, ?_, ?_, ?_, hdown.held, hdown.table, hdown.channels,
        hdown.queue, hdown.eng, hdown.mem, hdown.check, hdown.bench, hdown.clock, hdown.probe, hdown.records⟩⟩
    all_goals rw [hdown.power]; rfl
  · rw [if_neg hpowered] at hcommand
    exact ⟨_, hcommand, rfl, fun _ _ => rfl, fun h => absurd h hpowered⟩

end Sys2Proof.Machine
end

section
/-! PROOFS of the family "step engine", 3: the end of a zero capture (O33). -/

namespace Sys2Proof.Machine

/-! ### Zero codes -/

theorem Rail.setChannel_get (r : Rail) (i j : Fin 8) (c : Channel) :
    (r.setChannel i c).channels.get j = if j = i then c else r.channels.get j := by
  simp only [Rail.setChannel, Vector.get_eq_getElem]
  by_cases h : j = i
  · rw [if_pos h, h]
    exact Vector.getElem_set_self _
  · rw [if_neg h]
    exact Vector.getElem_set_ne _ _ fun hval => h (Fin.ext hval.symm)

/-! The channels that the capture names take their codes, and no other channel changes (R89). -/

theorem Rail.setZeros_get_main (r : Rail) (z : ZeroCapture) (main standby : Nat) :
    (r.setZeros z main standby).channels.get 1 = { r.channels.get 1 with
      zero := if z.onMain then BitVec.ofNat 12 main else (r.channels.get 1).zero } := by
  unfold Rail.setZeros
  cases z.onMain <;> cases z.onStandby <;> simp [Rail.setChannel_get]

theorem Rail.setZeros_get_standby (r : Rail) (z : ZeroCapture) (main standby : Nat) :
    (r.setZeros z main standby).channels.get 3 = { r.channels.get 3 with
      zero := if z.onStandby then BitVec.ofNat 12 standby else (r.channels.get 3).zero } := by
  unfold Rail.setZeros
  cases z.onMain <;> cases z.onStandby <;> simp [Rail.setChannel_get]

theorem Rail.setZeros_get_other (r : Rail) (z : ZeroCapture) (main standby : Nat) {i : Fin 8} (h1 : i ≠ 1) (h3 : i ≠ 3) :
    (r.setZeros z main standby).channels.get i = r.channels.get i := by
  unfold Rail.setZeros
  cases z.onMain <;> cases z.onStandby <;> simp [Rail.setChannel_get, h1, h3]

/-- New zero codes change the channels of the Rail Monitor alone. -/
theorem Rail.setZeros_eq (r : Rail) (z : ZeroCapture) (main standby : Nat) :
    r.setZeros z main standby = { r with channels := (r.setZeros z main standby).channels } := by
  unfold Rail.setZeros Rail.setChannel
  cases z.onMain <;> cases z.onStandby <;> rfl

/-! ### The capture done -/

/-- R89: a candidate of a channel that the capture names lies above 200. -/
def ZeroCapture.backfeeds (z : ZeroCapture) : Prop :=
  (z.onMain = true ∧ 200 < candidateZero z.sumMain) ∨ (z.onStandby = true ∧ 200 < candidateZero z.sumStandby)

/-- R89: the capture is over. -/
def State.captureOver (s : State) : State := { s with rail := { s.rail with zeroCapture := none } }

/-- R89, R107: the state with the capture over and its zero codes set. -/
def State.zeroed (s : State) (z : ZeroCapture) : State :=
  { s.captureOver with
    rail := s.captureOver.rail.setZeros z (candidateZero z.sumMain) (candidateZero z.sumStandby) }

theorem State.zeroed_eq (s : State) (z : ZeroCapture) : s.zeroed z = { s with
    rail := { s.rail with zeroCapture := none, channels := (s.zeroed z).rail.channels } } := by
  have hrail : (s.zeroed z).rail = { s.captureOver.rail with channels := (s.zeroed z).rail.channels } := Rail.setZeros_eq _ _ _ _
  exact congrArg (fun rail => { s with rail := rail }) hrail

theorem execZeroCaptureEnd_done {s : State} {z : ZeroCapture} (hz : s.rail.zeroCapture = some z) (hrounds : z.rounds = 16)
    (hfair : ¬ z.backfeeds) : exec .zeroCaptureEnd s = .next (s.zeroed z).captureDone := by
  simp only [exec, execZeroCaptureEnd, hz, if_pos hrounds]
  exact if_neg hfair

/-- A move whose draw is held goes on to RAMPING (R107, R109). -/
theorem State.captureDone_ramps {s : State} {m : Move} (hm : s.power.move = some m)
    (hcovered : m.asked.toNat ≤ s.draw.held.toNat) :
    s.captureDone = { s with power := { s.power with
      state := .ramping, standby := true, main := s.power.main || decide (m.target = .on),
      move := some { m with stage := .ramping }, rampTimer := some { start := s.clock, span := m.ramp } } } := by
  unfold State.captureDone State.enterRamping
  simp only [hm, if_neg (Nat.not_lt.mpr hcovered)]

/-- R107: the state in which the Power Path asks for the claim of its move. -/
def State.toClaiming (s : State) (m : Move) : State :=
  { s with power := { s.power with state := .claiming, move := some { m with stage := .claiming, claimOrder := some s.clock } } }

theorem State.captureDone_claims {s : State} {m : Move} (hm : s.power.move = some m)
    (hmore : s.draw.held.toNat < m.asked.toNat) : s.captureDone = (s.toClaiming m).askClaim m.asked := by
  unfold State.captureDone State.toClaiming
  simp only [hm, if_pos hmore]

/-! ### The capture failed -/

theorem execZeroCaptureEnd_failed {s : State} {z : ZeroCapture} (hz : s.rail.zeroCapture = some z) (hrounds : z.rounds = 16)
    (hback : z.backfeeds) :
    let u := s.captureOver.recordFault (backfeedFault z) none
    exec .zeroCaptureEnd s = .next
      (if s.faults.hasRoom then u.captureFailed.enterJudging s.faults.nextSequence else u.captureFailed) := by
  simp only [exec, execZeroCaptureEnd, hz, if_pos hrounds]
  exact if_pos hback

theorem State.captureFailed_of_noMove {s : State} (h : s.power.move = none) : s.captureFailed = s := by
  simp only [State.captureFailed, h]

/-- R41, R107: the Power Path goes back to the start state of its move, and the record in flight to JUDGING. -/
theorem State.captureFailed_judging {s : State} {m : Move} {r : Record} (hm : s.power.move = some m)
    (hjob : s.eng.job = .running) (hr : s.eng.copy = some r) (sequence : BitVec 16) :
    s.captureFailed.enterJudging sequence = { s with
      power := { s.power with state := m.start, move := none },
      eng := { s.eng with phase := .judging, judged := some sequence, timer := none },
      port := { s.port with owner := ownerReleased s } } := by
  have hflight : s.captureFailed.inFlight = true := by simp [State.inFlight, hjob, hr]
  rw [State.enterJudging, if_pos hflight, State.enterPhase_eq]
  simp only [State.captureFailed, hm]
  rfl

/-- With no claim outstanding a FAIL notice that sheds a stale CLAIM costs the mark alone (R126, R161). -/
theorem State.handFail_of_noClaim {s : State} (h : s.draw.claimState = .none_) (i : FaultInfo) (q : BitVec 16) :
    ∃ l mark, s.handFail i q = { s with line := l, draw := { s.draw with mark := mark } } := by
  unfold State.handFail
  dsimp only
  split
  · unfold State.claimDropped
    simp only [h]
    split
    · contradiction
    · contradiction
    · exact ⟨_, _, rfl⟩
  · exact ⟨_, s.draw.mark, rfl⟩

/-- With no claim outstanding a fault for which there is room reaches the Fault Recorder, the line and the mark alone. -/
theorem State.recordFault_of_noClaim {s : State} (h : s.draw.claimState = .none_) (hroom : s.faults.hasRoom = true)
    (i : FaultInfo) (a : Option GuardAction) :
    ∃ f l mark, s.recordFault i a = { s with faults := f, line := l, draw := { s.draw with mark := mark } } := by
  have hnotice : ∀ f : Recorder, ∃ l mark, ({ s with faults := f } : State).handFail i s.faults.nextSequence =
      { s with faults := f, line := l, draw := { s.draw with mark := mark } } := fun f =>
    State.handFail_of_noClaim (s := { s with faults := f }) h i _
  unfold State.recordFault
  split <;> exact ⟨_, hnotice _⟩

theorem floodEnds_move (s : State) : (floodEnds s).power.move = none := by
  unfold floodEnds
  split
  · assumption
  · rename_i m _
    cases m.stage <;> dsimp only
    all_goals split <;> rfl

/-- With no claim outstanding a fault at a flooded queue ends the move of an active job (R116, R138). -/
theorem State.recordFault_flood_move {s : State} (h : s.draw.claimState = .none_) (hfull : s.faults.hasRoom = false)
    (hactive : s.eng.job.active = true) (i : FaultInfo) (a : Option GuardAction) :
    (s.recordFault i a).power.move = none := by
  rw [State.recordFault_floods hfull]
  obtain ⟨l, mark, hnotice⟩ := State.handFail_of_noClaim (s := { s with faults := { s.faults with
    discarded := satInc s.faults.discarded, nextSequence := nextSequence s.faults.nextSequence } }) h i s.faults.nextSequence
  rw [hnotice, State.haltFlood, if_pos hactive, State.endMoveFlood_eq]
  simp only [State.haltActive_frame]
  exact floodEnds_move _

/-! ### The two ends of a capture -/

theorem backfeedFault_eq (z : ZeroCapture) :
    let byOne := z.onMain = true ∧ 200 < candidateZero z.sumMain
    backfeedFault z =
      { kind := .backfeed, source := .power, channel := some (if byOne then 1 else 3),
        observed := some (BitVec.ofNat 32 (if byOne then candidateZero z.sumMain else candidateZero z.sumStandby)),
        refA := some 200, refB := none } := by
  unfold backfeedFault int32
  by_cases h : z.onMain = true ∧ 200 < candidateZero z.sumMain <;> simp [h]

/-- Settles O33: the capture done or failed, by its candidates. -/
theorem zeroCaptureEndsDoneOrInBackfeed : Obligations.ZeroCaptureEndsDoneOrInBackfeed := by
  refine ⟨?_, ?_⟩
  · intro s z m hz hrounds hm one three claim hone hthree
    have hfair : ¬ z.backfeeds := by
      rintro (⟨hmain, habove⟩ | ⟨hstandby, habove⟩)
      · exact absurd (hone hmain) (Nat.not_le.mpr habove)
      · exact absurd (hthree hstandby) (Nat.not_le.mpr habove)
    have hcommand := execZeroCaptureEnd_done hz hrounds hfair
    have hzeroed := s.zeroed_eq z
    have hmove : (s.zeroed z).power.move = some m := hm
    refine ⟨(s.zeroed z).rail.channels, Rail.setZeros_get_main _ _ _ _, Rail.setZeros_get_standby _ _ _ _,
      fun i => Rail.setZeros_get_other _ _ _ _, fun hcovered => ?_, fun hmore => ?_⟩
    · rw [hcommand, State.captureDone_ramps hmove hcovered, hzeroed]
    · intro u
      have hu : (s.zeroed z).toClaiming m = u := congrArg (State.toClaiming · m) hzeroed
      have hasks : exec .zeroCaptureEnd s = .next (u.askClaim m.asked) := by
        rw [hcommand, State.captureDone_claims hmove hmore, hu]
      have hclaim := u.askClaim_asks m.asked
      exact ⟨⟨_, hasks, hclaim⟩, fun hmark haccepts => hasks.trans (congrArg _ ((hclaim.1 hmark).1 haccepts))⟩
  · intro s r z m hz hrounds hm hjob hr one three byOne info dropped hback
    have hinfo : backfeedFault z = info := backfeedFault_eq z
    have hcommand := execZeroCaptureEnd_failed hz hrounds hback
    rw [hinfo, show s.captureOver = dropped from rfl] at hcommand
    refine ⟨fun hplain => ?_, fun hclaim => ⟨_, _, State.recordFault_records dropped info none, hcommand, fun hfloods => ?_,
      fun hfloods => ?_⟩⟩
    · have hroom : s.faults.hasRoom = true := s.faults.hasRoom_iff.mpr fun h => Nat.not_le.mpr hplain.1 h.1
      have hrecorded := State.recordFault_plain (s := dropped) hplain info none
      rw [hcommand, if_pos hroom, hrecorded]
      exact congrArg _ (State.captureFailed_judging (s := withFault dropped info none) hm hjob hr _)
    · have hfull : s.faults.hasRoom = false := by
        rw [← Bool.not_eq_true, Recorder.hasRoom_iff]
        exact not_not.mpr hfloods
      have hactive : dropped.eng.job.active = true := congrArg JobState.active hjob
      have hended := State.recordFault_flood_move (s := dropped) hclaim hfull hactive info none
      rw [hfull]
      exact State.captureFailed_of_noMove hended
    · have hroom : s.faults.hasRoom = true := s.faults.hasRoom_iff.mpr hfloods
      obtain ⟨f, l, mark, hu⟩ := State.recordFault_of_noClaim (s := dropped) hclaim hroom info none
      rw [if_pos hroom, hu]
      refine State.captureFailed_judging (m := m) (r := r) ?_ ?_ ?_ _
      exacts [hm, hjob, hr]

end Sys2Proof.Machine
end

section
/-! PROOFS of the family "probe lanes and the capture buffer", 1: LANES and DRIVE, the waits of a strobe, and the capture
entry (O23, O36, O41). -/

namespace Sys2Proof.Machine

/-! ### Bytes and bits of a record and of the lines -/

theorem byteOf_getLsbD (r : Record) (n : Nat) {k : Nat} (h : k < 8) : (byteOf r n).getLsbD k = r.getLsbD (8 * n + k) := by
  simp [byteOf, h]

theorem laneOf_getLsbD (v : Levels) (n : Nat) {k : Nat} (h : k < 8) : (laneOf v n).getLsbD k = v.getLsbD (8 * n + k) := by
  simp [laneOf, h]

/-- A lane's byte is not 0 when one of its eight lines is set. -/
theorem laneOf_ne_zero_iff (v : Levels) (n : Nat) : laneOf v n ≠ 0 ↔ ∃ k, k < 8 ∧ v.getLsbD (8 * n + k) = true := by
  constructor
  · intro hne
    by_contra hnone
    push Not at hnone
    refine hne (BitVec.eq_of_getLsbD_eq fun k hk => ?_)
    rw [laneOf_getLsbD v n hk, Bool.eq_false_iff.mpr (hnone k hk)]
    exact BitVec.getLsbD_zero.symm
  · rintro ⟨k, hk, hset⟩ hzero
    rw [← laneOf_getLsbD v n hk, hzero] at hset
    exact Bool.false_ne_true (BitVec.getLsbD_zero.symm.trans hset)

theorem packLanes_getLsbD (f : Nat → Bool) {lane : Nat} (h : lane < 8) : (packLanes f).getLsbD lane = f lane := by
  unfold packLanes
  simp only [BitVec.getLsbD_append]
  interval_cases lane <;> simp

/-! ### LANES and DRIVE -/

/-- The lane mask of one lane. -/
theorem laneBit_getLsbD (lane : Fin 8) {k : Nat} (h : k < 8) : (1#8 <<< lane.val).getLsbD k = decide (k = lane.val) := by
  have hall : ∀ lane k : Fin 8, (1#8 <<< lane.val).getLsbD k.val = decide (k.val = lane.val) := by decide
  exact hall lane ⟨k, h⟩

/-- A byte put into one lane: the lane's lines take its bits, and no other line changes (R52). -/
theorem mergeLines_lane_getLsbD (lane : Fin 8) (v : Levels) (b : Byte) {line : Nat} (h : line < 64) :
    (mergeLines (spread (1#8 <<< lane.val)) v (b.setWidth 64 <<< (8 * lane.val))).getLsbD line =
      if line / 8 = lane.val then b.getLsbD (line % 8) else v.getLsbD line := by
  rw [mergeLines_getLsbD _ _ _ h, spread_getLsbD _ h, laneBit_getLsbD lane (by omega)]
  by_cases hlane : line / 8 = lane.val
  · have hbit : line - 8 * lane.val = line % 8 := by omega
    have hstart : ¬ line < 8 * lane.val := by omega
    simp [hlane, h, hbit, hstart]
  · simp [hlane]

/-- R52: one lane's capture source set. -/
theorem setSource_getLsbD (source : BitVec 8) (lane : Fin 8) (qualified : Bool) {k : Nat} (h : k < 8) :
    (if qualified then source ||| 1#8 <<< lane.val else source &&& ~~~(1#8 <<< lane.val)).getLsbD k =
      if k = lane.val then qualified else source.getLsbD k := by
  cases qualified
  · rw [if_neg (by simp), BitVec.getLsbD_and, BitVec.getLsbD_not, laneBit_getLsbD lane h]
    by_cases hk : k = lane.val <;> simp [hk, h]
  · rw [if_pos rfl, BitVec.getLsbD_or, laneBit_getLsbD lane h]
    by_cases hk : k = lane.val <;> simp [hk]

/-- R53: a line's drive bit stands in its lane's byte. -/
theorem driveBytes_getLsbD (r : Record) {line : Nat} (h : line < 64) :
    (driveBytes r).getLsbD line = (byteOf r (3 + line / 8)).getLsbD (line % 8) := by
  rw [byteOf_getLsbD r _ (by omega), driveBytes, BitVec.getLsbD_extractLsb', show 8 * (3 + line / 8) + line % 8 = 24 + line by omega]
  simp [h]

/-- Settles O23: each record found by the command of its kind, its lines one by one, and the completion. -/
theorem lanesAndDriveSetTheProbeLanes : Obligations.LanesAndDriveSetTheProbeLanes := by
  intro s r hr hm hp
  have hcompletes : ∀ p, Completes { s with probe := p } (({ s with probe := p } : State).complete .done .advance) r .done :=
    fun _ => State.complete_completes .done hm hr.2.2.2 hr.1 hp
  refine ⟨fun hk => ⟨_, s.probe.setLanes (lanesOp r), ?_, hcompletes _, rfl, fun line h => ⟨?_, ?_⟩, fun lane h => ?_⟩,
    fun hk => ⟨_, { s.probe with drive := mergeLines (spread (driveSelect r)) s.probe.drive (driveBytes r) }, ?_,
      hcompletes _, rfl, fun line h => ?_⟩⟩
  · simp only [exec, execStepLanes, hr.awaitingKind hk]
  · exact mergeLines_lane_getLsbD (lanesOp r).lane s.probe.direction (byteOf r 3) h
  · exact mergeLines_lane_getLsbD (lanesOp r).lane s.probe.polarity (byteOf r 4) h
  · exact setSource_getLsbD s.probe.source (lanesOp r).lane (lanesOp r).qualified h
  · simp only [exec, execStepDrive, hr.awaitingKind hk]
  · rw [← driveBytes_getLsbD r h]
    exact (mergeLines_getLsbD _ _ _ h).trans (by rw [spread_getLsbD _ h]; rfl)

/-! ### The waits of a strobe -/

/-- R54, R56: the hold-off line is active. -/
theorem holdOffInactive_of_active {r : Record} {sensed : Levels}
    (h : ¬ (63 < (byteOf r 7).toNat ∨ sensed.getLsbD (byteOf r 7).toNat = false)) :
    holdOffInactive (sampleOp r) sensed = false := by
  obtain ⟨hline, hlevel⟩ := not_or.mp h
  have hholdOff : (sampleOp r).holdOff = some (byteOf r 7).toNat := if_pos (Nat.le_of_not_lt hline)
  simp [holdOffInactive, hholdOff, Bool.eq_true_of_not_eq_false hlevel]

/-- The qualifier wait begins at the end of the hold-off wait, with the QUALIFIED lanes still to be captured (R56, R57). -/
theorem State.holdOffEnded_of_qualified (s : State) {r : Record} (start : Time) (points : Levels)
    (h : s.probe.source ≠ 0 ∧ (byteOf r 5).toNat ≤ 63) :
    s.holdOffEnded (sampleOp r) start points = { s with probe := { s.probe with
      strobe := some { stage := .qualifier, start := start,
                       levels := (points ^^^ s.probe.polarity) &&& ~~~(qualifiedLines s.probe) } } } := by
  obtain ⟨hsource, hline⟩ := h
  have hqualifier : (sampleOp r).qualifier = some (byteOf r 5).toNat := if_pos hline
  refine if_neg (not_or.mpr ⟨hsource, ?_⟩)
  rw [hqualifier]
  exact Option.some_ne_none _

/-- R56: the lines of the IMMEDIATE lanes keep their levels beside those of the QUALIFIED lanes. -/
theorem immediateLevels_getLsbD (p : Probe) (sensed : Levels) {line : Nat} (h : line < 64)
    (himmediate : p.source.getLsbD (line / 8) = false) :
    (sensed &&& ~~~(qualifiedLines p)).getLsbD line = sensed.getLsbD line := by
  rw [BitVec.getLsbD_and, BitVec.getLsbD_not, qualifiedLines, spread_getLsbD _ h, himmediate]
  simp [h]

/-- Settles O36: the three ways into a wait, each by the command whose event it is. -/
theorem strobeWaitsForHoldOffAndQualifier : Obligations.StrobeWaitsForHoldOffAndQualifier := by
  intro s r b points hb sensed holdOff released qualified into
  refine ⟨fun hr helapsed => ?_, fun hr hstage hreleased hqualified => ?_⟩
  · have hsettle : settleElapsed b.start s.clock (sampleOp r).settle = true := helapsed
    have hcommand : exec (.settleEnd points) s = .next (s.settleEnded (sampleOp r) points) := by
      simp only [exec, execSettleEnd, hr.strobeIn hb, hsettle, if_true]
    refine ⟨fun hactive => ?_, fun hreleased hqualified => ⟨_, hcommand.trans (congrArg _ ?_),
      fun line h => immediateLevels_getLsbD s.probe sensed h⟩⟩
    · have hwaits : ¬ holdOffInactive (sampleOp r) (sensedLevels s.probe points) = true :=
        Bool.eq_false_iff.mp (holdOffInactive_of_active hactive)
      exact hcommand.trans (congrArg _ (if_neg hwaits))
    · exact (if_pos (holdOffInactive_of_released hreleased)).trans
        ((s.atPhase .strobe).holdOffEnded_of_qualified s.clock points hqualified)
  · have hinactive : b.stage = .holdOff ∧ holdOffInactive (sampleOp r) (sensedLevels s.probe points) = true :=
      ⟨hstage, holdOffInactive_of_released hreleased⟩
    have hphase : { s.eng with phase := .strobe } = s.eng := by rw [← hr.2.1]
    refine ⟨_, ?_, fun line h => immediateLevels_getLsbD s.probe sensed h⟩
    simp only [exec, execHoldOffRelease, hr.strobeIn hb, if_pos hinactive]
    rw [s.holdOffEnded_of_qualified b.start points hqualified]
    simp only [into, hphase]
    rfl

/-! ### The capture entry -/

section
variable (step : RingIndex) (stamp : Time) (levels : Levels) (timedOut taken : Bool) (result : FieldResult) (mask : BitVec 8)

/-! The fields of an entry, each at its bytes (R63, R181). -/

theorem captureEntry_step : halfOf (captureEntry step stamp levels timedOut taken result mask) 0 = step.setWidth 16 := by
  rw [halfOf, captureEntry, BitVec.extractLsb'_append_eq_of_add_le (by decide), BitVec.extractLsb'_eq_self]

theorem captureEntry_stamp : wordOf (captureEntry step stamp levels timedOut taken result mask) 2 = stamp := by
  rw [wordOf, captureEntry, BitVec.extractLsb'_append_eq_of_le (by decide), BitVec.extractLsb'_append_eq_of_add_le (by decide)]
  exact BitVec.extractLsb'_eq_self

theorem captureEntry_lane {lane : Nat} (h : lane < 8) :
    byteOf (captureEntry step stamp levels timedOut taken result mask) (6 + lane) = laneOf levels lane := by
  rw [byteOf, captureEntry, BitVec.extractLsb'_append_eq_of_le (by omega), BitVec.extractLsb'_append_eq_of_le (by omega),
    BitVec.extractLsb'_append_eq_of_add_le (by omega), laneOf]
  congr 1
  omega

theorem captureEntry_flags : byteOf (captureEntry step stamp levels timedOut taken result mask) 14 =
    BitVec.ofNat 4 0 ++ BitVec.ofNat 2 result.code ++ BitVec.ofBool taken ++ BitVec.ofBool timedOut := by
  rw [byteOf, captureEntry, BitVec.extractLsb'_append_eq_of_le (by decide), BitVec.extractLsb'_append_eq_of_le (by decide),
    BitVec.extractLsb'_append_eq_of_le (by decide), BitVec.extractLsb'_append_eq_of_add_le (by decide)]
  exact BitVec.extractLsb'_eq_self

theorem captureEntry_mask : byteOf (captureEntry step stamp levels timedOut taken result mask) 15 = mask := by
  rw [byteOf, captureEntry, BitVec.extractLsb'_append_eq_of_le (by decide), BitVec.extractLsb'_append_eq_of_le (by decide),
    BitVec.extractLsb'_append_eq_of_le (by decide), BitVec.extractLsb'_append_eq_of_le (by decide)]
  exact BitVec.extractLsb'_eq_self

end

/-- The flag byte as a number: two flags and the field result above them (R181). -/
theorem captureFlags_toNat (timedOut taken : Bool) (result : FieldResult) :
    (BitVec.ofNat 4 0 ++ BitVec.ofNat 2 result.code ++ BitVec.ofBool taken ++ BitVec.ofBool timedOut).toNat =
      timedOut.toNat + 2 * taken.toNat + 4 * result.code := by
  cases result <;> revert timedOut taken <;> decide

/-- R59: a lane mismatches when one of its driven lines reads otherwise than it is driven. -/
theorem mismatchMask_getLsbD (p : Probe) (levels : Levels) {lane : Nat} (h : lane < 8) :
    (mismatchMask p levels).getLsbD lane = true ↔ ∃ k, k < 8 ∧ p.direction.getLsbD (8 * lane + k) = true ∧
      levels.getLsbD (8 * lane + k) ≠ p.drive.getLsbD (8 * lane + k) := by
  rw [mismatchMask, packLanes_getLsbD _ h, bne_iff_ne, laneOf_ne_zero_iff]
  simp only [BitVec.getLsbD_and, BitVec.getLsbD_xor, Bool.and_eq_true, bne_iff_ne]

/-- Settles O41: each field read from its bytes, and the mask from the lanes. -/
theorem captureEntryIsLaidOutByteByByte : Obligations.CaptureEntryIsLaidOutByteByByte := by
  intro p step stamp levels timedOut taken result e
  refine ⟨captureEntry_step .., captureEntry_stamp .., fun lane h => captureEntry_lane _ _ _ _ _ _ _ h, ?_, fun lane h => ?_⟩
  · exact (congrArg BitVec.toNat (captureEntry_flags ..)).trans (captureFlags_toNat timedOut taken result)
  · rw [captureEntry_mask]
    exact mismatchMask_getLsbD p levels h

end Sys2Proof.Machine
end

section
/-! PROOFS of the family "probe lanes and the capture buffer", 2: the settings, which change only at their commands (O12). -/

namespace Sys2Proof.Machine

/-! ### The check context -/

/-- The field path moves the previous code alone (R70, R75). -/
theorem fieldPath_parts (c : CheckContext) (levels : Levels) :
    (fieldPath c levels).2.field = c.field ∧ (fieldPath c levels).2.limits = c.limits := by
  unfold fieldPath
  dsimp only
  split <;> exact ⟨rfl, rfl⟩

theorem State.strobeComplete_parts (s : State) (levels : Levels) (qualifiedTaken : Bool) :
    (s.strobeComplete levels qualifiedTaken).check.field = s.check.field ∧
    (s.strobeComplete levels qualifiedTaken).check.limits = s.check.limits := by
  unfold State.strobeComplete
  split
  · exact ⟨rfl, rfl⟩
  · dsimp only
    split <;> simp [fieldPath_parts]

theorem State.holdOffEnded_parts (s : State) (o : SampleOp) (start : Time) (points : Levels) :
    (s.holdOffEnded o start points).check.field = s.check.field ∧
    (s.holdOffEnded o start points).check.limits = s.check.limits := by
  unfold State.holdOffEnded
  dsimp only
  split
  · exact s.strobeComplete_parts _ _
  · exact ⟨rfl, rfl⟩

theorem State.settleEnded_parts (s : State) (o : SampleOp) (points : Levels) :
    (s.settleEnded o points).check.field = s.check.field ∧ (s.settleEnded o points).check.limits = s.check.limits := by
  unfold State.settleEnded
  dsimp only
  split
  · exact State.holdOffEnded_parts _ _ _ _
  · exact ⟨rfl, rfl⟩

/-! The strobe's three completing events leave both parts of the context (R60). -/

theorem execSettleEnd_parts {points : Levels} {s t : State} (h : execSettleEnd points s = .next t) :
    t.check.field = s.check.field ∧ t.check.limits = s.check.limits := by
  unfold execSettleEnd at h
  repeat' split at h
  all_goals cases h
  · exact ⟨rfl, rfl⟩
  · exact s.settleEnded_parts _ _
  · exact ⟨rfl, rfl⟩

theorem execHoldOffRelease_parts {points : Levels} {s t : State} (h : execHoldOffRelease points s = .next t) :
    t.check.field = s.check.field ∧ t.check.limits = s.check.limits := by
  unfold execHoldOffRelease at h
  repeat' split at h
  all_goals cases h
  · exact ⟨rfl, rfl⟩
  · exact s.holdOffEnded_parts _ _ _
  · exact ⟨rfl, rfl⟩

theorem execQualifierEdge_parts {points : Levels} {s t : State} (h : execQualifierEdge points s = .next t) :
    t.check.field = s.check.field ∧ t.check.limits = s.check.limits := by
  unfold execQualifierEdge at h
  repeat' split at h
  all_goals cases h
  · exact ⟨rfl, rfl⟩
  · exact s.strobeComplete_parts _ _
  · exact ⟨rfl, rfl⟩

theorem execStepField_limits {s t : State} (h : execStepField s = .next t) : t.check.limits = s.check.limits := by
  unfold execStepField at h
  repeat' split at h
  all_goals cases h; simp

theorem execStepLimits_field_vprev {s t : State} (h : execStepLimits s = .next t) :
    t.check.field = s.check.field ∧ t.check.vprev = s.check.vprev := by
  unfold execStepLimits at h
  repeat' split at h
  all_goals cases h; simp

/-! ### Gains and zero codes -/

/-- R83: every channel has the gain and the zero code it had. -/
def Rail.SameScales (r r' : Rail) : Prop :=
  ∀ c : Fin 8, (r'.channels.get c).gain = (r.channels.get c).gain ∧ (r'.channels.get c).zero = (r.channels.get c).zero

theorem Rail.roundChannels_get (r : Rail) (codes : Vector (BitVec 12) 8) (p : PowerState) (c : Fin 8) :
    (r.roundChannels codes p).get c = (r.channels.get c).round c (codes.get c) p := by
  fin_cases c <;> rfl

theorem execUpdateRound_scales {codes : Vector (BitVec 12) 8} {s t : State} (h : execUpdateRound codes s = .next t) :
    s.rail.SameScales t.rail := by
  cases h
  intro c
  rw [show (s.rail.round codes s.power s.draw.held).channels = s.rail.roundChannels codes s.power.state from rfl,
    Rail.roundChannels_get]
  exact ⟨rfl, rfl⟩

theorem State.setGuard_scales (s : State) (i : Fin 8) (g : Guard) : s.rail.SameScales (s.setGuard i g).rail := by
  intro c
  rw [State.setGuard, Rail.setChannel_get]
  by_cases hc : c = i
  · rw [if_pos hc, hc]
    exact ⟨rfl, rfl⟩
  · rw [if_neg hc]
    exact ⟨rfl, rfl⟩

theorem execGuardFault_scales {channel : Fin 8} {s t : State} (h : execGuardFault channel s = .next t) :
    s.rail.SameScales t.rail := by
  unfold execGuardFault at h
  dsimp only at h
  split at h <;> cases h
  · exact fun c => by simp [s.setGuard_scales _ _ c]
  · exact fun c => ⟨rfl, rfl⟩

theorem execGuardRearm_scales {channel : Fin 8} {s t : State} (h : execGuardRearm channel s = .next t) :
    s.rail.SameScales t.rail := by
  unfold execGuardRearm at h
  dsimp only at h
  split at h <;> cases h
  · exact s.setGuard_scales _ _
  · exact fun c => ⟨rfl, rfl⟩

theorem execStepGuard_scales {s t : State} (h : execStepGuard s = .next t) : s.rail.SameScales t.rail := by
  unfold execStepGuard at h
  split at h <;> cases h
  · exact fun c => ⟨rfl, rfl⟩
  · exact fun c => by simp [s.setGuard_scales _ _ c]

/-- R86: SCALE leaves the zero codes. -/
theorem State.setScale_zero (s : State) (o : ScaleOp) (c : Fin 8) :
    ((s.setScale o).rail.channels.get c).zero = (s.rail.channels.get c).zero := by
  rw [State.setScale, Rail.setChannel_get]
  by_cases hc : c = o.channel
  · rw [if_pos hc, hc]
    rfl
  · rw [if_neg hc]

theorem execStepScale_zero {s t : State} (h : execStepScale s = .next t) (c : Fin 8) :
    (t.rail.channels.get c).zero = (s.rail.channels.get c).zero := by
  unfold execStepScale at h
  split at h <;> cases h
  · rfl
  · simp [State.setScale_zero]

/-- R89: new zero codes leave the gains. -/
theorem Rail.setZeros_gain (r : Rail) (z : ZeroCapture) (main standby : Nat) (c : Fin 8) :
    ((r.setZeros z main standby).channels.get c).gain = (r.channels.get c).gain := by
  by_cases h1 : c = 1
  · rw [h1, Rail.setZeros_get_main]
  · by_cases h3 : c = 3
    · rw [h3, Rail.setZeros_get_standby]
    · rw [Rail.setZeros_get_other _ _ _ _ h1 h3]

/-- The channels behind the end of a zero capture: as they were, or with the new zero codes (R89). -/
theorem execZeroCaptureEnd_channels {s t : State} (h : execZeroCaptureEnd s = .next t) :
    t.rail.channels = s.rail.channels ∨ ∃ z, t.rail.channels = (s.zeroed z).rail.channels := by
  unfold execZeroCaptureEnd at h
  split at h
  · cases h
    exact .inl rfl
  · rename_i z _
    dsimp only at h
    repeat' split at h
    all_goals cases h
    · exact .inl (by simp)
    · exact .inl (by simp)
    · exact .inr ⟨z, by simp [State.zeroed, State.captureOver]⟩
    · exact .inl rfl

theorem execZeroCaptureEnd_scales {s t : State} (h : execZeroCaptureEnd s = .next t) (c : Fin 8) :
    (t.rail.channels.get c).gain = (s.rail.channels.get c).gain ∧
    (c ≠ 1 → c ≠ 3 → (t.rail.channels.get c).zero = (s.rail.channels.get c).zero) := by
  obtain hchannels | ⟨z, hchannels⟩ := execZeroCaptureEnd_channels h
  · rw [hchannels]
    exact ⟨rfl, fun _ _ => rfl⟩
  · rw [hchannels]
    exact ⟨Rail.setZeros_gain .., fun h1 h3 => congrArg Channel.zero (Rail.setZeros_get_other _ _ _ _ h1 h3)⟩

/-- CLEAR keeps the zero codes (R103). -/
theorem State.clear_zero (s : State) (c : Fin 8) :
    (s.clear.rail.channels.get c).zero = (s.rail.channels.get c).zero := by
  have hchannels : s.clear.rail.channels = s.rail.cleared.channels := by simp [State.clear]
  rw [hchannels, Rail.cleared_channel]
  rfl

theorem execServeClear_zero {s t : State} (h : execServeClear s = .next t) (c : Fin 8) :
    (t.rail.channels.get c).zero = (s.rail.channels.get c).zero := by
  unfold execServeClear at h
  split at h
  · cases h
    rfl
  · rename_i q _
    cases h
    rcases s.controlReply_cases q 5 (s.clearVerdict q.payload) with ⟨code, -, hreply⟩ | ⟨u, hu, hreply⟩
    · rw [hreply]
      simp
    · have hclear : s.clear = u := by
        unfold State.clearVerdict at hu
        repeat' split at hu
        all_goals cases hu
        rfl
      rw [hreply, ← hclear]
      simp [State.clear_zero]

/-! ### Command by command -/

/-- RESET apart, the settings stand under every command but their own; the draw table stands under every command but
PENDING_EXPIRY and the frames read. -/
theorem exec_settings_frame {i : Instr} {s t : State} (h : exec i s = .next t) (hreset : ∀ slot rate, i ≠ .reset slot rate) :
    (i ≠ .stepLanes → i ≠ .serveClear → t.probe.direction = s.probe.direction ∧
      t.probe.polarity = s.probe.polarity ∧ t.probe.source = s.probe.source) ∧
    (i ≠ .stepDrive → i ≠ .serveClear → t.probe.drive = s.probe.drive) ∧
    (i ≠ .stepField → i ≠ .serveClear → t.check.field = s.check.field) ∧
    (i ≠ .stepLimits → i ≠ .serveClear → t.check.limits = s.check.limits) ∧
    (i ≠ .stepScale → i ≠ .serveClear → ∀ c : Fin 8, (t.rail.channels.get c).gain = (s.rail.channels.get c).gain) ∧
    (∀ c : Fin 8, i ≠ .zeroCaptureEnd ∨ (c ≠ 1 ∧ c ≠ 3) → (t.rail.channels.get c).zero = (s.rail.channels.get c).zero) ∧
    (i ≠ .stepField → i ≠ .serveClear → (∀ l, i ≠ .settleEnd l) → (∀ l, i ≠ .holdOffRelease l) →
      (∀ l, i ≠ .qualifierEdge l) → t.check.vprev = s.check.vprev) ∧
    (frameRead i = none → (∀ x, i ≠ .pendingExpiry x) → t.draw.table = s.draw.table) := by
  cases i with
  | reset slot rate => exact absurd rfl (hreset slot rate)
  | frameReceivedBad frame framing =>
    refine ⟨?_, ?_, ?_, ?_, ?_, ?_, ?_, fun hf _ => ?_⟩
    case refine_8 =>
      have hbad : rawBad { toFrame := frame, toFraming := framing } = true := by simpa [frameRead] using hf
      cases (execFrameReceivedBad_of_rawBad hbad s).symm.trans h
      split <;> rfl
    all_goals simp [execFrameReceivedBad_frame h]
  | updateRound => simp [execUpdateRound_frame h, execUpdateRound_scales h _]
  | guardFault => simp [execGuardFault_frame h, execGuardFault_scales h _]
  | guardRearm => simp [execGuardRearm_frame h, execGuardRearm_scales h _]
  | zeroCaptureEnd => simp +contextual [execZeroCaptureEnd_frame h, execZeroCaptureEnd_scales h _]
  | settleEnd => simp [execSettleEnd_frame h, execSettleEnd_parts h]
  | holdOffRelease => simp [execHoldOffRelease_frame h, execHoldOffRelease_parts h]
  | qualifierEdge => simp [execQualifierEdge_frame h, execQualifierEdge_parts h]
  | stepField => simp [execStepField_frame h, execStepField_limits h]
  | stepLimits => simp [execStepLimits_frame h, execStepLimits_field_vprev h]
  | stepGuard => simp [execStepGuard_frame h, execStepGuard_scales h _]
  | stepScale => simp [execStepScale_frame h, execStepScale_zero h]
  | serveClear => simp [execServeClear_frame h, execServeClear_zero h]
  | pendingExpiry => simp [execPendingExpiry_frame h]
  | frameFail => simp [execFrameFail_frame h, frameRead]
  | frameClaim => simp [execFrameClaim_frame h, frameRead]
  | frameDraw => simp [execFrameDraw_frame h, frameRead]
  | frameJoin => simp [execFrameJoin_frame h, frameRead]
  | frameSetup => simp [execFrameSetup_frame h, frameRead]
  | benchRequestArrival => simp [execBenchRequestArrival_frame h, frameRead]
  | duplicateSlotFrame => simp [execDuplicateSlotFrame_frame h, frameRead]
  | framePassedOver => simp [execFramePassedOver_frame h, frameRead]
  | stationTick => simp [execStationTick_frame h]
  | tripDetection => simp [execTripDetection_frame h]
  | overdrawDetection => simp [execOverdrawDetection_frame h]
  | rampExpiry => simp [execRampExpiry_frame h]
  | railcheckAverageEnd => simp [execRailcheckAverageEnd_frame h]
  | strobeTimerExpiry => simp [execStrobeTimerExpiry_frame h]
  | waitExpiry => simp [execWaitExpiry_frame h]
  | recoverExpiry => simp [execRecoverExpiry_frame h]
  | stepLanes => simp [execStepLanes_frame h]
  | stepDrive => simp [execStepDrive_frame h]
  | stepSample => simp [execStepSample_frame h]
  | stepRailcheck => simp [execStepRailcheck_frame h]
  | stepPower => simp [execStepPower_frame h]
  | stepWait => simp [execStepWait_frame h]
  | stepRepeat => simp [execStepRepeat_frame h]
  | stepMark => simp [execStepMark_frame h]
  | stepStop => simp [execStepStop_frame h]
  | unknownStepKind => simp [execUnknownStepKind_frame h]
  | coincidenceJudgement => simp [execCoincidenceJudgement_frame h]
  | ownClaimTaken => simp [execOwnClaimTaken_frame h]
  | claimJudgement => simp [execClaimJudgement_frame h]
  | backoffExpiry => simp [execBackoffExpiry_frame h]
  | frameBegin => simp [execFrameBegin_frame h]
  | contentionLost => simp [execContentionLost_frame h]
  | bitError => simp [execBitError_frame h]
  | frameSent => simp [execFrameSent_frame h]
  | serveLoad => simp [execServeLoad_frame h]
  | servePost => simp [execServePost_frame h]
  | servePeek => simp [execServePeek_frame h]
  | benchAccessGrant => simp [execBenchAccessGrant_frame h]
  | serveStart => simp [execServeStart_frame h]
  | servePause => simp [execServePause_frame h]
  | serveResume => simp [execServeResume_frame h]
  | serveAbort => simp [execServeAbort_frame h]
  | serveRing => simp [execServeRing_frame h]
  | serveUnknownAction => simp [execServeUnknownAction_frame h]
  | serveQueryStatus => simp [execServeQueryStatus_frame h]
  | serveQueryReadings => simp [execServeQueryReadings_frame h]
  | serveQueryUnknown => simp [execServeQueryUnknown_frame h]
  | serveFaultRead => simp [execServeFaultRead_frame h]
  | serveFaultTrim => simp [execServeFaultTrim_frame h]

/-! ### The draw table -/

theorem State.setPeer_table_get (s : State) {slot x : Fin 30} (e : PeerEntry) (h : slot ≠ x) :
    (s.setPeer slot e).draw.table.get x = s.draw.table.get x :=
  Vector.getElem_set_ne slot.isLt x.isLt fun hval => h (Fin.ext hval)

/-- R123: the end of one peer's pending leaves the other entries, and an entry with no pending has none to end. -/
theorem execPendingExpiry_table {slot : Fin 30} {s t : State} (h : execPendingExpiry slot s = .next t) {x : Fin 30}
    (hx : slot ≠ x ∨ (s.draw.table.get x).pending = none) : t.draw.table.get x = s.draw.table.get x := by
  unfold execPendingExpiry at h
  split at h
  · cases h
    rfl
  · rename_i p hp
    have hne : slot ≠ x := hx.elim id fun hnone heq => by
      rw [heq, hnone] at hp
      cases hp
    split at h <;> cases h
    · exact s.setPeer_table_get _ hne
    · rfl

/-- An entry changes only at a frame read or at the end of its own pending (R118 to R123). -/
theorem exec_table_get {i : Instr} {s t : State} (h : exec i s = .next t) (hreset : ∀ slot rate, i ≠ .reset slot rate)
    (hf : frameRead i = none) {x : Fin 30} (hx : i ≠ .pendingExpiry x ∨ (s.draw.table.get x).pending = none) :
    t.draw.table.get x = s.draw.table.get x := by
  by_cases hexpiry : ∃ slot, i = .pendingExpiry slot
  · obtain ⟨slot, rfl⟩ := hexpiry
    exact execPendingExpiry_table h (hx.imp_left fun hne heq => hne (congrArg _ heq))
  · obtain ⟨-, -, -, -, -, -, -, htable⟩ := exec_settings_frame h hreset
    rw [htable hf (not_exists.mp hexpiry)]

/-- Settles O12, command by command, and entry by entry of the draw table. -/
theorem settingsChangeOnlyByTheirCommands : Obligations.SettingsChangeOnlyByTheirCommands := by
  intro i s t h hreset
  obtain ⟨hlanes, hdrive, hfield, hlimits, hgain, hzero, hvprev, -⟩ := exec_settings_frame h hreset
  refine ⟨hlanes, hdrive, hfield, hlimits, hgain, hzero, hvprev, fun x _ hexpiry hpeer => ?_, fun x hown hnone => ?_⟩
  · cases hf : frameRead i with
    | none => exact exec_table_get h hreset hf (.inl hexpiry)
    | some f =>
      cases (exec_of_frameRead hf s).symm.trans h
      obtain ⟨hother, -⟩ := s.receiveFrame_table f x
      exact hother (hpeer f hf)
  · cases hf : frameRead i with
    | none => exact exec_table_get h hreset hf (.inr hnone)
    | some f =>
      cases (exec_of_frameRead hf s).symm.trans h
      obtain ⟨-, hkept⟩ := s.receiveFrame_table f x
      exact hkept hown

end Sys2Proof.Machine
end

section
/-! PROOFS of the family "the check context and the field path", 1: FIELD and LIMITS, the code of a field, and the field path
(O24, O39, O40). -/

namespace Sys2Proof.Machine

/-! ### FIELD and LIMITS -/

/-- A geometry that the 64 lines hold is admitted (R68). -/
theorem fieldRefused_eq_false_iff (f : FieldPart) :
    fieldRefused f = false ↔ 1 ≤ f.width ∧ f.width ≤ 32 ∧ f.startLine + f.width ≤ 64 := by
  rw [fieldRefused, decide_eq_false_iff_not]
  omega

/-- LIMITS codes the mode RANGE as 2 alone (R69). -/
theorem limitsOp_mode_range (r : Record) : (limitsOp r).mode = .range ↔ byteOf r 2 = 2 := by
  simp only [limitsOp]
  split_ifs with hequal hrange
  · rw [hequal]
    decide
  · simp only [hrange]
  · simp only [hrange]

/-- A limit read by R69 under each signedness. -/
theorem limitValue_eq (g : Signedness) (x : BitVec 32) : limitValue g x = if g = .signed then x.toInt else (x.toNat : Int) := by
  cases g <;> rfl

/-- A LIMITS is admitted unless it is a RANGE whose B lies below its A (R69). -/
theorem limitsRefused_eq_false {g : Signedness} {r : Record}
    (h : ¬ (byteOf r 2 = 2 ∧ (if g = .signed then (wordOf r 8).toInt < (wordOf r 4).toInt
                              else (wordOf r 8).toNat < (wordOf r 4).toNat))) :
    limitsRefused g (limitsOp r) = false := by
  refine decide_eq_false fun hrefused => h ⟨(limitsOp_mode_range r).mp hrefused.1, ?_⟩
  have horder : limitValue g (wordOf r 8) < limitValue g (wordOf r 4) := hrefused.2
  cases g
  case unsigned => exact Int.ofNat_lt.mp horder
  case signed => exact horder

/-- Settles O24: the record is found and admitted, and completes on the context with its part replaced. -/
theorem fieldAndLimitsReplaceTheirPartOfTheContext : Obligations.FieldAndLimitsReplaceTheirPartOfTheContext := by
  intro s r hr hm hp
  obtain ⟨hjob, -, -, hcopy⟩ := id hr
  have hcompletes : ∀ c, Completes { s with check := c } (({ s with check := c } : State).complete .done .advance) r .done :=
    fun _ => State.complete_completes .done hm hcopy hjob hp
  refine ⟨fun hk hpos hwidth hlines => ⟨_, ?_, hcompletes _⟩, fun hk horder => ⟨_, ?_, hcompletes _⟩⟩
  · have hadmitted : fieldRefused (fieldOp r) = false := (fieldRefused_eq_false_iff _).mpr ⟨hpos, hwidth, hlines⟩
    simp only [exec, execStepField, hr.awaitingKind hk, hadmitted]
    rfl
  · simp only [exec, execStepLimits, hr.awaitingKind hk, limitsRefused_eq_false horder]
    rfl

/-! ### The code of a field -/

theorem widthMask_getLsbD {w : Nat} (h : w ≤ 32) (k : Nat) : (widthMask w).getLsbD k = decide (k < w) := by
  rw [widthMask, BitVec.getLsbD_ofNat, Nat.testBit_two_pow_sub_one, ← Bool.decide_and]
  exact decide_eq_decide.mpr (by omega)

/-- R71: bit `k` of the code extracted is line `start + k`, and no bit lies above the width. -/
theorem extractCode_getLsbD (f : FieldPart) (levels : Levels) (h : f.width ≤ 32) (k : Nat) :
    (extractCode f levels).getLsbD k = (decide (k < f.width) && levels.getLsbD (f.startLine + k)) := by
  rw [extractCode, BitVec.getLsbD_and, widthMask_getLsbD h, BitVec.getLsbD_setWidth, BitVec.getLsbD_ushiftRight]
  by_cases hk : k < f.width
  · simp [hk, hk.trans_le h]
  · simp [hk]

/-- The exclusive-or of a code and its first `n - 1` right shifts. -/
def shiftXor (g : BitVec 32) (n : Nat) : BitVec 32 := (List.range n).foldl (fun acc k => acc ^^^ (g >>> k)) 0

theorem grayDecode_eq (g : BitVec 32) : grayDecode g = shiftXor g 32 := rfl

theorem shiftXor_succ_getLsbD (g : BitVec 32) (n k : Nat) :
    (shiftXor g (n + 1)).getLsbD k = ((shiftXor g n).getLsbD k ^^ g.getLsbD (n + k)) := by
  simp [shiftXor, List.range_succ]

/-- The last shift of a longer exclusive-or falls on the bit below. -/
theorem shiftXor_getLsbD_below (g : BitVec 32) (n k : Nat) :
    (shiftXor g (n + 1)).getLsbD k = (g.getLsbD k ^^ (shiftXor g n).getLsbD (k + 1)) := by
  induction n with
  | zero => simp [shiftXor]
  | succ n ih =>
    rw [shiftXor_succ_getLsbD g (n + 1), ih, shiftXor_succ_getLsbD g n, Bool.xor_assoc, Nat.add_right_comm n 1 k,
      Nat.add_assoc n k 1]

/-- R72: each bit of a decoded code is its Gray bit exclusive-or'ed with the decoded bit above it. -/
theorem grayDecode_getLsbD (g : BitVec 32) (k : Nat) :
    (grayDecode g).getLsbD k = (g.getLsbD k ^^ (grayDecode g).getLsbD (k + 1)) := by
  have htop : g.getLsbD (31 + (k + 1)) = false := BitVec.getLsbD_of_ge _ _ (by omega)
  rw [grayDecode_eq, shiftXor_getLsbD_below, shiftXor_succ_getLsbD g 31, htop, Bool.xor_false]

/-- A Gray code with no bit above its width is decoded to a code with none. -/
theorem grayDecode_getLsbD_of_ge {g : BitVec 32} {w : Nat} (h : ∀ k, w ≤ k → g.getLsbD k = false) {k : Nat} (hk : w ≤ k) :
    (grayDecode g).getLsbD k = false := by
  have hall : ∀ n, (shiftXor g n).getLsbD k = false := by
    intro n
    induction n with
    | zero => simp [shiftXor]
    | succ n ih => rw [shiftXor_succ_getLsbD, ih, h _ (by omega), Bool.xor_false]
  exact hall 32

/-- No bit of a field's code lies above its width (R71, R72). -/
theorem fieldCode_getLsbD_of_ge (f : FieldPart) (levels : Levels) (h : f.width ≤ 32) {k : Nat} (hk : f.width ≤ k) :
    (fieldCode f levels).getLsbD k = false := by
  have hextract : ∀ k, f.width ≤ k → (extractCode f levels).getLsbD k = false := fun k hk => by
    simp [extractCode_getLsbD f levels h, hk]
  unfold fieldCode
  split
  · exact hextract k hk
  · exact grayDecode_getLsbD_of_ge hextract hk

/-- R67, R75: a code read is a code of the field's width. -/
theorem fieldCode_lt (f : FieldPart) (levels : Levels) (h : f.width ≤ 32) : (fieldCode f levels).toNat < 2 ^ f.width :=
  Nat.lt_pow_two_of_testBit _ fun _ hk => fieldCode_getLsbD_of_ge f levels h hk

/-- The top bit of a code of `w` bits is set when the code lies in the upper half (R73). -/
theorem getLsbD_top_iff {b : BitVec 32} {w : Nat} (hpos : 1 ≤ w) (hb : b.toNat < 2 ^ w) :
    b.getLsbD (w - 1) = true ↔ 2 ^ (w - 1) ≤ b.toNat :=
  ⟨Nat.ge_two_pow_of_testBit, fun hle => Nat.testBit_of_two_pow_le_and_two_pow_add_one_gt hle (by rwa [Nat.sub_add_cancel hpos])⟩

/-- Twice the half range of a width is its range. -/
theorem two_pow_eq_half_add_half {w : Nat} (hpos : 1 ≤ w) : (2 ^ w : Int) = 2 ^ (w - 1) + 2 ^ (w - 1) := by
  exact_mod_cast (Nat.two_pow_pred_add_two_pow_pred hpos).symm

/-- R73: a signed code lies in the two's complement range of its width. -/
theorem fieldValue_signed_range {f : FieldPart} {b : BitVec 32} (hpos : 1 ≤ f.width) (hb : b.toNat < 2 ^ f.width)
    (hs : f.signedness = .signed) :
    -(2 ^ (f.width - 1) : Int) ≤ fieldValue f b ∧ fieldValue f b < 2 ^ (f.width - 1) := by
  have hrange := two_pow_eq_half_add_half hpos
  have hb' : (b.toNat : Int) < 2 ^ f.width := by exact_mod_cast hb
  have htop : b.getLsbD (f.width - 1) = true ↔ (2 ^ (f.width - 1) : Int) ≤ b.toNat := by
    rw [getLsbD_top_iff hpos hb]
    exact_mod_cast Iff.rfl
  simp only [fieldValue, hs, htop]
  split <;> omega

/-- Settles O39: the extracted bits, the decode from the top bit down, and the two readings of the code. -/
theorem fieldIsExtractedDecodedAndInterpreted : Obligations.FieldIsExtractedDecodedAndInterpreted := by
  intro f levels hpos hwidth _ g b
  have hb : b.toNat < 2 ^ f.width := fieldCode_lt f levels hwidth
  refine ⟨fun k _ => extractCode_getLsbD f levels hwidth k, hb, fun hbinary => ?_, fun hgray => ?_, fun hs => ?_, fun hs => ?_,
    fieldValue_signed_range hpos hb⟩
  · simp only [b, g, fieldCode, hbinary]
  · have hdecoded : b = grayDecode g := by simp only [b, g, fieldCode, hgray]
    have habove : b.getLsbD (f.width - 1 + 1) = false :=
      fieldCode_getLsbD_of_ge f levels hwidth (Nat.sub_add_cancel hpos).ge
    rw [hdecoded] at habove ⊢
    refine ⟨?_, fun k _ => grayDecode_getLsbD g k⟩
    rw [grayDecode_getLsbD, habove, Bool.xor_false]
  · simp only [fieldValue, hs]
  · simp only [fieldValue, hs]

/-! ### The change limit -/

/-- R74: the folded difference is the one in the signed range of the width that the difference of the codes leaves. -/
theorem foldedDiff_spec {w : Nat} (hpos : 1 ≤ w) (b p : BitVec 32) :
    (2 ^ w : Int) ∣ ((b.toNat : Int) - p.toNat - foldedDiff w b p) ∧
    -(2 ^ (w - 1) : Int) ≤ foldedDiff w b p ∧ foldedDiff w b p < 2 ^ (w - 1) := by
  have hrange := two_pow_eq_half_add_half hpos
  have hmodulus : (0 : Int) < 2 ^ w := by positivity
  have hdvd := Int.dvd_self_sub_emod (x := (b.toNat : Int) - p.toNat) (m := 2 ^ w)
  have hnonneg := Int.emod_nonneg ((b.toNat : Int) - p.toNat) hmodulus.ne'
  have hlt := Int.emod_lt_of_pos ((b.toNat : Int) - p.toNat) hmodulus
  unfold foldedDiff
  dsimp only
  split
  · refine ⟨?_, by omega, by omega⟩
    rw [sub_sub_eq_add_sub, add_sub_right_comm]
    exact dvd_add hdvd dvd_rfl
  · exact ⟨hdvd, by omega, by omega⟩

/-- R74: the change limit rejects nothing without a previous code or with a limit of 0. -/
theorem changeRejects_of_unlimited {c : CheckContext} (h : c.vprev = none ∨ c.field.changeLimit = 0) (b : BitVec 32) :
    changeRejects c b = false := by
  unfold changeRejects
  split
  · rfl
  · rename_i p hp
    have hzero : c.field.changeLimit = 0 := h.resolve_left (by simp [hp])
    exact decide_eq_false fun hlimit => hlimit.1 hzero

/-- R74: against a previous code, a change limit rejects by the folded difference alone. -/
theorem changeRejects_iff {c : CheckContext} {p : BitVec 32} (hp : c.vprev = some p) (hlimit : c.field.changeLimit ≠ 0)
    (b : BitVec 32) :
    changeRejects c b = true ↔ c.field.changeLimit.toNat < (foldedDiff c.field.width b p).natAbs := by
  simp only [changeRejects, hp, decide_eq_true_eq, and_iff_right hlimit]

/-! ### The comparison -/

theorem comparePasses_none {c : CheckContext} (h : c.limits.mode = .none_) (b : BitVec 32) : comparePasses c b = true := by
  simp only [comparePasses, h]

/-- R76: EQUAL compares under the bits of B that lie in the field. -/
theorem comparePasses_equal {c : CheckContext} (h : c.limits.mode = .equal) (b : BitVec 32) :
    comparePasses c b = true ↔
      b &&& (c.limits.b &&& widthMask c.field.width) = c.limits.a &&& (c.limits.b &&& widthMask c.field.width) := by
  have hmask : c.limits.a &&& widthMask c.field.width &&& (c.limits.b &&& widthMask c.field.width) =
      c.limits.a &&& (c.limits.b &&& widthMask c.field.width) := by
    rw [BitVec.and_assoc, BitVec.and_comm c.limits.b, ← BitVec.and_assoc (widthMask _), BitVec.and_self]
  simp only [comparePasses, h, hmask, decide_eq_true_eq]

/-- R77: RANGE reads A, B and the code alike. -/
theorem comparePasses_range {c : CheckContext} (h : c.limits.mode = .range) (b : BitVec 32) :
    comparePasses c b = true ↔ limitValue c.field.signedness c.limits.a ≤ fieldValue c.field b ∧
      fieldValue c.field b ≤ limitValue c.field.signedness c.limits.b := by
  simp only [comparePasses, h, decide_eq_true_eq]

/-! ### The path -/

/-- R74: a rejected code ends the path. -/
theorem fieldPath_of_rejects {c : CheckContext} {levels : Levels} (h : changeRejects c (fieldCode c.field levels) = true) :
    fieldPath c levels = (.jump, c) := if_pos h

/-- R75: a code not rejected becomes the previous code, whatever the comparison gives. -/
theorem fieldPath_of_accepts {c : CheckContext} {levels : Levels} (h : ¬ changeRejects c (fieldCode c.field levels) = true) :
    fieldPath c levels = (if comparePasses c (fieldCode c.field levels) then .pass else .mismatch,
      { c with vprev := some (fieldCode c.field levels) }) := if_neg h

/-- Settles O40: the comparison mode by mode, and the change limit by the folded difference. -/
theorem fieldPathRejectsAcceptsAndCompares : Obligations.FieldPathRejectsAcceptsAndCompares := by
  intro c levels hpos _ w b v read mask passes accepted
  have hpasses : comparePasses c b = true ↔ passes := by
    cases hmode : c.limits.mode with
    | none_ => simp only [passes, hmode, comparePasses_none hmode]
    | equal =>
      simp only [passes, hmode]
      exact comparePasses_equal hmode b
    | range =>
      simp only [passes, hmode, read, ← limitValue_eq]
      exact comparePasses_range hmode b
  have haccepted : ¬ changeRejects c b = true → accepted := fun h => by
    simp only [accepted, fieldPath_of_accepts h, ← hpasses]
    exact ⟨rfl, fun hpass => if_pos hpass, fun hfail => if_neg hfail⟩
  refine ⟨fun hunlimited => haccepted (by simp [changeRejects_of_unlimited hunlimited]), fun p hp hlimit => ?_⟩
  obtain ⟨hdvd, hlow, hhigh⟩ := foldedDiff_spec hpos b p
  refine ⟨foldedDiff w b p, hdvd, hlow, hhigh, fun hfar => ?_, fun hnear => haccepted ?_⟩
  · exact fieldPath_of_rejects ((changeRejects_iff hp hlimit b).mpr hfar)
  · rw [changeRejects_iff hp hlimit b]
    exact not_lt.mpr hnear

end Sys2Proof.Machine
end

section
/-! PROOFS of the family "the check context and the field path", 2: the check context stays readable under every command (O6,
first part). -/

namespace Sys2Proof.Machine

/-! ### The commands that read a field -/

/-- R75: the field stands, and the previous code stands or is a code read by that field. -/
def CheckContext.SameOrAccepts (c c' : CheckContext) : Prop :=
  c'.field = c.field ∧ (c'.vprev = c.vprev ∨ ∃ levels, c'.vprev = some (fieldCode c.field levels))

theorem CheckContext.SameOrAccepts.refl (c : CheckContext) : c.SameOrAccepts c := ⟨rfl, .inl rfl⟩

theorem fieldPath_sameOrAccepts (c : CheckContext) (levels : Levels) : c.SameOrAccepts (fieldPath c levels).2 := by
  by_cases hrejects : changeRejects c (fieldCode c.field levels) = true
  · rw [fieldPath_of_rejects hrejects]
    exact .refl c
  · rw [fieldPath_of_accepts hrejects]
    exact ⟨rfl, .inr ⟨levels, rfl⟩⟩

theorem State.strobeComplete_sameOrAccepts (s : State) (levels : Levels) (qualifiedTaken : Bool) :
    s.check.SameOrAccepts (s.strobeComplete levels qualifiedTaken).check := by
  unfold State.strobeComplete
  split
  · exact .refl _
  · dsimp only
    split
    · simpa using fieldPath_sameOrAccepts s.check levels
    · simpa using CheckContext.SameOrAccepts.refl s.check

theorem State.holdOffEnded_sameOrAccepts (s : State) (o : SampleOp) (start : Time) (points : Levels) :
    s.check.SameOrAccepts (s.holdOffEnded o start points).check := by
  unfold State.holdOffEnded
  dsimp only
  split
  · exact s.strobeComplete_sameOrAccepts _ _
  · exact .refl _

theorem State.settleEnded_sameOrAccepts (s : State) (o : SampleOp) (points : Levels) :
    s.check.SameOrAccepts (s.settleEnded o points).check := by
  unfold State.settleEnded
  dsimp only
  split
  · exact State.holdOffEnded_sameOrAccepts { s with eng := { s.eng with phase := .strobe } } o s.clock points
  · exact .refl _

/-! The three events that can complete a strobe (R60). -/

theorem execSettleEnd_sameOrAccepts {points : Levels} {s t : State} (h : execSettleEnd points s = .next t) :
    s.check.SameOrAccepts t.check := by
  unfold execSettleEnd at h
  repeat' split at h
  all_goals cases h
  · exact .refl _
  · exact s.settleEnded_sameOrAccepts _ _
  · exact .refl _

theorem execHoldOffRelease_sameOrAccepts {points : Levels} {s t : State} (h : execHoldOffRelease points s = .next t) :
    s.check.SameOrAccepts t.check := by
  unfold execHoldOffRelease at h
  repeat' split at h
  all_goals cases h
  · exact .refl _
  · exact s.holdOffEnded_sameOrAccepts _ _ _
  · exact .refl _

theorem execQualifierEdge_sameOrAccepts {points : Levels} {s t : State} (h : execQualifierEdge points s = .next t) :
    s.check.SameOrAccepts t.check := by
  unfold execQualifierEdge at h
  repeat' split at h
  all_goals cases h
  · exact .refl _
  · exact s.strobeComplete_sameOrAccepts _ _
  · exact .refl _

/-- RESET, FIELD and CLEAR apart, a command leaves the field as it is and moves the previous code only to a code read. -/
theorem exec_check_sameOrAccepts {i : Instr} {s t : State} (h : exec i s = .next t)
    (hreset : ∀ slot rate, i ≠ .reset slot rate) (hfield : i ≠ .stepField) (hclear : i ≠ .serveClear) :
    s.check.SameOrAccepts t.check := by
  obtain ⟨-, -, hfieldStands, -, -, -, hvprevStands, -⟩ := exec_settings_frame h hreset
  cases i with
  | settleEnd points => exact execSettleEnd_sameOrAccepts h
  | holdOffRelease points => exact execHoldOffRelease_sameOrAccepts h
  | qualifierEdge points => exact execQualifierEdge_sameOrAccepts h
  | _ => exact ⟨hfieldStands hfield hclear, .inl (hvprevStands hfield hclear nofun nofun nofun)⟩

/-! ### FIELD, CLEAR and RESET -/

/-- R68: FIELD leaves the context, or puts in a field that the 64 lines hold and discards the previous code. -/
theorem execStepField_check {s t : State} (h : execStepField s = .next t) :
    t.check = s.check ∨
    ∃ f, fieldRefused f = false ∧ t.check = { s.check with field := f, vprev := none } := by
  unfold execStepField at h
  split at h
  · cases h
    exact .inl rfl
  · rename_i r _
    split at h <;> cases h
    · exact .inl (by simp)
    · rename_i hadmitted
      exact .inr ⟨fieldOp r, Bool.eq_false_iff.mpr hadmitted, by simp⟩

/-- R28: CLEAR leaves the context, the rails and the Power Path as they are, or as an accepted CLEAR leaves them. -/
theorem execServeClear_cases {s t : State} (h : execServeClear s = .next t) :
    ∃ u, (u = s ∨ u = s.clear) ∧ t.check = u.check ∧ t.rail = u.rail ∧ t.power = u.power := by
  unfold execServeClear at h
  split at h
  · cases h
    exact ⟨s, .inl rfl, rfl, rfl, rfl⟩
  · rename_i q _
    cases h
    rcases s.controlReply_cases q 5 (s.clearVerdict q.payload) with ⟨code, -, hreply⟩ | ⟨u, hu, hreply⟩
    · rw [hreply]
      exact ⟨s, .inl rfl, by simp⟩
    · have hclear : s.clear = u := by
        unfold State.clearVerdict at hu
        repeat' split at hu
        all_goals cases hu
        rfl
      rw [hreply]
      exact ⟨u, .inr hclear.symm, by simp⟩

/-! ### The invariant -/

/-- A context with the field of another and a code read by it is readable where that one is. -/
theorem State.ContextReadable.of_sameOrAccepts {s t : State} (hs : s.ContextReadable)
    (h : s.check.SameOrAccepts t.check) : t.ContextReadable := by
  obtain ⟨hpos, hwidth, hlines, hcode⟩ := hs
  obtain ⟨hfield, hvprev⟩ := h
  refine ⟨hfield ▸ hpos, hfield ▸ hwidth, hfield ▸ hlines, fun p hp => ?_⟩
  rw [hfield]
  rcases hvprev with hsame | ⟨levels, hread⟩
  · exact hcode p (hsame ▸ hp)
  · cases hread.symm.trans hp
    exact fieldCode_lt _ levels hwidth

/-- R68: a field just admitted is readable, and no previous code stands with it. -/
theorem State.contextReadable_of_admitted {t : State} (hfield : fieldRefused t.check.field = false)
    (hvprev : t.check.vprev = none) : t.ContextReadable := by
  obtain ⟨hpos, hwidth, hlines⟩ := (fieldRefused_eq_false_iff _).mp hfield
  exact ⟨hpos, hwidth, hlines, fun p hp => by cases hvprev.symm.trans hp⟩

/-- R67: the context after reset and after CLEAR is readable. -/
theorem State.contextReadable_of_reset {t : State} (h : t.check = CheckContext.reset) : t.ContextReadable :=
  State.contextReadable_of_admitted (by rw [h]; decide) (by rw [h]; rfl)

theorem exec_keeps_contextReadable {i : Instr} {s t : State} (hs : s.ContextReadable) (h : exec i s = .next t) :
    t.ContextReadable := by
  cases i with
  | reset slot rate =>
    cases h
    exact State.contextReadable_of_reset rfl
  | stepField =>
    rcases execStepField_check h with hsame | ⟨f, hadmitted, hcheck⟩
    · exact hs.of_sameOrAccepts (hsame ▸ .refl _)
    · exact State.contextReadable_of_admitted (by rw [hcheck]; exact hadmitted) (by rw [hcheck])
  | serveClear =>
    obtain ⟨u, rfl | rfl, hcheck, -⟩ := execServeClear_cases h
    · exact hs.of_sameOrAccepts (hcheck ▸ .refl _)
    · exact State.contextReadable_of_reset (hcheck.trans (by simp [State.clear]))
  | _ => exact hs.of_sameOrAccepts (exec_check_sameOrAccepts h nofun nofun nofun)

end Sys2Proof.Machine
end

section
/-! PROOFS of the family "the check context and the field path", 3: one rail channel and the counts of the Rail Monitor in their
ranges (O6). -/

namespace Sys2Proof.Machine

/-! ### One channel -/

/-- R83, R91: the debounce of a guard, and its count. -/
def Guard.CountInRange (g : Guard) : Prop := 1 ≤ g.debounce ∧ g.debounce ≤ 15 ∧ g.count ≤ g.debounce

/-- A channel's own values and its guard's count lie in their ranges apart from each other. -/
theorem Channel.inRange_iff (c : Channel) :
    c.InRange ↔ (c.gain ≠ 0 ∧ c.stepLimit ≤ 32767 ∧ -32768 ≤ c.scaled ∧ c.scaled ≤ 32767 ∧ -32768 ≤ c.filtered ∧
      c.filtered ≤ 32767) ∧ c.guard.CountInRange := by
  simp only [Channel.InRange, Guard.CountInRange, and_assoc]

theorem Channel.InRange.guard {c : Channel} (h : c.InRange) : c.guard.CountInRange := (c.inRange_iff.mp h).2

/-- A guard in range put into a channel in range. -/
theorem Channel.InRange.setGuard {c : Channel} (h : c.InRange) {g : Guard} (hg : g.CountInRange) :
    ({ c with guard := g } : Channel).InRange :=
  (Channel.inRange_iff _).mpr ⟨(c.inRange_iff.mp h).1, hg⟩

theorem Guard.reset_countInRange : Guard.reset.CountInRange := ⟨by decide, by decide, by decide⟩

/-- A count of 0 is in range under any debounce. -/
theorem Guard.CountInRange.restarted {g : Guard} (h : g.CountInRange) (p : GuardState) :
    ({ g with state := p, count := 0 } : Guard).CountInRange := by
  obtain ⟨hlow, hhigh, -⟩ := h
  exact ⟨hlow, hhigh, Nat.zero_le _⟩

theorem Guard.CountInRange.activity {g : Guard} (h : g.CountInRange) (active : Bool) : (g.activity active).CountInRange := by
  unfold Guard.activity
  split
  · exact h
  all_goals split
  · exact h.restarted .armed
  · exact h
  · exact h
  · exact h.restarted .inactive
  · exact h
  · exact h.restarted .inactive

/-- R93, R94: a count rises to the debounce at most. -/
theorem Guard.CountInRange.judge {g : Guard} (h : g.CountInRange) (f : Int) : (g.judge f).CountInRange := by
  obtain ⟨hlow, hhigh, -⟩ := id h
  unfold Guard.judge
  split
  · exact h
  · exact h
  all_goals split
  · exact ⟨hlow, hhigh, min_le_right _ _⟩
  · exact ⟨hlow, hhigh, Nat.zero_le _⟩
  · exact ⟨hlow, hhigh, Nat.zero_le _⟩
  · exact ⟨hlow, hhigh, min_le_right _ _⟩

theorem clampInt_bounds {low high : Int} (h : low ≤ high) (x : Int) : low ≤ clampInt low high x ∧ clampInt low high x ≤ high :=
  ⟨le_max_left _ _, max_le h (min_le_left _ _)⟩

/-- R85: a filtered reading moves towards the scaled one and not past it. -/
theorem filteredReading_bounds {low high f r : Int} (seed : Bool) (limit : Nat) (hf : low ≤ f ∧ f ≤ high)
    (hr : low ≤ r ∧ r ≤ high) :
    low ≤ filteredReading seed limit f r ∧ filteredReading seed limit f r ≤ high := by
  unfold filteredReading
  split
  · exact hr
  · unfold clampInt
    omega

/-- R84, R85, R93: a round keeps a channel in range. -/
theorem Channel.InRange.round {c : Channel} (h : c.InRange) (channel : Fin 8) (code : BitVec 12) (p : PowerState) :
    (c.round channel code p).InRange := by
  obtain ⟨⟨hgain, hstep, -, -, hlow, hhigh⟩, hguard⟩ := c.inRange_iff.mp h
  have hscaled := clampInt_bounds (low := -32768) (high := 32767) (by decide)
    ((((code.toNat : Int) - c.zero.toNat) * c.gain.toNat + 2048) / 4096)
  have hfiltered := filteredReading_bounds c.seed c.stepLimit ⟨hlow, hhigh⟩ hscaled
  exact (Channel.inRange_iff _).mpr ⟨⟨hgain, hstep, hscaled.1, hscaled.2, hfiltered.1, hfiltered.2⟩, (hguard.activity _).judge _⟩

/-- R86: SCALE takes no gain of 0 and no step limit above 32767. -/
theorem Channel.InRange.rescale {c : Channel} (h : c.InRange) (r : Record) : (c.rescale (scaleOp r)).InRange := by
  obtain ⟨⟨-, -, hreadings⟩, hguard⟩ := c.inRange_iff.mp h
  refine (Channel.inRange_iff _).mpr ⟨⟨?_, min_le_right _ _, hreadings⟩, hguard⟩
  change (if halfOf r 4 = 0 then 1 else halfOf r 4) ≠ 0
  split_ifs with hzero
  · decide
  · exact hzero

/-- R103: CLEAR keeps the readings of a channel. -/
theorem Channel.InRange.cleared {c : Channel} (h : c.InRange) {gain : BitVec 16} (hgain : gain ≠ 0) :
    (c.cleared gain).InRange := by
  obtain ⟨⟨-, -, hreadings⟩, -⟩ := c.inRange_iff.mp h
  exact (Channel.inRange_iff _).mpr ⟨⟨hgain, Nat.zero_le _, hreadings⟩, Guard.reset_countInRange⟩

/-- R91: GUARD takes no debounce outside 1 to 15 and starts its count at 0. -/
theorem guardSet_countInRange (r : Record) (p : PowerState) : (guardSet (guardOp r) p).CountInRange := by
  simp only [Guard.CountInRange, guardSet, guardOp, clampNat]
  omega

/-! ### The eight channels -/

/-- R83: every channel lies in its ranges. -/
def Rail.ChannelsInRange (r : Rail) : Prop := ∀ i : Fin 8, (r.channels.get i).InRange

theorem Rail.ChannelsInRange.congr {r r' : Rail} (h : r.ChannelsInRange) (heq : r'.channels = r.channels) :
    r'.ChannelsInRange := fun i => heq ▸ h i

theorem Rail.ChannelsInRange.setChannel {r : Rail} (h : r.ChannelsInRange) (i : Fin 8) {c : Channel} (hc : c.InRange) :
    (r.setChannel i c).ChannelsInRange := fun j => by
  rw [Rail.setChannel_get]
  split
  · exact hc
  · exact h j

theorem State.setGuard_channelsInRange {s : State} (h : s.rail.ChannelsInRange) (i : Fin 8) {g : Guard}
    (hg : g.CountInRange) : (s.setGuard i g).rail.ChannelsInRange :=
  h.setChannel i ((h i).setGuard hg)

theorem Rail.ChannelsInRange.round {r : Rail} (h : r.ChannelsInRange) (codes : Vector (BitVec 12) 8) (p : Power) (held : Draw) :
    (r.round codes p held).ChannelsInRange := fun i => by
  have hchannel : (r.round codes p held).channels.get i = (r.channels.get i).round i (codes.get i) p.state :=
    r.roundChannels_get codes p.state i
  rw [hchannel]
  exact (h i).round i _ _

/-- R89: a new zero code leaves every range. -/
theorem Rail.ChannelsInRange.setZeros {r : Rail} (h : r.ChannelsInRange) (z : ZeroCapture) (main standby : Nat) :
    (r.setZeros z main standby).ChannelsInRange := fun i => by
  by_cases h1 : i = 1
  · rw [h1, Rail.setZeros_get_main]
    exact h 1
  · by_cases h3 : i = 3
    · rw [h3, Rail.setZeros_get_standby]
      exact h 3
    · rw [Rail.setZeros_get_other _ _ _ _ h1 h3]
      exact h i

theorem Rail.ChannelsInRange.cleared {r : Rail} (h : r.ChannelsInRange) : r.cleared.ChannelsInRange := fun i => by
  rw [Rail.cleared_channel]
  refine (h i).cleared ?_
  split_ifs <;> decide

/-! ### The counts of trips and overdraws, and the trip limits -/

/-- R99, R100: the counts stay up to those that are due. -/
def Rail.CountsInRange (r : Rail) : Prop := r.tripMain ≤ 2 ∧ r.tripStandby ≤ 2 ∧ r.overdrawCount ≤ 50

theorem tripRound_le (closed : Bool) (r : Int) (limit count : Nat) : tripRound closed r limit count ≤ 2 := by
  unfold tripRound
  split <;> omega

theorem overdrawRound_le (p : PowerState) (d h : Draw) (count : Nat) : overdrawRound p d h count ≤ 50 := by
  unfold overdrawRound
  split <;> omega

theorem Rail.round_countsInRange (r : Rail) (codes : Vector (BitVec 12) 8) (p : Power) (held : Draw) :
    (r.round codes p held).CountsInRange :=
  ⟨tripRound_le _ _ _ _, tripRound_le _ _ _ _, overdrawRound_le _ _ _ _⟩

/-- R106: the ranges of the trip limits. -/
def Power.LimitsInRange (p : Power) : Prop :=
  1 ≤ p.mainTrip ∧ p.mainTrip ≤ 32767 ∧ 1 ≤ p.standbyTrip ∧ p.standbyTrip ≤ 32767

theorem Power.reset_limitsInRange : Power.reset.LimitsInRange := ⟨by decide, by decide, by decide, by decide⟩

/-- R106: a trip limit operand is taken as one in range. -/
theorem tripOperand_bounds (x : BitVec 16) : 1 ≤ tripOperand x ∧ tripOperand x ≤ 32767 := by
  unfold tripOperand
  split_ifs with hout
  · decide
  · rw [not_or] at hout
    obtain ⟨hzero, hhigh⟩ := hout
    exact ⟨Nat.one_le_iff_ne_zero.mpr fun h => hzero (BitVec.eq_of_toNat_eq h), not_lt.mp hhigh⟩

/-- R106: a POWER leaves the trip limits, or takes its own two. -/
theorem State.runPower_tripLimits {s t : State} {o : PowerOp} (h : s.runPower o = some t) :
    (t.power.mainTrip = s.power.mainTrip ∧ t.power.standbyTrip = s.power.standbyTrip) ∨
    (t.power.mainTrip = o.mainTrip ∧ t.power.standbyTrip = o.standbyTrip) := by
  unfold State.runPower at h
  dsimp only at h
  by_cases hoff : o.target = .off
  · rw [if_pos hoff] at h
    split at h <;> cases h <;> exact .inl (by simp)
  · rw [if_neg hoff] at h
    split at h <;> cases h <;> exact .inr (by simp)

/-- R106: a POWER record dispatched keeps the trip limits in range. -/
theorem State.dispatchPower_limitsInRange {s t : State} {r : Record} (hs : s.power.LimitsInRange)
    (h : s.dispatchPower r = some t) : t.power.LimitsInRange := by
  unfold State.dispatchPower at h
  split at h
  · cases h
    simpa using hs
  · unfold Power.LimitsInRange
    rcases State.runPower_tripLimits h with ⟨hmain, hstandby⟩ | ⟨hmain, hstandby⟩
    · rw [hmain, hstandby]
      exact hs
    · rw [hmain, hstandby]
      obtain ⟨hmainLow, hmainHigh⟩ := tripOperand_bounds (halfOf r 6)
      obtain ⟨hstandbyLow, hstandbyHigh⟩ := tripOperand_bounds (halfOf r 8)
      exact ⟨hmainLow, hmainHigh, hstandbyLow, hstandbyHigh⟩

end Sys2Proof.Machine
end

section
/-! PROOFS of the family "the check context and the field path", 4: the rails in range under every command, and O6. -/

namespace Sys2Proof.Machine

/-! ### What the other commands leave alone -/

/-- RESET apart, the channels, the counts of trips and overdraws and the trip limits stand under every command but their
own (R83, R99, R100, R106). -/
theorem exec_rails_frame {i : Instr} {s t : State} (h : exec i s = .next t) (hreset : ∀ slot rate, i ≠ .reset slot rate) :
    ((∀ codes, i ≠ .updateRound codes) → (∀ c, i ≠ .guardFault c) → (∀ c, i ≠ .guardRearm c) → i ≠ .zeroCaptureEnd →
      i ≠ .stepGuard → i ≠ .stepScale → i ≠ .serveClear → t.rail.channels = s.rail.channels) ∧
    ((∀ codes, i ≠ .updateRound codes) → i ≠ .overdrawDetection → i ≠ .serveClear →
      t.rail.tripMain = s.rail.tripMain ∧ t.rail.tripStandby = s.rail.tripStandby ∧
      t.rail.overdrawCount = s.rail.overdrawCount) ∧
    (i ≠ .stepPower → i ≠ .recoverExpiry → i ≠ .serveClear →
      t.power.mainTrip = s.power.mainTrip ∧ t.power.standbyTrip = s.power.standbyTrip) := by
  cases i with
  | reset slot rate => exact absurd rfl (hreset slot rate)
  | stationTick => simp [execStationTick_frame h]
  | updateRound => simp [execUpdateRound_frame h]
  | guardFault => simp [execGuardFault_frame h]
  | guardRearm => simp [execGuardRearm_frame h]
  | tripDetection => simp [execTripDetection_frame h]
  | overdrawDetection => simp [execOverdrawDetection_frame h]
  | zeroCaptureEnd => simp [execZeroCaptureEnd_frame h]
  | rampExpiry => simp [execRampExpiry_frame h]
  | railcheckAverageEnd => simp [execRailcheckAverageEnd_frame h]
  | settleEnd => simp [execSettleEnd_frame h]
  | holdOffRelease => simp [execHoldOffRelease_frame h]
  | qualifierEdge => simp [execQualifierEdge_frame h]
  | strobeTimerExpiry => simp [execStrobeTimerExpiry_frame h]
  | waitExpiry => simp [execWaitExpiry_frame h]
  | recoverExpiry => simp [execRecoverExpiry_frame h]
  | stepLanes => simp [execStepLanes_frame h]
  | stepDrive => simp [execStepDrive_frame h]
  | stepSample => simp [execStepSample_frame h]
  | stepField => simp [execStepField_frame h]
  | stepLimits => simp [execStepLimits_frame h]
  | stepRailcheck => simp [execStepRailcheck_frame h]
  | stepGuard => simp [execStepGuard_frame h]
  | stepScale => simp [execStepScale_frame h]
  | stepPower => simp [execStepPower_frame h]
  | stepWait => simp [execStepWait_frame h]
  | stepRepeat => simp [execStepRepeat_frame h]
  | stepMark => simp [execStepMark_frame h]
  | stepStop => simp [execStepStop_frame h]
  | unknownStepKind => simp [execUnknownStepKind_frame h]
  | coincidenceJudgement => simp [execCoincidenceJudgement_frame h]
  | frameFail => simp [execFrameFail_frame h]
  | frameClaim => simp [execFrameClaim_frame h]
  | frameDraw => simp [execFrameDraw_frame h]
  | frameJoin => simp [execFrameJoin_frame h]
  | frameSetup => simp [execFrameSetup_frame h]
  | ownClaimTaken => simp [execOwnClaimTaken_frame h]
  | duplicateSlotFrame => simp [execDuplicateSlotFrame_frame h]
  | frameReceivedBad => simp [execFrameReceivedBad_frame h]
  | framePassedOver => simp [execFramePassedOver_frame h]
  | pendingExpiry => simp [execPendingExpiry_frame h]
  | claimJudgement => simp [execClaimJudgement_frame h]
  | backoffExpiry => simp [execBackoffExpiry_frame h]
  | frameBegin => simp [execFrameBegin_frame h]
  | contentionLost => simp [execContentionLost_frame h]
  | bitError => simp [execBitError_frame h]
  | frameSent => simp [execFrameSent_frame h]
  | benchRequestArrival => simp [execBenchRequestArrival_frame h]
  | serveLoad => simp [execServeLoad_frame h]
  | servePost => simp [execServePost_frame h]
  | servePeek => simp [execServePeek_frame h]
  | benchAccessGrant => simp [execBenchAccessGrant_frame h]
  | serveStart => simp [execServeStart_frame h]
  | servePause => simp [execServePause_frame h]
  | serveResume => simp [execServeResume_frame h]
  | serveAbort => simp [execServeAbort_frame h]
  | serveClear => simp
  | serveRing => simp [execServeRing_frame h]
  | serveUnknownAction => simp [execServeUnknownAction_frame h]
  | serveQueryStatus => simp [execServeQueryStatus_frame h]
  | serveQueryReadings => simp [execServeQueryReadings_frame h]
  | serveQueryUnknown => simp [execServeQueryUnknown_frame h]
  | serveFaultRead => simp [execServeFaultRead_frame h]
  | serveFaultTrim => simp [execServeFaultTrim_frame h]

/-! ### The channels -/

theorem execGuardFault_channelsInRange {channel : Fin 8} {s t : State} (hs : s.rail.ChannelsInRange)
    (h : execGuardFault channel s = .next t) : t.rail.ChannelsInRange := by
  unfold execGuardFault at h
  dsimp only at h
  split at h <;> cases h
  · exact (s.setGuard_channelsInRange hs channel ((hs channel).guard.restarted .resting)).congr (by simp)
  · exact hs

theorem execGuardRearm_channelsInRange {channel : Fin 8} {s t : State} (hs : s.rail.ChannelsInRange)
    (h : execGuardRearm channel s = .next t) : t.rail.ChannelsInRange := by
  unfold execGuardRearm at h
  dsimp only at h
  split at h <;> cases h
  · exact s.setGuard_channelsInRange hs channel ((hs channel).guard.restarted .armed)
  · exact hs

theorem execStepGuard_channelsInRange {s t : State} (hs : s.rail.ChannelsInRange) (h : execStepGuard s = .next t) :
    t.rail.ChannelsInRange := by
  unfold execStepGuard at h
  split at h <;> cases h
  · exact hs
  · rename_i r _
    have hset := s.setGuard_channelsInRange hs (guardOp r).channel (guardSet_countInRange r s.power.state)
    exact hset.congr (by simp)

theorem execStepScale_channelsInRange {s t : State} (hs : s.rail.ChannelsInRange) (h : execStepScale s = .next t) :
    t.rail.ChannelsInRange := by
  unfold execStepScale at h
  split at h <;> cases h
  · exact hs
  · rename_i r _
    have hset : (s.setScale (scaleOp r)).rail.ChannelsInRange := hs.setChannel _ ((hs _).rescale r)
    exact hset.congr (by simp)

theorem execZeroCaptureEnd_channelsInRange {s t : State} (hs : s.rail.ChannelsInRange)
    (h : execZeroCaptureEnd s = .next t) : t.rail.ChannelsInRange := by
  rcases execZeroCaptureEnd_channels h with hsame | ⟨z, hzeroed⟩
  · exact hs.congr hsame
  · have hover : s.captureOver.rail.ChannelsInRange := hs
    exact (hover.setZeros z _ _).congr hzeroed

theorem exec_channelsInRange {i : Instr} {s t : State} (hs : s.rail.ChannelsInRange) (h : exec i s = .next t) :
    t.rail.ChannelsInRange := by
  cases i with
  | reset slot rate =>
    cases h
    exact State.reset_railsInRange.1
  | updateRound codes =>
    cases h
    exact hs.round codes _ _
  | guardFault => exact execGuardFault_channelsInRange hs h
  | guardRearm => exact execGuardRearm_channelsInRange hs h
  | zeroCaptureEnd => exact execZeroCaptureEnd_channelsInRange hs h
  | stepGuard => exact execStepGuard_channelsInRange hs h
  | stepScale => exact execStepScale_channelsInRange hs h
  | serveClear =>
    obtain ⟨u, rfl | rfl, -, hrail, -⟩ := execServeClear_cases h
    · exact hrail ▸ hs
    · exact hs.cleared.congr (by simp [hrail, State.clear])
  | _ =>
    obtain ⟨hstands, -⟩ := exec_rails_frame h nofun
    exact hs.congr (hstands nofun nofun nofun nofun nofun nofun nofun)

/-! ### The counts -/

theorem execOverdrawDetection_overdrawCount {s t : State} (h : execOverdrawDetection s = .next t) :
    t.rail.overdrawCount = s.rail.overdrawCount ∨ t.rail.overdrawCount = 0 := by
  unfold execOverdrawDetection at h
  dsimp only at h
  repeat' split at h
  all_goals cases h
  · exact .inr (by simp)
  · exact .inr rfl
  · exact .inl rfl

theorem exec_countsInRange {i : Instr} {s t : State} (hs : s.rail.CountsInRange) (h : exec i s = .next t) :
    t.rail.CountsInRange := by
  obtain ⟨hmain, hstandby, hover⟩ := id hs
  cases i with
  | reset slot rate =>
    cases h
    exact ⟨Nat.zero_le _, Nat.zero_le _, Nat.zero_le _⟩
  | updateRound codes =>
    cases h
    exact s.rail.round_countsInRange codes _ _
  | overdrawDetection =>
    have hframe := execOverdrawDetection_frame h
    refine ⟨by simpa [hframe] using hmain, by simpa [hframe] using hstandby, ?_⟩
    rcases execOverdrawDetection_overdrawCount h with hsame | hzero
    · rwa [hsame]
    · rw [hzero]
      exact Nat.zero_le _
  | serveClear =>
    obtain ⟨u, rfl | rfl, -, hrail, -⟩ := execServeClear_cases h
    · exact hrail ▸ hs
    · simp [Rail.CountsInRange, hrail, State.clear, Rail.cleared]
  | _ =>
    obtain ⟨-, hcounts, -⟩ := exec_rails_frame h nofun
    obtain ⟨hmainStands, hstandbyStands, hoverStands⟩ := hcounts nofun nofun nofun
    exact ⟨hmainStands ▸ hmain, hstandbyStands ▸ hstandby, hoverStands ▸ hover⟩

/-! ### The trip limits -/

theorem execStepPower_limitsInRange {s t : State} (hs : s.power.LimitsInRange) (h : execStepPower s = .next t) :
    t.power.LimitsInRange := by
  unfold execStepPower at h
  split at h
  · cases h
    exact hs
  · split at h <;> cases h
    exact State.dispatchPower_limitsInRange hs ‹_›

/-- R44: a POWER run again takes its trip limits again; no other record does. -/
theorem execRecoverExpiry_limitsInRange {s t : State} (hs : s.power.LimitsInRange) (h : execRecoverExpiry s = .next t) :
    t.power.LimitsInRange := by
  unfold execRecoverExpiry at h
  dsimp only at h
  repeat' split at h
  all_goals cases h
  · exact hs
  · simpa using hs
  · simpa using hs
  · rename_i hdispatch
    refine State.dispatchPower_limitsInRange ?_ hdispatch
    exact hs
  · exact hs
  · exact hs

theorem exec_limitsInRange {i : Instr} {s t : State} (hs : s.power.LimitsInRange) (h : exec i s = .next t) :
    t.power.LimitsInRange := by
  cases i with
  | reset slot rate =>
    cases h
    exact Power.reset_limitsInRange
  | stepPower => exact execStepPower_limitsInRange hs h
  | recoverExpiry => exact execRecoverExpiry_limitsInRange hs h
  | serveClear =>
    obtain ⟨u, rfl | rfl, -, -, hpower⟩ := execServeClear_cases h
    · exact hpower ▸ hs
    · simp [Power.LimitsInRange, hpower, State.clear]
  | _ =>
    obtain ⟨-, -, hlimits⟩ := exec_rails_frame h nofun
    obtain ⟨hmain, hstandby⟩ := hlimits nofun nofun nofun
    unfold Power.LimitsInRange
    rw [hmain, hstandby]
    exact hs

/-! ### O6 -/

/-- The ranges of the channels, of the counts and of the trip limits, apart from each other. -/
theorem State.railsInRange_iff (s : State) :
    s.RailsInRange ↔ s.rail.ChannelsInRange ∧ s.rail.CountsInRange ∧ s.power.LimitsInRange := by
  simp only [State.RailsInRange, Rail.ChannelsInRange, Rail.CountsInRange, Power.LimitsInRange, and_assoc]

theorem exec_keeps_railsInRange {i : Instr} {s t : State} (hs : s.RailsInRange) (h : exec i s = .next t) : t.RailsInRange := by
  obtain ⟨hchannels, hcounts, hlimits⟩ := s.railsInRange_iff.mp hs
  exact t.railsInRange_iff.mpr ⟨exec_channelsInRange hchannels h, exec_countsInRange hcounts h, exec_limitsInRange hlimits h⟩

/-- Settles O6: every command keeps the context readable and the rails in range, so every step does. -/
theorem stepKeepsCheckAndRailRanges : Obligations.StepKeepsCheckAndRailRanges :=
  ⟨fun _ _ hs h => step_keeps_of_exec (fun _ _ => id) (fun _ _ _ => exec_keeps_contextReadable) hs h,
   fun _ _ hs h => step_keeps_of_exec (fun _ _ => id) (fun _ _ _ => exec_keeps_railsInRange) hs h⟩

end Sys2Proof.Machine
end

section
/-! PROOFS of the family "rail readings", 1: one round of the Rail Monitor, reading by reading and count by count (O17, O18). -/

namespace Sys2Proof.Machine

/-! ### Readings -/

theorem clampInt_eq_ite {low high : Int} (h : low ≤ high) (x : Int) :
    clampInt low high x = if x < low then low else if high < x then high else x := by
  unfold clampInt
  split_ifs <;> omega

/-- R84: the scaled reading, its two saturated ends written out. -/
theorem scaledReading_eq (c z : BitVec 12) (g : BitVec 16) :
    let floor : Int := (((c.toNat : Int) - z.toNat) * g.toNat + 2048) / 4096
    scaledReading c z g = if floor < -32768 then -32768 else if 32767 < floor then 32767 else floor :=
  clampInt_eq_ite (by decide) _

/-- R85: a filtered reading takes the scaled one, or goes towards it by the step limit at most. -/
theorem filteredReading_eq (seed : Bool) (limit : Nat) (f r : Int) :
    filteredReading seed limit f r =
      if seed = true ∨ limit = 0 then r
      else if r - f < -(limit : Int) then f - limit
      else if (limit : Int) < r - f then f + limit else r := by
  unfold filteredReading
  rw [clampInt_eq_ite (by omega)]
  split_ifs <;> omega

/-- R87: the sum of two powers that are not negative is rounded and saturated. -/
theorem measuredDraw_toNat (f0 f1 f2 f3 : Int) :
    let power : Int := (max 0 (f0 * f1) + max 0 (f2 * f3) + 50000) / 100000
    ((measuredDraw f0 f1 f2 f3).toNat : Int) = if 65535 < power then 65535 else power := by
  intro power
  have hpower : 0 ≤ power := Int.ediv_nonneg (by omega) (by decide)
  change (((BitVec.ofNat 16 (min 65535 power.toNat)).toNat : Nat) : Int) = _
  rw [BitVec.toNat_ofNat, Nat.mod_eq_of_lt (by omega)]
  split_ifs <;> omega

/-- Each channel of the monitor has its own round (R82). -/
theorem Rail.round_get (r : Rail) (codes : Vector (BitVec 12) 8) (p : Power) (held : Draw) (i : Fin 8) :
    (r.round codes p held).channels.get i = (r.channels.get i).round i (codes.get i) p.state :=
  r.roundChannels_get codes p.state i

/-- Settles O17: the readings channel by channel, and the draw of the four filtered readings. -/
theorem updateRoundComputesReadingsAndDraw : Obligations.UpdateRoundComputesReadingsAndDraw := by
  intro codes s
  refine ⟨_, rfl, rfl, fun i => ?_, measuredDraw_toNat _ _ _ _⟩
  dsimp only
  rw [Rail.round_get]
  exact ⟨scaledReading_eq _ _ _, filteredReading_eq _ _ _ _, rfl, rfl, rfl, rfl⟩

/-! ### Guards -/

theorem guardActive_iff (i : Fin 8) (p : PowerState) :
    guardActive i p = true ↔ p = .on ∨ ((i = 2 ∨ i = 3) ∧ p = .standby) := by
  unfold guardActive
  split
  · rename_i hstandby
    simp only [hstandby, true_and, decide_eq_true_iff, or_comm]
  · rename_i hother
    simp only [hother, false_and, or_false, decide_eq_true_iff]

/-- R92 to R94: a guard's round on the filtered reading `f`, its channel's guard being active or not. -/
def Guard.round (g : Guard) (active : Bool) (f : Int) : Guard := (g.activity active).judge f

theorem Channel.round_guard (c : Channel) (i : Fin 8) (code : BitVec 12) (p : PowerState) :
    (c.round i code p).guard = c.guard.round (guardActive i p) (c.round i code p).filtered := rfl

section
variable {g : Guard} (f : Int)

theorem Guard.round_of_disabled (h : g.state = .disabled) (active : Bool) : g.round active f = g := by
  simp only [Guard.round, Guard.activity, Guard.judge, h]

theorem Guard.round_of_inactive (h : g.state = .inactive) : g.round false f = g := by
  simp only [Guard.round, Guard.activity, Guard.judge, h, Bool.false_eq_true, if_false]

/-- R92: an ARMED or RESTING guard that is no longer active. -/
theorem Guard.round_of_deactivated (h : g.state = .armed ∨ g.state = .resting) :
    g.round false f = { g with state := .inactive, count := 0 } := by
  rcases h with h | h <;> simp only [Guard.round, Guard.activity, Guard.judge, h, Bool.false_eq_true, if_false]

/-- R92, R93: an INACTIVE guard that becomes active is judged in the same round. -/
theorem Guard.round_of_activated (h : g.state = .inactive) :
    g.round true f = { g with state := .armed, count := if f < g.low ∨ g.high < f then min 1 g.debounce else 0 } := by
  simp only [Guard.round, Guard.activity, Guard.judge, h, if_true, Guard.outside, decide_eq_true_iff, Nat.zero_add]
  split <;> rfl

theorem Guard.round_of_armed (h : g.state = .armed) :
    g.round true f = { g with count := if f < g.low ∨ g.high < f then min (g.count + 1) g.debounce else 0 } := by
  simp only [Guard.round, Guard.activity, Guard.judge, h, if_true, Guard.outside, decide_eq_true_iff]
  split <;> rfl

theorem Guard.round_of_resting (h : g.state = .resting) :
    g.round true f = { g with count := if f < g.low ∨ g.high < f then 0 else min (g.count + 1) g.debounce } := by
  simp only [Guard.round, Guard.activity, Guard.judge, h, if_true, Guard.outside, decide_eq_true_iff]
  split <;> rfl

end

/-- R91: a round leaves a guard's settings. -/
theorem Guard.round_settings (g : Guard) (active : Bool) (f : Int) :
    g.round active f = { g with state := (g.round active f).state, count := (g.round active f).count } := by
  cases hstate : g.state <;> cases active
  case disabled.false | disabled.true => rw [Guard.round_of_disabled f hstate]
  case inactive.false => rw [Guard.round_of_inactive f hstate]
  case inactive.true => rw [Guard.round_of_activated f hstate]
  case armed.false => rw [Guard.round_of_deactivated f (.inl hstate)]
  case armed.true => rw [Guard.round_of_armed f hstate]
  case resting.false => rw [Guard.round_of_deactivated f (.inr hstate)]
  case resting.true => rw [Guard.round_of_resting f hstate]

/-! ### Captures and averages -/

/-- R88: before its sixteenth round a capture takes the raw codes of the channels it names. -/
theorem ZeroCapture.round_of_lt {z : ZeroCapture} (h : z.rounds < 16) (main standby : BitVec 12) :
    z.round main standby =
      { z with sumMain := if z.onMain = true then z.sumMain + main.toNat else z.sumMain,
               sumStandby := if z.onStandby = true then z.sumStandby + standby.toNat else z.sumStandby,
               rounds := z.rounds + 1 } :=
  if_pos h

theorem ZeroCapture.round_of_ge {z : ZeroCapture} (h : 16 ≤ z.rounds) (main standby : BitVec 12) :
    z.round main standby = z :=
  if_neg (by omega)

theorem Average.round_of_lt {a : Average} (h : a.rounds < a.count) (channels : Vector Channel 8) :
    a.round channels = { a with sum := a.sum + (channels.get a.channel).filtered, rounds := a.rounds + 1 } :=
  if_pos h

theorem Average.round_of_ge {a : Average} (h : a.count ≤ a.rounds) (channels : Vector Channel 8) : a.round channels = a :=
  if_neg (by omega)

theorem Rail.round_zeroCapture (r : Rail) (codes : Vector (BitVec 12) 8) (p : Power) (held : Draw) :
    (r.round codes p held).zeroCapture = r.zeroCapture.map fun z => z.round (codes.get 1) (codes.get 3) := rfl

theorem Rail.round_average (r : Rail) (codes : Vector (BitVec 12) 8) (p : Power) (held : Draw) :
    (r.round codes p held).average = r.average.map fun a => a.round (r.round codes p held).channels := rfl

/-- R100: the states and the limit that an overdraw is counted in and above. -/
theorem overdrawRound_eq (p : PowerState) (d h : Draw) (count : Nat) :
    overdrawRound p d h count =
      if (p = .standby ∨ p = .on) ∧ h.toNat + h.toNat / 8 < d.toNat then min (count + 1) 50 else 0 := rfl

/-- Settles O18: the guards by their state before the round, then the counts, the capture and the average. -/
theorem updateRoundJudgesGuardsAndCountsDetections : Obligations.UpdateRoundJudgesGuardsAndCountsDetections := by
  intro codes s
  refine ⟨_, rfl, fun i => ?guard, rfl, rfl, overdrawRound_eq _ _ _ _, fun hnone => ?_, fun z hz hrounds => ?_,
    fun z hz hrounds => ?_, fun hnone => ?_, fun a ha hrounds => ?_, fun a ha hrounds => ?_⟩
  case guard =>
    intro g h f active outside
    have hround : h = g.round (guardActive i s.power.state) f := by
      simp only [h, g, f, Rail.round_get, Channel.round_guard]
    have hsettings : h = { g with state := h.state, count := h.count } := by
      rw [hround]
      exact g.round_settings _ _
    have hactive : active → h = g.round true f := fun ha => by rw [hround, (guardActive_iff _ _).mpr ha]
    have hidle : ¬ active → h = g.round false f := fun ha => by
      rw [hround, Bool.eq_false_iff.mpr ((guardActive_iff _ _).not.mpr ha)]
    refine ⟨by rw [hsettings], by rw [hsettings], by rw [hsettings], by rw [hsettings], by rw [hsettings], fun hg => ?_,
      fun ⟨hg, ha⟩ => ?_, fun ⟨hg, ha⟩ => ?_, fun ⟨hg, ha⟩ => ?_, fun ⟨hg, ha⟩ => ?_, fun ⟨hg, ha⟩ => ?_⟩
    · exact hround.trans (Guard.round_of_disabled f hg _)
    · exact (hidle ha).trans (Guard.round_of_inactive f hg)
    · rw [hidle ha, Guard.round_of_deactivated f hg]
      exact ⟨rfl, rfl⟩
    · rw [hactive ha, Guard.round_of_activated f hg]
      exact ⟨rfl, rfl⟩
    · rw [hactive ha, Guard.round_of_armed f hg]
      exact ⟨hg, rfl⟩
    · rw [hactive ha, Guard.round_of_resting f hg]
      exact ⟨hg, rfl⟩
  · simp only [Rail.round_zeroCapture, hnone, Option.map_none]
  · simp only [Rail.round_zeroCapture, hz, Option.map_some, ZeroCapture.round_of_lt hrounds]
  · simp only [Rail.round_zeroCapture, hz, Option.map_some, ZeroCapture.round_of_ge hrounds]
  · simp only [Rail.round_average, hnone, Option.map_none]
  · simp only [Rail.round_average, ha, Option.map_some, Average.round_of_ge hrounds]
  · simp only [Rail.round_average, ha, Option.map_some, Average.round_of_lt hrounds]

end Sys2Proof.Machine
end

section
/-! PROOFS of the family "rail readings", 2: one channel set, by GUARD and SCALE and by a guard's fault and re-arm (O19, O25). -/

namespace Sys2Proof.Machine

/-! ### One channel set -/

/-- A guard set changes the channels alone. -/
theorem State.setGuard_eq (s : State) (i : Fin 8) (g : Guard) :
    s.setGuard i g = { s with rail := { s.rail with channels := (s.setGuard i g).rail.channels } } := rfl

theorem State.setGuard_get_self (s : State) (i : Fin 8) (g : Guard) :
    (s.setGuard i g).rail.channels.get i = { s.rail.channels.get i with guard := g } :=
  (s.rail.setChannel_get i i _).trans (if_pos rfl)

theorem State.setGuard_get_of_ne (s : State) {i j : Fin 8} (h : j ≠ i) (g : Guard) :
    (s.setGuard i g).rail.channels.get j = s.rail.channels.get j :=
  (s.rail.setChannel_get i j _).trans (if_neg h)

theorem State.setScale_get_self (s : State) (o : ScaleOp) :
    (s.setScale o).rail.channels.get o.channel = (s.rail.channels.get o.channel).rescale o :=
  (s.rail.setChannel_get _ _ _).trans (if_pos rfl)

theorem State.setScale_get_of_ne (s : State) (o : ScaleOp) {j : Fin 8} (h : j ≠ o.channel) :
    (s.setScale o).rail.channels.get j = s.rail.channels.get j :=
  (s.rail.setChannel_get _ _ _).trans (if_neg h)

/-! ### Guard faults and re-arms -/

/-- A fault that a queue with room takes is its last record (R136), whatever its notice sheds. -/
theorem State.recordFault_queue_of_room {s : State} (h : s.faults.queue.length < 32) (i : FaultInfo)
    (a : Option GuardAction) : (s.recordFault i a).faults.queue = s.faults.queue ++ [freshRecord s i a] := by
  rw [State.recordFault_room h, State.faultRecord_eq]
  simp only [State.handFail_frame]

/-- R93, R95: a guard fault that is due rests the guard and reaches the Fault Recorder. -/
theorem execGuardFault_of_due {s : State} {i : Fin 8} {c : Channel} (hc : s.rail.channels.get i = c)
    (harmed : c.guard.state = .armed) (hcount : c.guard.debounce ≤ c.guard.count) :
    exec (.guardFault i) s = .next ((s.setGuard i { c.guard with state := .resting, count := 0 }).recordFault
      (windowFault .guard i c.filtered c.guard.low c.guard.high) (some c.guard.action)) := by
  subst hc
  exact if_pos (decide_eq_true ⟨harmed, hcount⟩)

/-- R94: a re-arm that is due. -/
theorem execGuardRearm_of_due {s : State} {i : Fin 8} {c : Channel} (hc : s.rail.channels.get i = c)
    (hresting : c.guard.state = .resting) (hcount : c.guard.debounce ≤ c.guard.count) :
    exec (.guardRearm i) s = .next (s.setGuard i { c.guard with state := .armed, count := 0 }) := by
  subst hc
  exact if_pos (decide_eq_true ⟨hresting, hcount⟩)

/-- Settles O19: the guard set, and the fault recorded on the state with its guard at rest. -/
theorem guardFaultIsRecordedAndGuardRearms : Obligations.GuardFaultIsRecordedAndGuardRearms := by
  refine ⟨?fault, ?rearm⟩
  case fault =>
    intro i s c flying info fresh harmed hcount
    have hcommand := execGuardFault_of_due (c := c) rfl harmed hcount
    have hinfo : windowFault .guard i c.filtered c.guard.low c.guard.high = info := rfl
    rw [hinfo] at hcommand
    generalize hrests : s.setGuard i { c.guard with state := .resting, count := 0 } = u at hcommand
    have hself : u.rail.channels.get i = { c with guard := { c.guard with state := .resting, count := 0 } } :=
      hrests ▸ s.setGuard_get_self i _
    have hother : ∀ j, j ≠ i → u.rail.channels.get j = s.rail.channels.get j :=
      fun j hj => hrests ▸ s.setGuard_get_of_ne hj _
    have hu : u = { s with rail := { s.rail with channels := u.rail.channels } } := hrests ▸ s.setGuard_eq i _
    have hfresh : freshRecord u info (some c.guard.action) = fresh := by rw [hu]; rfl
    have hchannels : (u.recordFault info (some c.guard.action)).rail.channels = u.rail.channels := by simp
    have hsequence : (u.recordFault info (some c.guard.action)).faults.nextSequence = sequenceAfter s.faults.nextSequence := by
      rw [State.recordFault_nextSequence, hu]
      rfl
    refine ⟨_, hcommand, hchannels ▸ hself, fun j hj => hchannels ▸ hother j hj, hsequence, fun hroom => ?queue, ?records,
      fun hroom haccepts => ?plain⟩
    case queue =>
      have hqueue : u.faults.queue = s.faults.queue := by rw [hu]
      rw [State.recordFault_queue_of_room (hqueue ▸ hroom), hfresh, hqueue]
    case records =>
      rw [hchannels, ← hu]
      exact State.recordFault_records u info _
    case plain =>
      have hplain : u.RecordsPlainly := by
        rw [hu]
        exact ⟨hroom, haccepts⟩
      rw [hchannels, hsequence, State.recordFault_plain hplain, withFault, hfresh, hu]
  case rearm =>
    intro i s c hresting hcount
    exact ⟨_, execGuardRearm_of_due rfl hresting hcount, s.setGuard_get_self i _, fun j hj => s.setGuard_get_of_ne hj _,
      s.setGuard_eq i _⟩

/-! ### GUARD and SCALE -/

/-- R91, R92: the guard that a GUARD record sets, from the bytes of the record. -/
theorem guardSet_eq (r : Record) (p : PowerState) :
    guardSet (guardOp r) p =
      { enabled := decide (byteOf r 9 = 1), low := (halfOf r 4).toInt, high := (halfOf r 6).toInt,
        debounce := max 1 (min 15 (byteOf r 3).toNat), action := if byteOf r 8 = 1 then .isolate else .log, count := 0,
        state := if byteOf r 9 ≠ 1 then .disabled
                 else if p = .on ∨ ((channelOperand (byteOf r 2) = 2 ∨ channelOperand (byteOf r 2) = 3) ∧ p = .standby)
                   then .armed
                 else .inactive } := by
  simp only [guardSet, guardOp, clampNat, guardActive_iff, decide_eq_true_iff, ite_not]

/-- Settles O25: each record found by the command of its kind, its channel set, and the completion. -/
theorem guardAndScaleSetOneChannel : Obligations.GuardAndScaleSetOneChannel := by
  intro s r hr hm hp i c
  obtain ⟨hjob, -, -, hcopy⟩ := id hr
  have hcompletes : ∀ ch, Completes { s with rail := { s.rail with channels := ch } }
      (({ s with rail := { s.rail with channels := ch } } : State).complete .done .advance) r .done :=
    fun _ => State.complete_completes .done hm hcopy hjob hp
  refine ⟨fun hk => ⟨_, (s.setGuard i (guardSet (guardOp r) s.power.state)).rail.channels, ?_, hcompletes _,
      fun j hj => s.setGuard_get_of_ne hj _, ?_⟩,
    fun hk => ⟨_, (s.setScale (scaleOp r)).rail.channels, ?_, hcompletes _, fun j hj => s.setScale_get_of_ne _ hj,
      s.setScale_get_self _⟩⟩
  · simp only [exec, execStepGuard, hr.awaitingKind hk]
    rfl
  · rw [State.setGuard_get_self, guardSet_eq]
    rfl
  · simp only [exec, execStepScale, hr.awaitingKind hk]
    rfl

end Sys2Proof.Machine
end

section
/-! PROOFS of the family "the board power path", 1: the POWER records that start a move (O32). -/

namespace Sys2Proof.Machine

/-! ### POWER records that start a move -/

/-- A powered target's code, and the target it names (R106). -/
theorem powerOp_target_powered {r : Record} (h : byteOf r 2 = 1 ∨ byteOf r 2 = 2) :
    (powerOp r).target = if byteOf r 2 = 1 then .standby else .on := by
  rcases h with h | h
  · rw [powerOp_target_standby h, if_pos h]
  · rw [powerOp_target_on h, h]
    rfl

/-- The start of an upward move in full (R107). -/
theorem State.startUpward_eq (s : State) (o : PowerOp) : s.startUpward o = { s with
    power := { s.power with
      state := .zeroing,
      move := some { start := s.power.state, target := o.target, asked := o.declared, ramp := o.ramp,
                     waitLimit := o.waitLimit, stage := .zeroing, claimOrder := none } },
    eng := { s.eng with phase := .awaitPower, timer := none },
    port := { s.port with owner := ownerReleased s },
    rail := { s.rail with zeroCapture := some {
      onMain := decide (o.target = .on), onStandby := decide (s.power.state = .off), sumMain := 0, sumStandby := 0,
      rounds := 0 } } } := by
  unfold State.startUpward
  rw [State.enterPhase_eq]
  rfl

/-- R110, R111: the state in which the Power Path asks for the claim of a set-draw move. -/
def State.setClaiming (s : State) (start : PowerState) (o : PowerOp) : State := { s with
  power := { s.power with move := some { start := start, target := o.target, asked := o.declared, ramp := o.ramp,
                                         waitLimit := o.waitLimit, stage := .setClaim, claimOrder := some s.clock } },
  eng := { s.eng with phase := .awaitPower, timer := none },
  port := { s.port with owner := ownerReleased s } }

theorem State.startSetClaim_eq (s : State) (start : PowerState) (o : PowerOp) :
    s.startSetClaim start o = (s.setClaiming start o).askClaim o.declared := by
  simp only [State.startSetClaim, State.enterPhase_eq]
  rfl

/-- A declared draw above the one in force asks for a claim (R110). -/
theorem State.setDraw_claims {s : State} {o : PowerOp} (h : s.power.declared.toNat < o.declared.toNat) :
    s.setDraw o = s.startSetClaim s.power.state o := by
  have hne : o.declared ≠ s.power.declared := fun heq => by rw [heq] at h; omega
  rw [State.setDraw, if_neg hne, if_neg (by omega)]

/-- A move from ON to STANDBY that asks for more than is held opens MAIN and asks for a claim (R111). -/
theorem State.downward_claims {s : State} {o : PowerOp} (h : s.draw.held.toNat < o.declared.toNat) :
    s.downward o =
      State.startSetClaim { s with power := { s.power with main := false, state := .standby } } s.power.state o := by
  have hne : o.declared ≠ s.draw.held := fun heq => by rw [heq] at h; omega
  rw [State.downward]
  exact (if_neg (show ¬ o.declared.toNat < s.draw.held.toNat by omega)).trans (if_neg hne)

/-- With no frame of an own claim with the port, and a line that accepts, the CLAIM asked for is queued (R124). -/
theorem State.askClaim_of_accepts {s : State} (hmark : s.draw.mark = .none_) (haccepts : s.line.accepts) (asking : Draw) :
    let claim := { heldNow := s.draw.held, asking := asking, t0 := none : OwnClaim }
    s.askClaim asking = { s with
      draw := { s.draw with claim := some claim, claimState := .queued, mark := .current },
      line := { s.line with queue := joinQueue (newFrame .claim 31 (claimPayload claim)) s.line.queue } } :=
  ((s.askClaim_asks asking).1 hmark).1 haccepts

/-- Settles O32: the row of R106's table that the record takes, and the claim that its move asks for. -/
theorem powerRecordsThatStartAMove : Obligations.PowerRecordsThatStartAMove := by
  intro s r hr hk d limit limited target move waiting port claim claims hd hpowered
  have htarget : (powerOp r).target = target := powerOp_target_powered hpowered
  have hlimited : s.limited (powerOp r) = { s with power := limited } := by
    have hne : (powerOp r).target ≠ .off := by
      rw [htarget]
      rcases hpowered with h | h <;> simp [target, h]
    rw [State.limited, if_neg hne]
    rfl
  have hclaims : ∀ p : Power,
      s.dispatchPower r = some (State.startSetClaim { s with power := p } s.power.state (powerOp r)) → claims p := by
    intro p hp
    have hasks : exec .stepPower s =
        .next ((State.setClaiming { s with power := p } s.power.state (powerOp r)).askClaim d) := by
      rw [hr.stepPower hk hp, State.startSetClaim_eq]
      rfl
    rw [State.setClaiming, htarget] at hasks
    exact ⟨⟨_, hasks, State.askClaim_asks _ d⟩, fun hmark haccepts =>
      hasks.trans (congrArg _ (State.askClaim_of_accepts (by exact hmark) (by exact haccepts) d))⟩
  refine ⟨fun hstate => ?upward, fun hstate hmore => hclaims _ ?setDraw, fun h1 hon hmore => hclaims _ ?downward⟩
  case upward =>
    have hmain : decide ((powerOp r).target = .on) = decide (byteOf r 2 = 2) := by
      rcases hpowered with h | h <;> rw [htarget] <;> simp [target, h]
    have hup : s.dispatchPower r = some (State.startUpward { s with power := limited } (powerOp r)) := by
      rw [State.dispatchPower_of_draw hd, State.runPower_eq, hlimited]
      rcases hstate with hoff | ⟨hstandby, h2⟩
      · rcases hpowered with h | h
        · rw [hoff, powerOp_target_standby h]
        · rw [hoff, powerOp_target_on h]
      · rw [hstandby, powerOp_target_on h2]
    rw [hr.stepPower hk hup, State.startUpward_eq, hmain, htarget]
    rfl
  case setDraw =>
    have hsets : s.dispatchPower r = some (State.setDraw { s with power := limited } (powerOp r)) := by
      rw [State.dispatchPower_of_draw hd, State.runPower_eq, hlimited]
      rcases hstate with ⟨h1, hstandby⟩ | ⟨h2, hon⟩
      · rw [hstandby, powerOp_target_standby h1]
      · rw [hon, powerOp_target_on h2]
    rw [hsets, State.setDraw_claims hmore]
  case downward =>
    have hdown : s.dispatchPower r = some (State.downward { s with power := limited } (powerOp r)) := by
      rw [State.dispatchPower_of_draw hd, State.runPower_eq, hlimited, hon, powerOp_target_standby h1]
    rw [hdown, State.downward_claims hmore]

end Sys2Proof.Machine
end

section
/-! PROOFS of the family "the board power path", 2: the judgement of a record, and the isolation that a guard's class brings
(O43). -/

namespace Sys2Proof.Machine

/-! ### The dispatch of a class -/

/-- The class of a TRIP or an OVERDRAW goes nowhere (R146). -/
theorem State.dispatchClass_of_powerKind (s : State) {r : FaultRecord} (hsource : r.info.source ≠ .guard)
    (hkind : r.info.kind = .trip ∨ r.info.kind = .overdraw) (c : FaultClass) : s.dispatchClass r c = s := by
  unfold State.dispatchClass
  split
  · exact absurd ‹_› hsource
  · rfl
  · rfl
  · rename_i htrip hoverdraw
    exact absurd hkind (not_or.mpr ⟨htrip, hoverdraw⟩)

/-- The class of a guard's record goes by the action it holds (R147). -/
theorem State.dispatchClass_of_guard (s : State) {r : FaultRecord} (hsource : r.info.source = .guard) (c : FaultClass) :
    s.dispatchClass r c = s.guardClass r.guardAction c := by
  unfold State.dispatchClass
  rw [hsource]

theorem PowerState.unpowered_eq_false_iff (p : PowerState) : p.unpowered = false ↔ p ≠ .off ∧ p ≠ .tripped := by
  rw [← Bool.not_eq_true, PowerState.unpowered_iff, not_or]

/-- Settles O43: the judged record in its place, and the dispatch of its class by its source and kind. -/
theorem judgementClassesTheOldestRecordAndIsolatesForGuards :
    Obligations.JudgementClassesTheOldestRecordAndIsolatesForGuards := by
  refine ⟨fun s r q hnow => ⟨_, hnow.exec_eq, ?frame⟩, fun s r q hnow => ?dispatch⟩
  case frame =>
    refine ⟨by simp, by simp, by simp, by simp, by simp, by simp, ?_⟩
    apply Probe.eq_withStrobe <;> simp
  case dispatch =>
    intro u isolates
    have hcommand : exec .coincidenceJudgement s = .next (u.dispatchClass r (judgedRecord s r).cls) := hnow.exec_eq
    refine ⟨fun hsource hkind => ?powerKind, fun hsource hnot => ?stands, fun hsource hisolates => ?isolated⟩
    case powerKind => rw [hcommand, State.dispatchClass_of_powerKind _ hsource hkind]
    all_goals
      rw [State.dispatchClass_of_guard _ hsource] at hcommand
      have hpowered := PowerState.unpowered_eq_false_iff u.power.state
    case stands =>
      have hclass : u.guardClass r.guardAction (judgedRecord s r).cls = u :=
        if_neg fun h => hnot ⟨h.1, h.2.1, hpowered.mp h.2.2⟩
      rw [hcommand, hclass]
    case isolated =>
      obtain ⟨hboard, haction, hstate⟩ := hisolates
      have hclass : u.guardClass r.guardAction (judgedRecord s r).cls = (poweredDown u .off).haltActive .isolated := by
        rw [← State.powerDown_eq]
        exact if_pos ⟨hboard, haction, hpowered.mpr hstate⟩
      rw [hclass] at hcommand
      have hhalts := State.haltActive_halts (poweredDown u .off) .isolated
      obtain ⟨hdraw, hpower, heng, -, hmem⟩ := hhalts.fields
      obtain ⟨-, hfaults, hchannels, -, -⟩ := hhalts.unchanged
      exact ⟨_, hcommand, by rw [hpower]; rfl, by rw [hpower]; rfl, by rw [hpower]; rfl, by rw [hpower]; rfl,
        by rw [hpower]; rfl, by rw [hpower]; rfl, by rw [hpower]; rfl, by rw [hdraw]; rfl,
        by rw [hdraw, poweredDown_table], by rw [hfaults]; rfl, by rw [hchannels]; rfl, heng, hmem, hhalts⟩

end Sys2Proof.Machine
end

section
/-! PROOFS of the family "the board power path", 3: a fault at a full queue (O22). -/

namespace Sys2Proof.Machine

/-! ### A fault at a full queue -/

/-- R139, R160: the line with the notice of a fault queued. -/
def LinePort.noticed (l : LinePort) (i : FaultInfo) (sequence : BitVec 16) : LinePort :=
  { l with queue := joinQueue (newFrame .fail 31 (failPayload i sequence)) l.queue }

theorem HandsFail.of_accepts {s t : State} {i : FaultInfo} {sequence : BitVec 16} (h : HandsFail s t i sequence)
    (haccepts : s.line.accepts) : t = { s with line := s.line.noticed i sequence } := by
  have hoffer := LinePort.offer_of_accepts haccepts (newFrame .fail 31 (failPayload i sequence))
  have hnone : ∀ lost, (s.line.offer (newFrame .fail 31 (failPayload i sequence))).2 = some lost → lost.kind ≠ .claim := by
    intro lost hlost
    rw [hoffer] at hlost
    cases hlost
  rw [h.1 hnone, hoffer]
  rfl

/-- A full queue with a classified record falls into what stands before the oldest such record, that record, and the rest
(R137). -/
theorem Recorder.oldestClassified {r : Recorder} (h : ∃ f ∈ r.queue, f.cls ≠ .provisional) :
    ∃ before lost after, r.queue = before ++ lost :: after ∧ (∀ f ∈ before, f.cls = .provisional) ∧
      lost.cls ≠ .provisional := by
  obtain ⟨f, hf, hclassified⟩ := h
  obtain ⟨lost, before, after, hbefore, hlost, hqueue, -⟩ :=
    List.exists_of_eraseP (p := FaultRecord.classified) hf (by simpa [FaultRecord.classified] using hclassified)
  exact ⟨before, lost, after, hqueue, fun g hg => by simpa [FaultRecord.classified] using hbefore g hg,
    by simpa [FaultRecord.classified] using hlost⟩

/-- The oldest classified record makes room in a full queue (R137). -/
theorem State.recordFault_makesRoom {s : State} (hfull : 32 ≤ s.faults.queue.length) (haccepts : s.line.accepts)
    {before after : List FaultRecord} {lost : FaultRecord} (hqueue : s.faults.queue = before ++ lost :: after)
    (hbefore : ∀ f ∈ before, f.cls = .provisional) (hlost : lost.cls ≠ .provisional) (i : FaultInfo)
    (action : Option GuardAction) :
    s.recordFault i action = { s with
      faults := { s.faults with queue := before ++ after ++ [freshRecord s i action],
                                nextSequence := sequenceAfter s.faults.nextSequence,
                                discarded := countUp s.faults.discarded },
      line := s.line.noticed i s.faults.nextSequence } := by
  obtain ⟨-, hdiscards, -⟩ := s.recordFault_records i action
  have hrecorded := (hdiscards before lost after hfull hqueue hbefore hlost).of_accepts haccepts
  rw [recorded, if_neg (by omega)] at hrecorded
  exact hrecorded

/-- R138: the state in which a flooded queue has discarded a fault, its sequence used and its notice queued. -/
def State.flooded (s : State) (i : FaultInfo) : State := { s with
  faults := { s.faults with nextSequence := sequenceAfter s.faults.nextSequence, discarded := countUp s.faults.discarded },
  line := s.line.noticed i s.faults.nextSequence }

/-- A flooded queue discards the fault and halts an active job FAULT_FLOOD (R138). -/
theorem State.recordFault_flooded {s : State} (hfloods : s.faults.floods) (haccepts : s.line.accepts) (i : FaultInfo)
    (action : Option GuardAction) :
    (s.eng.job.active = false → s.recordFault i action = s.flooded i) ∧
    (s.eng.job.active = true → HaltsAbandoning (floodEnds (s.flooded i)) (s.recordFault i action) .faultFlood) := by
  obtain ⟨-, -, hflood⟩ := s.recordFault_records i action
  obtain ⟨u, hsends, hidle, hactive⟩ := hflood hfloods
  cases hsends.of_accepts haccepts
  exact ⟨hidle, hactive⟩

theorem floodEnds_eng (s : State) : (floodEnds s).eng = s.eng := by
  simp [← State.endMoveFlood_eq]

theorem floodEnds_faults (s : State) : (floodEnds s).faults = s.faults := by
  simp [← State.endMoveFlood_eq]

theorem floodEnds_of_noMove {s : State} (h : s.power.move = none) : floodEnds s = s := by
  simp only [floodEnds, h]

/-- A record in flight goes into JUDGING (R41). -/
theorem State.enterJudging_of_inFlight {s : State} (h : s.inFlight = true) (sequence : BitVec 16) :
    s.enterJudging sequence = { s with
      eng := { s.eng with phase := .judging, judged := some sequence, timer := none },
      port := { s.port with owner := ownerReleased s } } := by
  rw [State.enterJudging, if_pos h, State.enterPhase_eq]
  rfl

/-- A fault of the record in flight for which the oldest classified record makes room puts the engine in JUDGING (R41, R137). -/
theorem State.stepFault_makesRoom {s : State} (hflight : s.inFlight = true) (hfull : 32 ≤ s.faults.queue.length)
    (haccepts : s.line.accepts) {before after : List FaultRecord} {lost : FaultRecord}
    (hqueue : s.faults.queue = before ++ lost :: after) (hbefore : ∀ f ∈ before, f.cls = .provisional)
    (hlost : lost.cls ≠ .provisional) (i : FaultInfo) :
    s.stepFault i = { s with
      faults := { s.faults with queue := before ++ after ++ [freshRecord s i none],
                                nextSequence := sequenceAfter s.faults.nextSequence,
                                discarded := countUp s.faults.discarded },
      line := s.line.noticed i s.faults.nextSequence,
      eng := { s.eng with phase := .judging, judged := some s.faults.nextSequence, timer := none },
      port := { s.port with owner := ownerReleased s } } := by
  have hroom : s.faults.hasRoom = true :=
    s.faults.hasRoom_iff.mpr fun h => hlost (h.2 lost (by simp [hqueue]))
  rw [State.stepFault, if_pos hroom, State.recordFault_makesRoom hfull haccepts hqueue hbefore hlost,
    State.enterJudging_of_inFlight (by exact hflight)]
  rfl

/-- A fault of the record in flight that a flooded queue discards is not judged (R138). -/
theorem State.stepFault_flooded {s : State} (hfloods : s.faults.floods) (i : FaultInfo) :
    s.stepFault i = s.recordFault i none :=
  if_neg fun hroom => s.faults.hasRoom_iff.mp hroom hfloods

/-- R96, R97: a complete average below its window is a fault of its RAILCHECK. -/
theorem State.InPhase.railcheck_low {s : State} {r : Record} {a : Average} (hr : s.InPhase .average r)
    (ha : s.rail.average = some a) (hrounds : a.rounds = a.count) (hlow : a.value < (halfOf r 4).toInt) :
    exec .railcheckAverageEnd s = .next (({ s with rail := { s.rail with average := none } } : State).stepFault
      (windowFault .railcheck a.channel a.value (railcheckOp r).low (railcheckOp r).high)) := by
  obtain ⟨hjob, hphase, hcopy⟩ := hr
  have hends : a.rounds = a.count ∧ s.inFlight = true ∧ s.eng.phase = .average :=
    ⟨hrounds, s.inFlight_iff.mpr (by simp [hjob, hcopy]), hphase⟩
  simp only [exec, execRailcheckAverageEnd, ha, hcopy, if_pos hends]
  exact if_pos (.inl hlow)

/-- Settles O22: the fault recorded in the place of the oldest classified record, or discarded by the flood. -/
theorem faultsAtAFullQueueDiscardOrFlood : Obligations.FaultsAtAFullQueueDiscardOrFlood := by
  refine ⟨?guard, ?railcheck⟩
  case guard =>
    intro i s c info next count line harmed hcount hfull haccepts
    have hcommand := execGuardFault_of_due (c := c) rfl harmed hcount
    have hself := s.setGuard_get_self i { c.guard with state := .resting, count := 0 }
    have hother := fun j (hj : j ≠ i) => s.setGuard_get_of_ne hj { c.guard with state := .resting, count := 0 }
    rw [State.setGuard_eq] at hcommand
    generalize (s.setGuard i { c.guard with state := .resting, count := 0 }).rail.channels = ch at hcommand hself hother
    let rests : State := { s with rail := { s.rail with channels := ch } }
    refine ⟨ch, hself, hother, fun before lost after hqueue hbefore hlost => ?makesRoom, fun hall => ?floods⟩
    case makesRoom =>
      rw [hcommand, State.recordFault_makesRoom (s := rests) hfull haccepts hqueue hbefore hlost]
      rfl
    case floods =>
      obtain ⟨hidle, hactive⟩ :=
        State.recordFault_flooded (s := rests) ⟨hfull, hall⟩ haccepts info (some c.guard.action)
      exact ⟨fun h => hcommand.trans (congrArg _ (hidle h)), fun h => ⟨_, hcommand, hactive h⟩⟩
  case railcheck =>
    intro s r a hr ha hrounds hcount hfull haccepts hlow
    have hcommand := hr.railcheck_low ha hrounds hlow
    obtain ⟨hjob, -, hcopy⟩ := hr
    let averaged : State := { s with rail := { s.rail with average := none } }
    generalize windowFault .railcheck a.channel a.value (railcheckOp r).low (railcheckOp r).high = info at hcommand
    by_cases hall : ∀ f ∈ s.faults.queue, f.cls = .provisional
    · have hactive : averaged.eng.job.active = true := congrArg JobState.active hjob
      have hfloods : averaged.faults.floods := ⟨hfull, hall⟩
      have hhalts := (State.recordFault_flooded (s := averaged) hfloods haccepts info none).2 hactive
      obtain ⟨hdraw, hpower, heng, -, -⟩ := hhalts.fields
      obtain ⟨-, hfaults, -, -, -⟩ := hhalts.unchanged
      rw [floodEnds_faults] at hfaults
      rw [floodEnds_eng] at heng
      refine ⟨_, hcommand.trans (congrArg _ (State.stepFault_flooded hfloods info)), by rw [hfaults]; rfl,
        by rw [hfaults]; rfl, fun _ => ⟨by rw [hfaults]; rfl, heng.trans (if_pos hactive), fun hmove => ?_⟩,
        fun ⟨f, hf, hne⟩ => absurd (hall f hf) hne⟩
      rw [hpower, hdraw, floodEnds_of_noMove (s := averaged.flooded info) hmove]
      exact ⟨rfl, rfl⟩
    · have hflight : averaged.inFlight = true := averaged.inFlight_iff.mpr (by simp [averaged, hjob, hcopy])
      obtain ⟨before, lost, after, hqueue, hbefore, hlost⟩ := s.faults.oldestClassified (by simpa using hall)
      have hstep := State.stepFault_makesRoom (s := averaged) hflight hfull haccepts hqueue hbefore hlost info
      refine ⟨_, hcommand.trans (congrArg _ hstep), rfl, rfl, fun h => absurd h hall, fun _ => ⟨?_, rfl, rfl, rfl⟩⟩
      simp [hqueue]

end Sys2Proof.Machine
end

section
/-! PROOFS of the family "the board power path", 4: what the operations of the own claim, of a fault and of a move can do, and
how the switches and the held draw fall under them (O4, O13). -/

namespace Sys2Proof.Machine

/-! ### What the operations of the own claim can do -/

/-- R126, R128: the own claim refused, and DEFERRED for its backoff. -/
def State.claimDeferred (s : State) : State := { s with
  line := drawSent s.line s.draw.held,
  draw := { s.draw with
    claimState := .deferred, claim := s.draw.claim.map fun c => { c with t0 := none }, windowTimer := none,
    backoffTimer := some (s.clock + BitVec.ofNat 32 s.backoffSpan) } }

/-- R108, R128: the own claim refused past the draw wait limit of its move `m`, before the halt DRAW_DENIED. -/
def State.claimDenied (s : State) (m : Move) : State := { s with
  line := drawSent s.line s.draw.held,
  draw := { s.draw with claim := none, claimState := .none_, windowTimer := none, backoffTimer := none },
  power := { s.power with move := none, state := if m.stage = .setClaim then s.power.state else m.start } }

theorem State.claimRefused_cases (s : State) : s.claimRefused = s.claimDeferred ∨
    ∃ m, s.power.move = some m ∧ s.claimRefused = (s.claimDenied m).haltActive .drawDenied := by
  unfold State.claimRefused State.handDraw State.hand
  dsimp only
  split
  · rename_i hpassed
    obtain ⟨m, -, hm, -⟩ := (State.waitLimitPassed_iff _).mp hpassed
    refine .inr ⟨m, hm, congrArg (State.haltActive · .drawDenied) ?_⟩
    simp only [State.moveDenied, show s.power.move = some m from hm]
    rfl
  · exact .inl (by simp [State.claimDeferred, State.backoffSpan, drawSent])

/-- The line and the mark of the own CLAIM frame replaced. -/
def State.marked (s : State) (l : LinePort) (mark : ClaimMark) : State :=
  { s with line := l, draw := { s.draw with mark := mark } }

/-- The CLAIM handed to the port stays there, or is lost at once (R124, R126). -/
theorem State.handClaim_cases (s : State) : (s.draw.claim = none ∧ s.handClaim = s) ∨
    ∃ l, s.handClaim = s.marked l .current ∨ s.handClaim = (s.marked l .none_).claimRefused := by
  unfold State.handClaim
  split
  · rename_i hnone
    exact .inl ⟨hnone, rfl⟩
  · dsimp only
    split
    · exact .inr ⟨_, .inr rfl⟩
    · exact .inr ⟨_, .inl rfl⟩

/-- A CLAIM reported dropped is the present one, or a stale one behind which the present one is held back, or none that
matters (R126). -/
theorem State.claimDropped_cases (s : State) :
    (s.draw.mark = .current ∧ s.draw.claimState = .queued ∧ s.claimDropped = (s.marked s.line .none_).claimRefused) ∨
    (s.draw.mark = .stale ∧ s.draw.claimState = .queued ∧ s.claimDropped = (s.marked s.line .none_).handClaim) ∨
    (¬ (s.draw.mark ≠ .none_ ∧ s.draw.claimState = .queued) ∧ s.claimDropped = s.marked s.line .none_) := by
  unfold State.claimDropped
  cases hmark : s.draw.mark <;> cases hstate : s.draw.claimState <;> simp [State.marked]

/-- R125: the own claim in CLAIMING, its frame taken. -/
def State.claimTaken (s : State) : State := { s with
  draw := { s.draw with
    mark := .none_, claimState := .claiming, claim := s.draw.claim.map fun c => { c with t0 := some s.clock },
    windowTimer := some (s.clock + BitVec.ofNat 32 s.line.params.claimWindow) } }

theorem State.claimHeard_cases (s : State) :
    (s.draw.mark = .current ∧ s.draw.claimState = .queued ∧ s.claimHeard = s.claimTaken) ∨
    (s.draw.mark = .stale ∧ s.draw.claimState = .queued ∧ s.claimHeard = (s.marked s.line .none_).handClaim) ∨
    (¬ (s.draw.mark ≠ .none_ ∧ s.draw.claimState = .queued) ∧ s.claimHeard = s.marked s.line .none_) := by
  unfold State.claimHeard
  cases hmark : s.draw.mark <;> cases hstate : s.draw.claimState <;> simp [State.marked, State.claimTaken]

/-- R124: the own claim asked for, its frame not yet handed to the port. -/
def State.claimAsked (s : State) (asking : Draw) : State := { s with
  draw := { s.draw with claim := some { heldNow := s.draw.held, asking := asking, t0 := none }, claimState := .queued } }

theorem State.askClaim_cases (s : State) (asking : Draw) :
    (s.draw.mark = .none_ ∧ s.askClaim asking = (s.claimAsked asking).handClaim) ∨
    (s.draw.mark ≠ .none_ ∧ s.askClaim asking = s.claimAsked asking) := by
  unfold State.askClaim
  dsimp only
  split
  · exact .inl ⟨‹_›, rfl⟩
  · exact .inr ⟨‹_›, rfl⟩

/-! ### What a fault can do -/

/-- A FAIL notice changes the line, and may shed an own CLAIM, which is then reported (R139, R161). -/
theorem State.handFail_cases (s : State) (i : FaultInfo) (q : BitVec 16) :
    ∃ l, s.handFail i q = { s with line := l } ∨ s.handFail i q = ({ s with line := l } : State).claimDropped := by
  unfold State.handFail
  dsimp only
  split
  · exact ⟨_, .inr rfl⟩
  · exact ⟨_, .inl rfl⟩

/-- A fault changes the Fault Recorder and sends its notice, and may flood (R136 to R138). -/
theorem State.recordFault_cases (s : State) (i : FaultInfo) (a : Option GuardAction) :
    ∃ f q, s.recordFault i a = ({ s with faults := f } : State).handFail i q ∨
      s.recordFault i a = (({ s with faults := f } : State).handFail i q).haltFlood := by
  unfold State.recordFault
  dsimp only
  split
  · exact ⟨_, _, .inl rfl⟩
  · split
    · exact ⟨_, _, .inl rfl⟩
    · exact ⟨_, _, .inr rfl⟩

theorem State.haltFlood_cases (s : State) : s.haltFlood = s ∨ s.haltFlood = (floodEnds s).haltActive .faultFlood := by
  unfold State.haltFlood
  rw [State.endMoveFlood_eq]
  split
  · exact .inr rfl
  · exact .inl rfl

/-! ### Switches and held draw -/

/-- An operation that closes no switch and raises no held draw, and keeps draw behind a closed switch (R105, R131). -/
structure PathFalls (s t : State) : Prop where
  standby : t.power.standby = true → s.power.standby = true
  main : t.power.main = true → s.power.main = true
  held : t.draw.held.toNat ≤ s.draw.held.toNat
  switchesHeld : s.SwitchesHeld → t.SwitchesHeld

theorem PathFalls.refl (s : State) : PathFalls s s := ⟨id, id, le_rfl, id⟩

theorem PathFalls.trans {s t u : State} (h : PathFalls s t) (h' : PathFalls t u) : PathFalls s u :=
  ⟨h.standby ∘ h'.standby, h.main ∘ h'.main, h'.held.trans h.held, h'.switchesHeld ∘ h.switchesHeld⟩

/-- What leaves the switches and the held draw, and asks for no draw that was not asked for. -/
theorem PathFalls.of_fields {s t : State} (hstandby : t.power.standby = s.power.standby)
    (hmain : t.power.main = s.power.main) (hheld : t.draw.held = s.draw.held)
    (hmove : ∀ m, t.power.move = some m → ∃ m', s.power.move = some m' ∧ m'.asked = m.asked)
    (hclaim : ∀ c, t.draw.claim = some c → ∃ c', s.draw.claim = some c' ∧ c'.asking = c.asking) : PathFalls s t := by
  refine ⟨by rw [hstandby]; exact id, by rw [hmain]; exact id, by rw [hheld], fun ⟨hclosed, hasked, hasking⟩ => ?_⟩
  refine ⟨by rw [hstandby, hmain, hheld]; exact hclosed, fun m hm => ?_, fun c hc => ?_⟩
  · obtain ⟨m', hm', heq⟩ := hmove m hm
    exact heq ▸ hasked m' hm'
  · obtain ⟨c', hc', heq⟩ := hclaim c hc
    exact heq ▸ hasking c' hc'

theorem PathFalls.of_eq {s t : State} (hpower : t.power = s.power) (hdraw : t.draw = s.draw) : PathFalls s t :=
  .of_fields (by rw [hpower]) (by rw [hpower]) (by rw [hdraw]) (fun m hm => ⟨m, hpower ▸ hm, rfl⟩)
    (fun c hc => ⟨c, hdraw ▸ hc, rfl⟩)

/-- What follows an operation on other blocks. -/
theorem PathFalls.of_stands {s t u : State} (h : PathFalls t u) (hpower : t.power = s.power) (hdraw : t.draw = s.draw) :
    PathFalls s u :=
  (PathFalls.of_eq hpower hdraw).trans h

theorem State.haltActive_falls (s : State) (reason : HaltReason) : PathFalls s (s.haltActive reason) :=
  .of_eq (by simp) (by simp)

theorem poweredDown_falls (s : State) (target : PowerState) : PathFalls s (poweredDown s target) := by
  refine ⟨by simp [poweredDown], by simp [poweredDown], Nat.zero_le _, fun ⟨_, _, hasking⟩ =>
    ⟨by simp [poweredDown], by simp [poweredDown], fun c hc => hasking c ?_⟩⟩
  simp only [poweredDown] at hc
  split at hc
  · simp [abandoned] at hc
  · exact hc

theorem State.powerDown_falls (s : State) (target : PowerState) : PathFalls s (s.powerDown target) :=
  s.powerDown_eq target ▸ poweredDown_falls s target

theorem releasedTo_held (s : State) (total : Draw) :
    (releasedTo s total).draw.held = if total.toNat < s.draw.held.toNat then total else s.draw.held := by
  unfold releasedTo
  split <;> rfl

/-- A release to a draw above 0 leaves draw behind the switches (R131). -/
theorem releasedTo_falls {s : State} {total : Draw} (htotal : s.SwitchesHeld → total ≠ 0) :
    PathFalls s (releasedTo s total) := by
  have hclaim : (releasedTo s total).draw.claim = s.draw.claim := by
    unfold releasedTo
    split <;> rfl
  have hheld := releasedTo_held s total
  refine ⟨by rw [releasedTo_power]; exact id, by rw [releasedTo_power]; exact id, ?_, fun hs => ?_⟩
  · rw [hheld]
    split <;> omega
  · have habove := htotal hs
    obtain ⟨hclosed, hasked, hasking⟩ := hs
    refine ⟨?_, by rw [releasedTo_power]; exact hasked, by rw [hclaim]; exact hasking⟩
    rw [releasedTo_power, hheld]
    split
    · exact fun _ => habove
    · exact hclosed

theorem State.lowerDraw_falls {s : State} {d : Draw} (hd : d ≠ 0) : PathFalls s (s.lowerDraw d) := by
  have hlower := s.lowerDraw_eq s.power d
  rw [show s.lowerDraw d = _ from hlower]
  exact (releasedTo_falls fun _ => hd).trans
    (.of_fields (by rw [releasedTo_power]) (by rw [releasedTo_power]) rfl
      (by rw [releasedTo_power]; exact fun m hm => ⟨m, hm, rfl⟩) fun c hc => ⟨c, hc, rfl⟩)

/-! ### The own claim and faults -/

theorem State.claimRefused_falls (s : State) : PathFalls s s.claimRefused := by
  rcases s.claimRefused_cases with heq | ⟨m, hm, heq⟩ <;> rw [heq]
  · refine .of_fields rfl rfl rfl (fun m hm => ⟨m, hm, rfl⟩) fun c hc => ?_
    obtain ⟨c', hc', rfl⟩ := Option.map_eq_some_iff.mp hc
    exact ⟨c', hc', rfl⟩
  · exact PathFalls.trans (t := s.claimDenied m) (.of_fields rfl rfl rfl (fun _ h => by cases h) fun _ h => by cases h)
      (State.haltActive_falls _ _)

theorem State.marked_falls (s : State) (l : LinePort) (mark : ClaimMark) : PathFalls s (s.marked l mark) :=
  .of_fields rfl rfl rfl (fun m hm => ⟨m, hm, rfl⟩) fun c hc => ⟨c, hc, rfl⟩

theorem State.handClaim_falls (s : State) : PathFalls s s.handClaim := by
  rcases s.handClaim_cases with ⟨-, heq⟩ | ⟨l, heq | heq⟩ <;> rw [heq]
  · exact .refl s
  · exact s.marked_falls l _
  · exact (s.marked_falls l _).trans (State.claimRefused_falls _)

theorem State.claimDropped_falls (s : State) : PathFalls s s.claimDropped := by
  rcases s.claimDropped_cases with ⟨-, -, heq⟩ | ⟨-, -, heq⟩ | ⟨-, heq⟩ <;> rw [heq]
  · exact (s.marked_falls _ _).trans (State.claimRefused_falls _)
  · exact (s.marked_falls _ _).trans (State.handClaim_falls _)
  · exact s.marked_falls _ _

theorem State.claimHeard_falls (s : State) : PathFalls s s.claimHeard := by
  rcases s.claimHeard_cases with ⟨-, -, heq⟩ | ⟨-, -, heq⟩ | ⟨-, heq⟩ <;> rw [heq]
  · refine .of_fields rfl rfl rfl (fun m hm => ⟨m, hm, rfl⟩) fun c hc => ?_
    obtain ⟨c', hc', rfl⟩ := Option.map_eq_some_iff.mp hc
    exact ⟨c', hc', rfl⟩
  · exact (s.marked_falls _ _).trans (State.handClaim_falls _)
  · exact s.marked_falls _ _

theorem State.askClaim_falls {s : State} {asking : Draw} (h : s.SwitchesHeld → asking ≠ 0) :
    PathFalls s (s.askClaim asking) := by
  have hasked : PathFalls s (s.claimAsked asking) := by
    refine ⟨id, id, le_rfl, fun hs => ?_⟩
    have habove := h hs
    obtain ⟨hclosed, hmove, -⟩ := hs
    refine ⟨hclosed, hmove, fun c hc => ?_⟩
    cases hc
    exact habove
  rcases s.askClaim_cases asking with ⟨-, heq⟩ | ⟨-, heq⟩ <;> rw [heq]
  · exact hasked.trans (State.handClaim_falls _)
  · exact hasked

theorem State.handFail_falls (s : State) (i : FaultInfo) (q : BitVec 16) : PathFalls s (s.handFail i q) := by
  obtain ⟨l, heq | heq⟩ := s.handFail_cases i q <;> rw [heq]
  · exact .of_eq rfl rfl
  · exact (State.claimDropped_falls _).of_stands rfl rfl

theorem floodEnds_falls (s : State) : PathFalls s (floodEnds s) := by
  unfold floodEnds
  split
  · exact .refl s
  · rename_i m hm
    dsimp only
    split
    · exact .of_fields rfl rfl rfl (fun _ h => by cases h) fun c hc => ⟨c, hc, rfl⟩
    · split
      · exact .of_fields rfl rfl rfl (fun _ h => by cases h) fun c hc => ⟨c, hc, rfl⟩
      · exact .of_fields rfl rfl rfl (fun _ h => by cases h) fun _ h => by cases h
    · refine (releasedTo_falls fun ⟨_, hasked, _⟩ => hasked m hm).trans ?_
      exact .of_fields (by rw [releasedTo_power]) (by rw [releasedTo_power]) rfl (fun _ h => by cases h)
        fun c hc => ⟨c, hc, rfl⟩
    · split
      · exact .of_fields rfl rfl rfl (fun _ h => by cases h) fun c hc => ⟨c, hc, rfl⟩
      · exact .of_fields rfl rfl rfl (fun _ h => by cases h) fun _ h => by cases h

theorem State.haltFlood_falls (s : State) : PathFalls s s.haltFlood := by
  rcases s.haltFlood_cases with heq | heq <;> rw [heq]
  · exact .refl s
  · exact (floodEnds_falls s).trans (State.haltActive_falls _ _)

theorem State.recordFault_falls (s : State) (i : FaultInfo) (a : Option GuardAction) :
    PathFalls s (s.recordFault i a) := by
  obtain ⟨f, q, heq⟩ := s.recordFault_cases i a
  have hnotice : PathFalls s (({ s with faults := f } : State).handFail i q) :=
    (State.handFail_falls _ _ _).of_stands rfl rfl
  rcases heq with heq | heq <;> rw [heq]
  · exact hnotice
  · exact hnotice.trans (State.haltFlood_falls _)

end Sys2Proof.Machine
end

section
/-! PROOFS of the family "the board power path", 5: power state, switches, move and own claim in the order of their tables,
and what keeps them so (O8). -/

namespace Sys2Proof.Machine

/-! ### The switches and the move of a power state -/

/-- A Power Path without a move stands in one of the four states that have none (R104). -/
theorem Power.InOrder.state_of_noMove {p : Power} (h : p.InOrder) (hm : p.move = none) :
    p.state ≠ .zeroing ∧ p.state ≠ .claiming ∧ p.state ≠ .ramping := by
  unfold Power.InOrder at h
  cases hs : p.state <;> simp [hs, hm] at h ⊢

/-- The state of a move in ZEROING or CLAIMING, with MAIN open and STANDBY as at its start (R104). -/
theorem Power.InOrder.state_of_start {p : Power} (h : p.InOrder) {m : Move} (hm : p.move = some m)
    (hstage : m.stage = .zeroing ∨ m.stage = .claiming) :
    p.state = (if m.stage = .zeroing then .zeroing else .claiming) ∧ p.main = false ∧
      p.standby = decide (m.start = .standby) := by
  unfold Power.InOrder at h
  rcases hstage with hstage | hstage <;> cases hs : p.state <;> simp_all

theorem Power.InOrder.state_of_ramping {p : Power} (h : p.InOrder) {m : Move} (hm : p.move = some m)
    (hstage : m.stage = .ramping) :
    p.state = .ramping ∧ p.standby = true ∧ p.main = decide (m.target = .on) := by
  unfold Power.InOrder at h
  cases hs : p.state <;> simp_all

/-- A set-draw move leaves the state it finds, STANDBY or ON (R104, R110). -/
theorem Power.InOrder.state_of_setClaim {p : Power} (h : p.InOrder) {m : Move} (hm : p.move = some m)
    (hstage : m.stage = .setClaim) :
    (p.state = .standby ∧ p.standby = true ∧ p.main = false) ∨ (p.state = .on ∧ p.standby = true ∧ p.main = true) := by
  unfold Power.InOrder at h
  cases hs : p.state <;> simp_all

/-- The move of each state that has one (R104). -/
theorem Power.InOrder.move_of_state {p : Power} (h : p.InOrder) :
    (p.state = .zeroing → ∃ m, p.move = some m ∧ m.stage = .zeroing) ∧
    (p.state = .claiming → ∃ m, p.move = some m ∧ m.stage = .claiming) ∧
    (p.state = .ramping → ∃ m, p.move = some m ∧ m.stage = .ramping) := by
  unfold Power.InOrder at h
  refine ⟨fun hs => ?_, fun hs => ?_, fun hs => ?_⟩
  all_goals
    rw [hs] at h
    obtain ⟨-, m, hm, hstage, -⟩ := h
    exact ⟨m, hm, hstage⟩

/-- A state without a move, and its switches (R104). -/
theorem Power.InOrder.of_noMove {p : Power} (hm : p.move = none)
    (h : ((p.state = .off ∨ p.state = .tripped) ∧ p.standby = false ∧ p.main = false) ∨
      (p.state = .standby ∧ p.standby = true ∧ p.main = false) ∨ (p.state = .on ∧ p.standby = true ∧ p.main = true)) :
    p.InOrder := by
  unfold Power.InOrder
  rcases h with ⟨hs | hs, hswitches⟩ | ⟨hs, hswitches⟩ | ⟨hs, hswitches⟩ <;> rw [hs] <;> simp [hm, hswitches]

/-! ### The own claim -/

theorem DrawUnit.InOrder.claim_ne_none {d : DrawUnit} (h : d.InOrder) (hstate : d.claimState ≠ .none_) : d.claim ≠ none :=
  h.1.not.mp hstate

theorem DrawUnit.InOrder.window_eq_none {d : DrawUnit} (h : d.InOrder) (hstate : d.claimState ≠ .claiming) :
    d.windowTimer = none := by
  obtain ⟨-, -, -, -, hwindow, -⟩ := h
  exact not_not.mp (hwindow.not.mpr hstate)

theorem DrawUnit.InOrder.backoff_eq_none {d : DrawUnit} (h : d.InOrder) (hstate : d.claimState ≠ .deferred) :
    d.backoffTimer = none := by
  obtain ⟨-, -, -, -, -, hbackoff⟩ := h
  exact not_not.mp (hbackoff.not.mpr hstate)

theorem DrawUnit.InOrder.claim_eq_none {d : DrawUnit} (h : d.InOrder) (hstate : d.claimState = .none_) : d.claim = none := by
  obtain ⟨hclaim, -⟩ := h
  exact hclaim.mp hstate

/-- R130: an abandoned claim leaves no claim, and at most a stale frame. -/
theorem DrawUnit.InOrder.abandoned {d : DrawUnit} (h : d.InOrder) : (Machine.abandoned d).InOrder := by
  obtain ⟨-, hqueued, hsent, hnone, -, -⟩ := h
  have hmark : (if d.claimState = .queued ∧ d.mark = .current then .stale else d.mark) ≠ ClaimMark.current := by
    split
    · decide
    · cases hs : d.claimState <;> simp_all
  exact ⟨by simp [Machine.abandoned], by simp [Machine.abandoned], by simp [Machine.abandoned], fun _ => hmark,
    by simp [Machine.abandoned], by simp [Machine.abandoned]⟩

/-! ### Power Path and Draw Unit together -/

/-- The part of `State.PowerInOrder` that speaks of the Power Path with the Draw Unit and the zero capture (R104, R118).
`captures` is false once the capture of a move in ZEROING is over, and before the move goes on (R89, R107). -/
structure BoardInOrder (captures : Prop) (p : Power) (d : DrawUnit) (z : Option ZeroCapture) : Prop where
  power : p.InOrder
  target : ∀ m, p.move = some m → m.target = .standby ∨ m.target = .on
  start : ∀ m, p.move = some m → m.stage = .setClaim ∨ m.start = .off ∨ m.start = .standby
  asks : ∀ m, p.move = some m → ∀ c, d.claim = some c → c.asking = m.asked
  covered : ∀ m, p.move = some m → m.stage = .ramping → m.asked.toNat ≤ d.held.toNat
  claim : d.claimState ≠ .none_ ↔ ∃ m, p.move = some m ∧ (m.stage = .claiming ∨ m.stage = .setClaim)
  declared : p.state ≠ .ramping → p.declared = d.held
  capture : z ≠ none ↔ p.state = .zeroing ∧ captures
  ramp : p.rampTimer ≠ none ↔ p.state = .ramping

/-- A board without a move has neither claim, capture nor ramp timer, and holds its declared draw. -/
theorem BoardInOrder.of_noMove {captures : Prop} {p : Power} {d : DrawUnit} {z : Option ZeroCapture} (hpower : p.InOrder)
    (hm : p.move = none) (hclaim : d.claimState = .none_) (hdeclared : p.declared = d.held) (hz : z = none)
    (hramp : p.rampTimer = none) : BoardInOrder captures p d z := by
  obtain ⟨hzeroing, -, hramping⟩ := hpower.state_of_noMove hm
  exact ⟨hpower, by simp [hm], by simp [hm], by simp [hm], by simp [hm], by simp [hm, hclaim], fun _ => hdeclared,
    by simp [hz, hzeroing], by simp [hramp, hramping]⟩

section
variable {captures : Prop} {p : Power} {d : DrawUnit} {z : Option ZeroCapture}

theorem BoardInOrder.noMove (h : BoardInOrder captures p d z) (hm : p.move = none) :
    d.claimState = .none_ ∧ p.declared = d.held ∧ z = none ∧ p.rampTimer = none := by
  obtain ⟨hzeroing, -, hramping⟩ := h.power.state_of_noMove hm
  refine ⟨not_not.mp (h.claim.not.mpr (by simp [hm])), h.declared hramping, ?_, not_not.mp (h.ramp.not.mpr hramping)⟩
  exact not_not.mp (h.capture.not.mpr fun hc => hzeroing hc.1)

/-- The claim changes in its timing alone. -/
theorem BoardInOrder.congr_draw (h : BoardInOrder captures p d z) {d' : DrawUnit} (hheld : d'.held = d.held)
    (hclaim : ∀ c, d'.claim = some c → ∃ c', d.claim = some c' ∧ c'.asking = c.asking)
    (hstate : d'.claimState = .none_ ↔ d.claimState = .none_) : BoardInOrder captures p d' z := by
  refine ⟨h.power, h.target, h.start, fun m hm c hc => ?_, by rw [hheld]; exact h.covered, by rw [ne_eq, hstate]; exact h.claim,
    by rw [hheld]; exact h.declared, h.capture, h.ramp⟩
  obtain ⟨c', hc', heq⟩ := hclaim c hc
  exact heq ▸ h.asks m hm c' hc'

/-- Trip limits and the like: the Power Path changes in nothing that the order looks at. -/
theorem BoardInOrder.congr_power (h : BoardInOrder captures p d z) {p' : Power} (hstate : p'.state = p.state)
    (hstandby : p'.standby = p.standby) (hmain : p'.main = p.main) (hdeclared : p'.declared = p.declared)
    (hmove : p'.move = p.move) (hramp : p'.rampTimer = p.rampTimer) : BoardInOrder captures p' d z := by
  refine ⟨?_, by rw [hmove]; exact h.target, by rw [hmove]; exact h.start, by rw [hmove]; exact h.asks,
    by rw [hmove]; exact h.covered, by rw [hmove]; exact h.claim, by rw [hstate, hdeclared]; exact h.declared,
    by rw [hstate]; exact h.capture, by rw [hstate, hramp]; exact h.ramp⟩
  have hpower := h.power
  unfold Power.InOrder at hpower ⊢
  rw [hstate, hstandby, hmain, hmove]
  exact hpower

theorem BoardInOrder.congr_capture (h : BoardInOrder captures p d z) {z' : Option ZeroCapture}
    (hz : z' = none ↔ z = none) : BoardInOrder captures p d z' :=
  ⟨h.power, h.target, h.start, h.asks, h.covered, h.claim, h.declared, by rw [ne_eq, hz]; exact h.capture, h.ramp⟩

/-- R107, R108, R116: a move that does not ramp is given up; the Power Path goes back to its start state, or stays where a
set-draw move has left it. -/
theorem BoardInOrder.givesUp (h : BoardInOrder captures p d z) {m : Move} (hm : p.move = some m)
    (hstage : m.stage ≠ .ramping) {d' : DrawUnit} (hheld : d'.held = d.held) (hclaim : d'.claimState = .none_)
    {state : PowerState} (hstate : state = if m.stage = .setClaim then p.state else m.start)
    {ramp : Option Timer} (hramp : ramp = none ∨ ramp = p.rampTimer) {captures' : Prop} :
    BoardInOrder captures' { p with move := none, state := state, rampTimer := ramp } d' none := by
  have hnotRamping : p.state ≠ .ramping := by
    intro hs
    obtain ⟨m', hm', hstage'⟩ := h.power.move_of_state.2.2 hs
    cases hm.symm.trans hm'
    exact hstage hstage'
  refine .of_noMove (.of_noMove rfl ?_) rfl hclaim ((h.declared hnotRamping).trans hheld.symm) rfl ?_
  · by_cases hset : m.stage = .setClaim
    · rw [if_pos hset] at hstate
      subst hstate
      exact .inr (h.power.state_of_setClaim hm hset)
    · rw [if_neg hset] at hstate
      have hzeroing : m.stage = .zeroing ∨ m.stage = .claiming := by
        cases hs : m.stage <;> simp_all
      obtain ⟨-, hmain, hstandby⟩ := h.power.state_of_start hm hzeroing
      rcases (h.start m hm).resolve_left hset with hoff | hon
      · exact .inl ⟨.inl (hstate.trans hoff), by rw [hstandby, hoff]; rfl, hmain⟩
      · exact .inr (.inl ⟨hstate.trans hon, by rw [hstandby, hon]; rfl, hmain⟩)
  · exact hramp.elim id fun heq => heq.trans (not_not.mp (h.ramp.not.mpr hnotRamping))

/-- R109, R116: a ramp that ends leaves the Power Path in its target state with the draw it asked for. -/
theorem BoardInOrder.reachesTarget (h : BoardInOrder captures p d z) {m : Move} (hm : p.move = some m)
    (hstage : m.stage = .ramping) {d' : DrawUnit} (hheld : d'.held = m.asked) (hclaim : d'.claimState = d.claimState)
    {captures' : Prop} :
    BoardInOrder captures' { p with move := none, state := m.target, rampTimer := none, declared := m.asked } d' z := by
  obtain ⟨hstate, hstandby, hmain⟩ := h.power.state_of_ramping hm hstage
  refine .of_noMove (.of_noMove rfl (.inr ?_)) rfl ?_ hheld.symm ?_ rfl
  · rcases h.target m hm with htarget | htarget
    · exact .inl ⟨htarget, hstandby, by rw [hmain, htarget]; rfl⟩
    · exact .inr ⟨htarget, hstandby, by rw [hmain, htarget]; rfl⟩
  · rw [hclaim]
    refine not_not.mp (h.claim.not.mpr ?_)
    rintro ⟨m', hm', hstage'⟩
    cases hm.symm.trans hm'
    simp [hstage] at hstage'
  · exact not_not.mp (h.capture.not.mpr fun hc => by simp [hstate] at hc)

end

/-- `BoardInOrder` with the Draw Unit in its own order. -/
def State.PathInOrder (captures : Prop) (s : State) : Prop :=
  BoardInOrder captures s.power s.draw s.rail.zeroCapture ∧ s.draw.InOrder

theorem State.PathInOrder.of_eq {captures : Prop} {s t : State} (h : s.PathInOrder captures) (hpower : t.power = s.power)
    (hdraw : t.draw = s.draw) (hzero : t.rail.zeroCapture = s.rail.zeroCapture) : t.PathInOrder captures := by
  unfold State.PathInOrder
  rw [hpower, hdraw, hzero]
  exact h

theorem releasedTo_draw (s : State) (total : Draw) :
    (releasedTo s total).draw = { s.draw with held := (releasedTo s total).draw.held } := by
  unfold releasedTo
  split <;> rfl

theorem releasedTo_zeroCapture (s : State) (total : Draw) :
    (releasedTo s total).rail.zeroCapture = s.rail.zeroCapture := by
  unfold releasedTo
  split <;> rfl

/-- The Draw Unit's own order does not look at the held draw. -/
theorem releasedTo_inOrder {s : State} (h : s.draw.InOrder) (total : Draw) : (releasedTo s total).draw.InOrder := by
  rw [releasedTo_draw]
  exact h

/-! ### The board taken down -/

theorem poweredDown_inOrder {captures captures' : Prop} {s : State} (h : s.PathInOrder captures) {target : PowerState}
    (htarget : target = .off ∨ target = .tripped) : (poweredDown s target).PathInOrder captures' := by
  obtain ⟨hboard, hdraw⟩ := h
  have hends : ¬ (s.power.move.isSome && decide (s.draw.claimState ≠ .none_)) = true → s.draw.claimState = .none_ := by
    intro hnot
    by_contra hstate
    obtain ⟨m, hm, -⟩ := hboard.claim.mp hstate
    simp [hm, hstate] at hnot
  refine ⟨.of_noMove (.of_noMove rfl (.inl ⟨htarget, rfl, rfl⟩)) rfl ?claim rfl ?capture ?ramp, ?draw⟩
  case claim =>
    simp only [poweredDown]
    split
    · rfl
    · rename_i hnot
      exact hends hnot
  case capture =>
    simp only [poweredDown]
    split
    · rename_i hm
      obtain ⟨-, -, hz, -⟩ := hboard.noMove hm
      exact hz
    · rfl
  case ramp =>
    simp only [poweredDown]
    split
    · rename_i hm
      obtain ⟨-, -, -, hramp⟩ := hboard.noMove hm
      exact hramp
    · rfl
  case draw =>
    simp only [poweredDown]
    split
    · exact hdraw.abandoned
    · exact hdraw

/-! ### The own claim refused, handed over, reported and asked for -/

theorem State.claimRefused_inOrder {captures : Prop} {s : State}
    (h : BoardInOrder captures s.power s.draw s.rail.zeroCapture) (hstate : s.draw.claimState ≠ .none_)
    (hclaim : s.draw.claim ≠ none) (hmark : s.draw.mark = .none_) : s.claimRefused.PathInOrder captures := by
  rcases s.claimRefused_cases with heq | ⟨m, hm, heq⟩ <;> rw [heq]
  · refine ⟨h.congr_draw rfl (fun c hc => ?_) (by simp [State.claimDeferred, hstate]), ?_⟩
    · obtain ⟨c', hc', rfl⟩ := Option.map_eq_some_iff.mp hc
      exact ⟨c', hc', rfl⟩
    · simp [DrawUnit.InOrder, State.claimDeferred, hclaim, hmark]
  · obtain ⟨m', hm', hstage⟩ := h.claim.mp hstate
    cases hm.symm.trans hm'
    have hnotRamping : m.stage ≠ .ramping := by rcases hstage with hs | hs <;> simp [hs]
    have hz : s.rail.zeroCapture = none := by
      refine not_not.mp (h.capture.not.mpr fun hc => ?_)
      obtain ⟨m', hm', hzeroing⟩ := h.power.move_of_state.1 hc.1
      cases hm.symm.trans hm'
      simp [hzeroing] at hstage
    have hdenied : (s.claimDenied m).PathInOrder captures := by
      refine ⟨?_, by simp [DrawUnit.InOrder, State.claimDenied, hmark]⟩
      rw [show (s.claimDenied m).rail.zeroCapture = none from hz]
      exact h.givesUp hm hnotRamping (d' := (s.claimDenied m).draw) rfl rfl rfl (.inr rfl)
    exact hdenied.of_eq (by simp) (by simp) (by simp)

theorem State.handClaim_inOrder {captures : Prop} {s : State}
    (h : BoardInOrder captures s.power s.draw s.rail.zeroCapture) (hstate : s.draw.claimState = .queued)
    (hclaim : s.draw.claim ≠ none) (hwindow : s.draw.windowTimer = none) (hbackoff : s.draw.backoffTimer = none) :
    s.handClaim.PathInOrder captures := by
  have hmarked : ∀ l mark, BoardInOrder captures s.power (s.marked l mark).draw s.rail.zeroCapture := fun l mark =>
    h.congr_draw rfl (fun c hc => ⟨c, hc, rfl⟩) Iff.rfl
  rcases s.handClaim_cases with ⟨hnone, -⟩ | ⟨l, heq | heq⟩
  · exact absurd hnone hclaim
  · rw [heq]
    exact ⟨hmarked _ _, by simp [DrawUnit.InOrder, State.marked, hstate, hclaim, hwindow, hbackoff]⟩
  · rw [heq]
    exact State.claimRefused_inOrder (hmarked _ _) (by simp [State.marked, hstate]) hclaim rfl

theorem State.marked_none_inOrder {captures : Prop} {s : State} (h : s.PathInOrder captures)
    (hnot : ¬ (s.draw.mark ≠ .none_ ∧ s.draw.claimState = .queued)) : (s.marked s.line .none_).PathInOrder captures := by
  obtain ⟨hboard, hnone, hqueued, hsent, -, hwindow, hbackoff⟩ := h
  refine ⟨hboard.congr_draw rfl (fun c hc => ⟨c, hc, rfl⟩) Iff.rfl, hnone, fun hstate => ?_, fun _ => rfl, fun _ => by
    simp [State.marked], hwindow, hbackoff⟩
  exact absurd ⟨hqueued hstate, hstate⟩ hnot

/-- The stale frame gone, the CLAIM held back behind it is handed over (R124, R126). -/
theorem State.marked_handClaim_inOrder {captures : Prop} {s : State} (h : s.PathInOrder captures)
    (hstate : s.draw.claimState = .queued) : (s.marked s.line .none_).handClaim.PathInOrder captures := by
  obtain ⟨hboard, hdraw⟩ := h
  exact State.handClaim_inOrder (hboard.congr_draw rfl (fun c hc => ⟨c, hc, rfl⟩) Iff.rfl) hstate
    (hdraw.claim_ne_none (by simp [hstate])) (hdraw.window_eq_none (by simp [hstate]))
    (hdraw.backoff_eq_none (by simp [hstate]))

theorem State.claimDropped_inOrder {captures : Prop} {s : State} (h : s.PathInOrder captures) :
    s.claimDropped.PathInOrder captures := by
  rcases s.claimDropped_cases with ⟨-, hstate, heq⟩ | ⟨-, hstate, heq⟩ | ⟨hnot, heq⟩ <;> rw [heq]
  · obtain ⟨hboard, hdraw⟩ := h
    exact State.claimRefused_inOrder (hboard.congr_draw rfl (fun c hc => ⟨c, hc, rfl⟩) Iff.rfl)
      (by simp [State.marked, hstate]) (hdraw.claim_ne_none (by simp [hstate])) rfl
  · exact State.marked_handClaim_inOrder h hstate
  · exact State.marked_none_inOrder h hnot

theorem State.claimHeard_inOrder {captures : Prop} {s : State} (h : s.PathInOrder captures) :
    s.claimHeard.PathInOrder captures := by
  rcases s.claimHeard_cases with ⟨-, hstate, heq⟩ | ⟨-, hstate, heq⟩ | ⟨hnot, heq⟩ <;> rw [heq]
  · obtain ⟨hboard, hdraw⟩ := h
    have hclaim := hdraw.claim_ne_none (by simp [hstate])
    have hbackoff := hdraw.backoff_eq_none (by simp [hstate])
    refine ⟨hboard.congr_draw rfl (fun c hc => ?_) (by simp [State.claimTaken, hstate]),
      by simp [DrawUnit.InOrder, State.claimTaken, hclaim, hbackoff]⟩
    obtain ⟨c', hc', rfl⟩ := Option.map_eq_some_iff.mp hc
    exact ⟨c', hc', rfl⟩
  · exact State.marked_handClaim_inOrder h hstate
  · exact State.marked_none_inOrder h hnot

/-- A claim asked for by a move that stands for it (R124). -/
theorem State.askClaim_inOrder {captures : Prop} {s : State} {asking : Draw}
    (h : BoardInOrder captures s.power (s.claimAsked asking).draw s.rail.zeroCapture) (hdraw : s.draw.InOrder)
    (hnone : s.draw.claimState = .none_) : (s.askClaim asking).PathInOrder captures := by
  have hwindow := hdraw.window_eq_none (by simp [hnone])
  have hbackoff := hdraw.backoff_eq_none (by simp [hnone])
  rcases s.askClaim_cases asking with ⟨-, heq⟩ | ⟨hmark, heq⟩ <;> rw [heq]
  · exact State.handClaim_inOrder h rfl (by simp [State.claimAsked]) hwindow hbackoff
  · exact ⟨h, by simp [DrawUnit.InOrder, State.claimAsked, hmark, hwindow, hbackoff]⟩

/-! ### Faults -/

theorem State.handFail_inOrder {captures : Prop} {s : State} (h : s.PathInOrder captures) (i : FaultInfo) (q : BitVec 16) :
    (s.handFail i q).PathInOrder captures := by
  obtain ⟨l, heq | heq⟩ := s.handFail_cases i q <;> rw [heq]
  · exact h
  · exact State.claimDropped_inOrder (by exact h)

/-- R116: a move ended by a flood leaves the Power Path in a state without a move. -/
theorem floodEnds_inOrder {captures : Prop} {s : State} (h : s.PathInOrder captures) : (floodEnds s).PathInOrder captures := by
  obtain ⟨hboard, hdraw⟩ := h
  unfold floodEnds
  split
  · exact ⟨hboard, hdraw⟩
  · rename_i m hm
    have hunclaimed : ¬ (m.stage = .claiming ∨ m.stage = .setClaim) → s.draw.claimState = .none_ := by
      refine fun hnot => not_not.mp (hboard.claim.not.mpr ?_)
      rintro ⟨m', hm', hstage⟩
      cases hm.symm.trans hm'
      exact hnot hstage
    have hclaimed : m.stage = .claiming ∨ m.stage = .setClaim → ∀ state,
        state = (if m.stage = .setClaim then s.power.state else m.start) → ∀ d : DrawUnit, d.held = s.draw.held →
        d.claimState = .none_ →
        BoardInOrder captures { s.power with move := none, state := state, rampTimer := none } d s.rail.zeroCapture := by
      intro hstage state hstate d hheld hclaim
      have hz : s.rail.zeroCapture = none := by
        refine not_not.mp (hboard.capture.not.mpr fun hc => ?_)
        obtain ⟨m', hm', hzeroing⟩ := hboard.power.move_of_state.1 hc.1
        cases hm.symm.trans hm'
        simp [hzeroing] at hstage
      rw [hz]
      exact hboard.givesUp hm (by rcases hstage with hs | hs <;> simp [hs]) hheld hclaim hstate (.inl rfl)
    dsimp only
    split
    · rename_i hstage
      exact ⟨hboard.givesUp hm (by simp [hstage]) rfl (hunclaimed (by simp [hstage])) (by simp [hstage]) (.inl rfl), hdraw⟩
    · rename_i hstage
      have hback := hclaimed (.inl hstage) m.start (by simp [hstage])
      split
      · exact ⟨hback _ rfl ‹_›, hdraw⟩
      · exact ⟨hback (abandoned s.draw) rfl rfl, hdraw.abandoned⟩
    · rename_i hstage
      have hheld : (releasedTo s m.asked).draw.held = m.asked := by
        have hcovered := hboard.covered m hm hstage
        rw [releasedTo_held]
        split
        · rfl
        · exact BitVec.eq_of_toNat_eq (by omega)
      refine ⟨?_, releasedTo_inOrder hdraw _⟩
      rw [show ({ releasedTo s m.asked with power := _ } : State).rail.zeroCapture = s.rail.zeroCapture from
        releasedTo_zeroCapture _ _]
      exact hboard.reachesTarget hm hstage hheld (by rw [releasedTo_draw])
    · rename_i hstage
      have hstays := hclaimed (.inr hstage) s.power.state (by simp [hstage])
      split
      · exact ⟨hstays _ rfl ‹_›, hdraw⟩
      · exact ⟨hstays (abandoned s.draw) rfl rfl, hdraw.abandoned⟩

theorem State.recordFault_inOrder {captures : Prop} {s : State} (h : s.PathInOrder captures) (i : FaultInfo)
    (a : Option GuardAction) : (s.recordFault i a).PathInOrder captures := by
  obtain ⟨f, q, heq⟩ := s.recordFault_cases i a
  have hnotice : (({ s with faults := f } : State).handFail i q).PathInOrder captures :=
    State.handFail_inOrder (by exact h) i q
  rcases heq with heq | heq <;> rw [heq]
  · exact hnotice
  · rcases State.haltFlood_cases (({ s with faults := f } : State).handFail i q) with heq | heq <;> rw [heq]
    · exact hnotice
    · exact (floodEnds_inOrder hnotice).of_eq (by simp) (by simp) (by simp)

end Sys2Proof.Machine
end

section
/-! PROOFS of the family "the board power path", 6: what every block but the engine keeps of the board, of its move and of the
record in flight (O4, O8, O13). -/

namespace Sys2Proof.Machine

/-! ### The move and the engine -/

/-- An operation that starts no move, and leaves the engine and its waiting accesses, or leaves no move and the engine at READY
(R46, R108, R116). -/
structure MoveStays (s t : State) : Prop where
  noMove : s.power.move = none → t.power.move = none
  engine : (t.eng = s.eng ∧ t.port.waits = s.port.waits) ∨ (t.power.move = none ∧ t.eng.phase = .ready)

theorem MoveStays.of_eq {s t : State} (hmove : s.power.move = none → t.power.move = none) (heng : t.eng = s.eng)
    (hwaits : t.port.waits = s.port.waits) : MoveStays s t :=
  ⟨hmove, .inl ⟨heng, hwaits⟩⟩

theorem MoveStays.refl (s : State) : MoveStays s s := .of_eq id rfl rfl

theorem MoveStays.trans {s t u : State} (h : MoveStays s t) (h' : MoveStays t u) : MoveStays s u := by
  refine ⟨h'.noMove ∘ h.noMove, ?_⟩
  rcases h'.engine with ⟨heng, hwaits⟩ | hends
  · exact h.engine.imp (fun hstays => ⟨heng.trans hstays.1, hwaits.trans hstays.2⟩)
      fun hends => ⟨h'.noMove hends.1, heng ▸ hends.2⟩
  · exact .inr hends

/-- A halt that finds no move (R46). -/
theorem State.haltActive_moveStays {s : State} (hm : s.power.move = none) (reason : HaltReason) :
    MoveStays s (s.haltActive reason) := by
  have hmove : (s.haltActive reason).power.move = none := by simpa using hm
  cases hactive : s.eng.job.active with
  | true => exact ⟨fun _ => hmove, .inr ⟨hmove, by rw [State.haltActive_eng, if_pos hactive]; rfl⟩⟩
  | false =>
    rw [(s.haltActive_halts reason).1 hactive]
    exact .refl s

theorem State.claimRefused_moveStays (s : State) : MoveStays s s.claimRefused := by
  rcases s.claimRefused_cases with heq | ⟨m, -, heq⟩ <;> rw [heq]
  · exact .of_eq id rfl rfl
  · exact MoveStays.trans (t := s.claimDenied m) (.of_eq (fun _ => rfl) rfl rfl) (State.haltActive_moveStays rfl _)

theorem State.marked_moveStays (s : State) (l : LinePort) (mark : ClaimMark) : MoveStays s (s.marked l mark) :=
  .of_eq id rfl rfl

theorem State.handClaim_moveStays (s : State) : MoveStays s s.handClaim := by
  rcases s.handClaim_cases with ⟨-, heq⟩ | ⟨l, heq | heq⟩ <;> rw [heq]
  · exact .refl s
  · exact s.marked_moveStays l _
  · exact (s.marked_moveStays l _).trans (State.claimRefused_moveStays _)

theorem State.claimDropped_moveStays (s : State) : MoveStays s s.claimDropped := by
  rcases s.claimDropped_cases with ⟨-, -, heq⟩ | ⟨-, -, heq⟩ | ⟨-, heq⟩ <;> rw [heq]
  · exact (s.marked_moveStays _ _).trans (State.claimRefused_moveStays _)
  · exact (s.marked_moveStays _ _).trans (State.handClaim_moveStays _)
  · exact s.marked_moveStays _ _

theorem State.claimHeard_moveStays (s : State) : MoveStays s s.claimHeard := by
  rcases s.claimHeard_cases with ⟨-, -, heq⟩ | ⟨-, -, heq⟩ | ⟨-, heq⟩ <;> rw [heq]
  · exact .of_eq id rfl rfl
  · exact (s.marked_moveStays _ _).trans (State.handClaim_moveStays _)
  · exact s.marked_moveStays _ _

theorem State.askClaim_moveStays (s : State) (asking : Draw) : MoveStays s (s.askClaim asking) := by
  have hasked : MoveStays s (s.claimAsked asking) := .of_eq id rfl rfl
  rcases s.askClaim_cases asking with ⟨-, heq⟩ | ⟨-, heq⟩ <;> rw [heq]
  · exact hasked.trans (State.handClaim_moveStays _)
  · exact hasked

theorem State.handFail_moveStays (s : State) (i : FaultInfo) (q : BitVec 16) : MoveStays s (s.handFail i q) := by
  obtain ⟨l, heq | heq⟩ := s.handFail_cases i q <;> rw [heq]
  · exact .of_eq id rfl rfl
  · exact MoveStays.trans (t := { s with line := l }) (.of_eq id rfl rfl) (State.claimDropped_moveStays _)

theorem State.haltFlood_moveStays (s : State) : MoveStays s s.haltFlood := by
  have hended : MoveStays s (floodEnds s) :=
    .of_eq (fun _ => floodEnds_move s) (floodEnds_eng s) (by simp [← State.endMoveFlood_eq])
  rcases s.haltFlood_cases with heq | heq <;> rw [heq]
  · exact .refl s
  · exact hended.trans (State.haltActive_moveStays (floodEnds_move s) _)

theorem State.recordFault_moveStays (s : State) (i : FaultInfo) (a : Option GuardAction) :
    MoveStays s (s.recordFault i a) := by
  obtain ⟨f, q, heq⟩ := s.recordFault_cases i a
  have hnotice : MoveStays s (({ s with faults := f } : State).handFail i q) :=
    MoveStays.trans (t := { s with faults := f }) (.of_eq id rfl rfl) (State.handFail_moveStays _ _ _)
  rcases heq with heq | heq <;> rw [heq]
  · exact hnotice
  · exact hnotice.trans (State.haltFlood_moveStays _)

/-! ### The blocks but the engine -/

/-- All that an operation of another block than the engine keeps: no switch closed and no draw raised, no move started and the
engine left or halted, and the board in order (R104, R105, R118). -/
structure BlockKeeps (s t : State) : Prop where
  falls : PathFalls s t
  stays : MoveStays s t
  order : ∀ captures, s.PathInOrder captures → t.PathInOrder captures

theorem BlockKeeps.refl (s : State) : BlockKeeps s s := ⟨.refl s, .refl s, fun _ => id⟩

theorem BlockKeeps.trans {s t u : State} (h : BlockKeeps s t) (h' : BlockKeeps t u) : BlockKeeps s u :=
  ⟨h.falls.trans h'.falls, h.stays.trans h'.stays, fun captures => h'.order captures ∘ h.order captures⟩

theorem BlockKeeps.of_eq {s t : State} (hpower : t.power = s.power) (hdraw : t.draw = s.draw)
    (hzero : t.rail.zeroCapture = s.rail.zeroCapture) (heng : t.eng = s.eng) (hwaits : t.port.waits = s.port.waits) :
    BlockKeeps s t :=
  ⟨.of_eq hpower hdraw, .of_eq (by rw [hpower]; exact id) heng hwaits, fun _ h => h.of_eq hpower hdraw hzero⟩

/-- What follows an operation on other fields. -/
theorem BlockKeeps.of_stands {s t u : State} (h : BlockKeeps t u) (hpower : t.power = s.power) (hdraw : t.draw = s.draw)
    (hzero : t.rail.zeroCapture = s.rail.zeroCapture) (heng : t.eng = s.eng) (hwaits : t.port.waits = s.port.waits) :
    BlockKeeps s u :=
  (BlockKeeps.of_eq hpower hdraw hzero heng hwaits).trans h

theorem State.haltActive_blockKeeps {s : State} (hm : s.power.move = none) (reason : HaltReason) :
    BlockKeeps s (s.haltActive reason) :=
  ⟨s.haltActive_falls reason, State.haltActive_moveStays hm reason, fun _ h => h.of_eq (by simp) (by simp) (by simp)⟩

theorem State.claimDropped_blockKeeps (s : State) : BlockKeeps s s.claimDropped :=
  ⟨s.claimDropped_falls, s.claimDropped_moveStays, fun _ => State.claimDropped_inOrder⟩

theorem State.claimHeard_blockKeeps (s : State) : BlockKeeps s s.claimHeard :=
  ⟨s.claimHeard_falls, s.claimHeard_moveStays, fun _ => State.claimHeard_inOrder⟩

theorem State.recordFault_blockKeeps (s : State) (i : FaultInfo) (a : Option GuardAction) :
    BlockKeeps s (s.recordFault i a) :=
  ⟨s.recordFault_falls i a, s.recordFault_moveStays i a, fun _ h => State.recordFault_inOrder h i a⟩

theorem State.powerDown_move (s : State) (target : PowerState) : (s.powerDown target).power.move = none := by
  rw [State.powerDown_eq]
  rfl

theorem State.powerDown_blockKeeps (s : State) {target : PowerState} (htarget : target = .off ∨ target = .tripped) :
    BlockKeeps s (s.powerDown target) :=
  ⟨s.powerDown_falls target, .of_eq (fun _ => s.powerDown_move target) (by simp) (by simp),
    fun _ h => by rw [State.powerDown_eq]; exact poweredDown_inOrder h htarget⟩

theorem State.isolateBoard_blockKeeps (s : State) : BlockKeeps s s.isolateBoard := by
  unfold State.isolateBoard
  split
  · exact .refl s
  · exact s.powerDown_blockKeeps (.inl rfl)

/-- R114, R115: the board taken down, the fault recorded and the job halted. -/
theorem State.downAndHalted_blockKeeps (s : State) {target : PowerState} (htarget : target = .off ∨ target = .tripped)
    (i : FaultInfo) (reason : HaltReason) : BlockKeeps s (s.downAndHalted target i reason) := by
  have hrecorded := (s.powerDown target).recordFault_blockKeeps i none
  exact ((s.powerDown_blockKeeps htarget).trans hrecorded).trans
    (State.haltActive_blockKeeps (hrecorded.stays.noMove (s.powerDown_move target)) reason)

theorem State.guardClass_blockKeeps (s : State) (action : Option GuardAction) (c : FaultClass) :
    BlockKeeps s (s.guardClass action c) := by
  unfold State.guardClass
  split
  · exact (s.powerDown_blockKeeps (.inl rfl)).trans (State.haltActive_blockKeeps (s.powerDown_move _) _)
  · exact .refl s

/-! ### Frames read and sent -/

/-- The draw table is no part of the own draw or claim. -/
theorem State.setPeer_blockKeeps (s : State) (x : Fin 30) (e : PeerEntry) : BlockKeeps s (s.setPeer x e) :=
  ⟨.of_fields rfl rfl rfl (fun m hm => ⟨m, hm, rfl⟩) (fun c hc => ⟨c, hc, rfl⟩), .of_eq id rfl rfl,
    fun _ ⟨hboard, hdraw⟩ => ⟨hboard.congr_draw rfl (fun c hc => ⟨c, hc, rfl⟩) Iff.rfl, hdraw⟩⟩

theorem State.handDraw_blockKeeps (s : State) : BlockKeeps s s.handDraw :=
  .of_eq (by simp) (by simp) (by simp) (by simp) (by simp)

theorem State.handOn_blockKeeps (s : State) (k : FrameKind) (f : Frame) : BlockKeeps s (s.handOn k f) := by
  cases k with
  | claim =>
    simp only [State.handOn, State.takeClaim]
    split
    · exact .refl s
    · split
      · exact s.setPeer_blockKeeps _ _
      · exact .refl s
  | draw =>
    simp only [State.handOn, State.takeDraw]
    split
    · exact .refl s
    · split
      · exact s.setPeer_blockKeeps _ _
      · exact .refl s
  | join =>
    simp only [State.handOn, State.takeJoin]
    split
    · exact .refl s
    · split
      · split
        · exact s.setPeer_blockKeeps _ _
        · exact (s.setPeer_blockKeeps _ _).trans (State.handDraw_blockKeeps _)
      · exact .refl s
  | fail | setup | load | post | peek | control | query | faultRead | faultTrim | reply | report =>
    exact .of_eq (by simp [State.handOn]) (by simp [State.handOn]) (by simp [State.handOn]) (by simp [State.handOn])
      (by simp [State.handOn])

theorem State.setDuplicate_blockKeeps (s : State) : BlockKeeps s s.setDuplicate := by
  unfold State.setDuplicate
  dsimp only
  split
  · exact (State.claimDropped_blockKeeps _).of_stands rfl rfl rfl rfl rfl
  · exact .of_eq rfl rfl rfl rfl rfl

theorem State.receiveFrame_blockKeeps (s : State) (f : Frame) : BlockKeeps s (s.receiveFrame f) := by
  have hend : BlockKeeps s s.frameEnded := .of_eq rfl rfl rfl rfl rfl
  unfold State.receiveFrame
  split
  · exact hend.trans (.of_eq (by simp) (by simp) (by simp) (by simp) (by simp))
  · exact hend
  · exact hend.trans (State.setDuplicate_blockKeeps _)
  · exact hend.trans (State.handOn_blockKeeps _ _ _)

theorem State.frameCompleted_blockKeeps (s : State) (f : TxFrame) : BlockKeeps s (s.frameCompleted f) := by
  unfold State.frameCompleted
  dsimp only
  split
  · exact (State.claimHeard_blockKeeps _).of_stands rfl rfl rfl rfl rfl
  · exact .of_eq rfl rfl rfl rfl rfl

/-! ### The commands that leave the engine alone or halt it -/

/-- R129: the backoff over, the claim QUEUED again. -/
def State.claimRequeued (s : State) : State :=
  { s with draw := { s.draw with claimState := .queued, backoffTimer := none } }

/-- The end of the backoff hands the CLAIM over again (R129). -/
theorem execBackoffExpiry_blockKeeps {s t : State} (h : execBackoffExpiry s = .next t) : BlockKeeps s t := by
  unfold execBackoffExpiry at h
  split at h
  · cases h; exact .refl s
  · split at h <;> cases h
    · rename_i hdeferred
      obtain ⟨hdeferred, -⟩ := hdeferred
      have hfalls : PathFalls s s.claimRequeued :=
        .of_fields rfl rfl rfl (fun m hm => ⟨m, hm, rfl⟩) fun c hc => ⟨c, hc, rfl⟩
      have hstays : MoveStays s s.claimRequeued := .of_eq id rfl rfl
      refine ⟨hfalls.trans (State.handClaim_falls _), hstays.trans (State.handClaim_moveStays _), fun captures h => ?_⟩
      obtain ⟨hboard, hdraw⟩ := h
      exact State.handClaim_inOrder (s := s.claimRequeued)
        (hboard.congr_draw rfl (fun c hc => ⟨c, hc, rfl⟩) (by simp [State.claimRequeued, hdeferred])) rfl
        (hdraw.claim_ne_none (by simp [hdeferred])) (hdraw.window_eq_none (by simp [hdeferred])) rfl
    · exact .refl s

theorem exec_blockKeeps {i : Instr} {s t : State} (h : exec i s = .next t) (hi : leavesEngine i = true) :
    BlockKeeps s t := by
  cases hf : frameRead i with
  | some f =>
    cases (exec_of_frameRead hf s).symm.trans h
    exact s.receiveFrame_blockKeeps f
  | none =>
    cases i with
    | frameFail | frameClaim | frameDraw | frameJoin | frameSetup
    | benchRequestArrival | duplicateSlotFrame | framePassedOver => cases hf
    | frameReceivedBad frame framing =>
      have hbad : rawBad { toFrame := frame, toFraming := framing } = true := by simpa [frameRead] using hf
      cases (execFrameReceivedBad_of_rawBad hbad s).symm.trans h
      split <;> exact .of_eq rfl rfl rfl rfl rfl
    | backoffExpiry => exact execBackoffExpiry_blockKeeps h
    | stationTick => cases h; exact .of_eq rfl rfl rfl rfl rfl
    | updateRound codes =>
      cases h
      refine ⟨.of_eq rfl rfl, .of_eq id rfl rfl, fun _ ⟨hboard, hdraw⟩ => ⟨hboard.congr_capture ?_, hdraw⟩⟩
      exact Option.map_eq_none_iff
    | guardFault =>
      simp only [exec, execGuardFault] at h
      split at h <;> cases h
      · exact (State.recordFault_blockKeeps _ _ _).of_stands (by simp) (by simp) (by simp) (by simp) (by simp)
      · exact .refl s
    | guardRearm =>
      have hframe := execGuardRearm_frame h
      exact .of_eq (by simp [hframe]) (by simp [hframe]) (by simp [hframe]) (by simp [hframe]) (by simp [hframe])
    | tripDetection =>
      simp only [exec, execTripDetection] at h
      split at h
      · cases h; exact s.downAndHalted_blockKeeps (.inr rfl) _ _
      · split at h <;> cases h
        · exact s.downAndHalted_blockKeeps (.inr rfl) _ _
        · exact .refl s
    | overdrawDetection =>
      simp only [exec, execOverdrawDetection] at h
      split at h
      · split at h <;> cases h
        · exact (State.downAndHalted_blockKeeps _ (.inl rfl) _ _).of_stands rfl rfl rfl rfl rfl
        · exact .of_eq rfl rfl rfl rfl rfl
      · cases h; exact .refl s
    | ownClaimTaken =>
      simp only [exec, execOwnClaimTaken] at h
      split at h
      · cases h; exact .refl s
      · split at h <;> cases h
        · exact s.frameCompleted_blockKeeps _
        · exact .refl s
    | frameSent =>
      simp only [exec, execFrameSent] at h
      split at h <;> cases h
      · exact .refl s
      · exact s.frameCompleted_blockKeeps _
    | pendingExpiry =>
      simp only [exec, execPendingExpiry] at h
      split at h
      · cases h; exact .refl s
      · split at h <;> cases h
        · exact s.setPeer_blockKeeps _ _
        · exact .refl s
    | bitError =>
      simp only [exec, execBitError] at h
      split at h
      · cases h; exact .refl s
      · split at h <;> cases h
        · exact .of_eq rfl rfl rfl rfl rfl
        · split
          · exact (State.claimDropped_blockKeeps _).of_stands rfl rfl rfl rfl rfl
          · exact .of_eq rfl rfl rfl rfl rfl
    | frameBegin =>
      have hframe := execFrameBegin_frame h
      exact .of_eq (by simp [hframe]) (by simp [hframe]) (by simp [hframe]) (by simp [hframe]) (by simp [hframe])
    | contentionLost =>
      have hframe := execContentionLost_frame h
      exact .of_eq (by simp [hframe]) (by simp [hframe]) (by simp [hframe]) (by simp [hframe]) (by simp [hframe])
    | serveUnknownAction =>
      have hframe := execServeUnknownAction_frame h
      exact .of_eq (by simp [hframe]) (by simp [hframe]) (by simp [hframe]) (by simp [hframe]) (by simp [hframe])
    | serveQueryStatus =>
      have hframe := execServeQueryStatus_frame h
      exact .of_eq (by simp [hframe]) (by simp [hframe]) (by simp [hframe]) (by simp [hframe]) (by simp [hframe])
    | serveQueryReadings =>
      have hframe := execServeQueryReadings_frame h
      exact .of_eq (by simp [hframe]) (by simp [hframe]) (by simp [hframe]) (by simp [hframe]) (by simp [hframe])
    | serveQueryUnknown =>
      have hframe := execServeQueryUnknown_frame h
      exact .of_eq (by simp [hframe]) (by simp [hframe]) (by simp [hframe]) (by simp [hframe]) (by simp [hframe])
    | serveFaultRead =>
      have hframe := execServeFaultRead_frame h
      exact .of_eq (by simp [hframe]) (by simp [hframe]) (by simp [hframe]) (by simp [hframe]) (by simp [hframe])
    | serveFaultTrim =>
      have hframe := execServeFaultTrim_frame h
      exact .of_eq (by simp [hframe]) (by simp [hframe]) (by simp [hframe]) (by simp [hframe]) (by simp [hframe])
    | _ => cases hi

end Sys2Proof.Machine
end

section
/-! PROOFS of the family "the board power path", 7: what the engine keeps of the board and of its move (O4, O8, O13). -/

namespace Sys2Proof.Machine

/-- What an operation on a board keeps that starts no move: no switch closed, no draw raised, and the board in its order
(R104, R105, R118). -/
structure PathKeeps (s t : State) : Prop where
  falls : PathFalls s t
  noMove : s.power.move = none → t.power.move = none
  order : ∀ captures, s.PathInOrder captures → t.PathInOrder captures

theorem PathKeeps.refl (s : State) : PathKeeps s s := ⟨.refl s, id, fun _ => id⟩

theorem PathKeeps.trans {s t u : State} (h : PathKeeps s t) (h' : PathKeeps t u) : PathKeeps s u :=
  ⟨h.falls.trans h'.falls, h'.noMove ∘ h.noMove, fun captures => h'.order captures ∘ h.order captures⟩

theorem PathKeeps.of_eq {s t : State} (hpower : t.power = s.power) (hdraw : t.draw = s.draw)
    (hzero : t.rail.zeroCapture = s.rail.zeroCapture) : PathKeeps s t :=
  ⟨.of_eq hpower hdraw, by rw [hpower]; exact id, fun _ h => h.of_eq hpower hdraw hzero⟩

/-- What follows an operation on other fields. -/
theorem PathKeeps.of_stands {s t u : State} (h : PathKeeps t u) (hpower : t.power = s.power) (hdraw : t.draw = s.draw)
    (hzero : t.rail.zeroCapture = s.rail.zeroCapture) : PathKeeps s u :=
  (PathKeeps.of_eq hpower hdraw hzero).trans h

theorem BlockKeeps.pathKeeps {s t : State} (h : BlockKeeps s t) : PathKeeps s t := ⟨h.falls, h.stays.noMove, h.order⟩

/-! ### Completions -/

theorem State.haltJob_pathKeeps (s : State) (reason : HaltReason) : PathKeeps s (s.haltJob reason) :=
  .of_eq (by simp) (by simp) (by simp)

theorem State.writeBack_pathKeeps (s : State) (r : Record) (o : StepOutcome) : PathKeeps s (s.writeBack r o) :=
  .of_eq (by simp) (by simp) (by simp)

theorem State.refuseRecord_pathKeeps (s : State) : PathKeeps s s.refuseRecord := by
  unfold State.refuseRecord
  split
  · exact .refl s
  · exact (s.writeBack_pathKeeps _ _).trans (State.haltJob_pathKeeps _ _)

theorem State.fetchTest_pathKeeps (s : State) : PathKeeps s s.fetchTest := .of_eq (by simp) (by simp) (by simp)

theorem State.boundary_pathKeeps (s : State) (a : AfterStep) : PathKeeps s (s.boundary a) :=
  .of_eq (by simp) (by simp) (by simp)

theorem State.enterPhase_pathKeeps (s : State) (p : StepPhase) (k : Option Timer) : PathKeeps s (s.enterPhase p k) :=
  .of_eq (by simp) (by simp) (by simp)

theorem State.goOn_pathKeeps (s : State) (a : AfterStep) : PathKeeps s (s.goOn a) := by
  cases a with
  | stop => exact .of_eq (by simp [State.goOn]) (by simp [State.goOn]) (by simp [State.goOn])
  | halt reason => exact s.haltJob_pathKeeps reason
  | isolate => exact s.isolateBoard_blockKeeps.pathKeeps.trans (State.haltJob_pathKeeps _ _)
  | advance | enter | skip => exact s.boundary_pathKeeps _

theorem State.goOnHalted_pathKeeps (s : State) (a : AfterStep) : PathKeeps s (s.goOnHalted a) := by
  cases a with
  | isolate => exact s.isolateBoard_blockKeeps.pathKeeps
  | stop | halt | advance | enter | skip => exact .refl s

theorem State.finish_pathKeeps (s : State) (c : Completion) : PathKeeps s (s.finish c) := by
  have hprogress : PathKeeps s (s.progress c) := .of_eq (by simp) (by simp) (by simp)
  unfold State.finish
  dsimp only
  split
  · exact hprogress.trans (State.goOn_pathKeeps _ _)
  · exact hprogress.trans (State.goOnHalted_pathKeeps _ _)

theorem State.writeOutcome_pathKeeps (s : State) (index : RingIndex) (o : StepOutcome) (count : Byte) :
    PathKeeps s (s.writeOutcome index o count) :=
  .of_eq (by simp) (by simp) (by simp)

theorem State.complete_pathKeeps (s : State) (o : StepOutcome) (a : AfterStep) : PathKeeps s (s.complete o a) := by
  unfold State.complete
  split
  · exact .refl s
  · dsimp only
    have hready : PathKeeps s { s with
        eng := { s.eng with copy := none, phase := .ready, judged := none, timer := none } } := .of_eq rfl rfl rfl
    split
    · split
      · exact hready.trans (.of_eq rfl rfl rfl)
      · exact (hready.trans (State.writeOutcome_pathKeeps _ _ _ _)).trans (State.finish_pathKeeps _ _)
    · exact hready.trans (State.finish_pathKeeps _ _)

theorem State.completePassed_pathKeeps (s : State) (first : StepOutcome) : PathKeeps s (s.completePassed first) :=
  s.complete_pathKeeps _ _

theorem State.writeCapture_pathKeeps (s : State) (entry : Record) : PathKeeps s (s.writeCapture entry) :=
  .of_eq (by simp) (by simp) (by simp)

theorem State.storeCapture_pathKeeps (s : State) (entry : Record) (o : Option StepOutcome) :
    PathKeeps s (s.storeCapture entry o) := by
  unfold State.storeCapture
  split
  · exact .of_eq rfl rfl rfl
  · exact s.writeCapture_pathKeeps entry

theorem State.makeAccess_pathKeeps (s : State) (a : EngineAccess) : PathKeeps s (s.makeAccess a) := by
  cases a with
  | capture entry completes =>
    have hentry := s.writeCapture_pathKeeps entry
    cases completes with
    | none => exact hentry
    | some o =>
      simp only [State.makeAccess]
      split
      · exact hentry.trans (State.complete_pathKeeps _ _ _)
      · exact hentry
  | outcome index code count after =>
    have hbytes := s.writeOutcome_pathKeeps index code count
    cases after with
    | none => exact hbytes
    | some c => exact hbytes.trans (State.finish_pathKeeps _ _)
  | fetch =>
    simp only [State.makeAccess]
    split
    · exact .of_eq (by simp) (by simp) (by simp)
    · exact .refl s

theorem State.foldl_makeAccess_pathKeeps (l : List EngineAccess) (s : State) :
    PathKeeps s (l.foldl State.makeAccess s) := by
  induction l generalizing s with
  | nil => exact .refl s
  | cons a l ih => exact (s.makeAccess_pathKeeps a).trans (ih _)

/-! ### Faults and strobes -/

theorem State.enterJudging_pathKeeps (s : State) (q : BitVec 16) : PathKeeps s (s.enterJudging q) := by
  unfold State.enterJudging
  split
  · exact (State.enterPhase_pathKeeps _ _ _).of_stands rfl rfl rfl
  · exact .refl s

theorem State.stepFault_pathKeeps (s : State) (i : FaultInfo) : PathKeeps s (s.stepFault i) := by
  have hrecorded := (s.recordFault_blockKeeps i none).pathKeeps
  unfold State.stepFault
  split
  · exact hrecorded.trans (State.enterJudging_pathKeeps _ _)
  · exact hrecorded

theorem State.strobeJudged_pathKeeps (s : State) (r : Record) (levels : Levels) (qualifiedTaken : Bool)
    (result : FieldResult) (fault : FaultInfo) : PathKeeps s (s.strobeJudged r levels qualifiedTaken result fault) := by
  have hraised : ∀ entry, PathKeeps s ((if noCaptureFlag r then s else s.storeCapture entry none).stepFault fault) := by
    intro entry
    split
    · exact s.stepFault_pathKeeps _
    · exact (s.storeCapture_pathKeeps _ _).trans (State.stepFault_pathKeeps _ _)
  have hpassed : ∀ entry outcome, PathKeeps s (if noCaptureFlag r then s.complete outcome .advance
      else if s.port.owner = .bench then s.wait (.capture entry (some outcome))
      else (s.writeCapture entry).complete outcome .advance) := by
    intro entry outcome
    split
    · exact s.complete_pathKeeps _ _
    · split
      · exact .of_eq rfl rfl rfl
      · exact (s.writeCapture_pathKeeps _).trans (State.complete_pathKeeps _ _ _)
  cases result with
  | mismatch | jump => exact hraised _
  | none_ | pass => exact hpassed _ _

theorem State.strobeComplete_pathKeeps (s : State) (levels : Levels) (qualifiedTaken : Bool) :
    PathKeeps s (s.strobeComplete levels qualifiedTaken) := by
  unfold State.strobeComplete
  split
  · exact .refl s
  · dsimp only
    split <;> exact (State.strobeJudged_pathKeeps _ _ _ _ _ _).of_stands rfl rfl rfl

theorem State.holdOffEnded_pathKeeps (s : State) (o : SampleOp) (start : Time) (testPoints : Levels) :
    PathKeeps s (s.holdOffEnded o start testPoints) := by
  unfold State.holdOffEnded
  dsimp only
  split
  · exact s.strobeComplete_pathKeeps _ _
  · exact .of_eq rfl rfl rfl

theorem State.settleEnded_pathKeeps (s : State) (o : SampleOp) (testPoints : Levels) :
    PathKeeps s (s.settleEnded o testPoints) := by
  unfold State.settleEnded
  dsimp only
  split
  · exact (State.holdOffEnded_pathKeeps _ _ _ _).of_stands rfl rfl rfl
  · exact .of_eq rfl rfl rfl

theorem State.strobeTimedOut_pathKeeps (s : State) (b : Strobe) (testPoints : Levels) :
    PathKeeps s (s.strobeTimedOut b testPoints) := by
  unfold State.strobeTimedOut
  split
  · exact .refl s
  · dsimp only
    split
    · exact (State.stepFault_pathKeeps _ _).of_stands rfl rfl rfl
    · exact ((State.storeCapture_pathKeeps _ _ _).trans (State.stepFault_pathKeeps _ _)).of_stands rfl rfl rfl

theorem State.startSample_pathKeeps (s : State) : PathKeeps s s.startSample :=
  (State.enterPhase_pathKeeps _ _ _).of_stands rfl rfl rfl

theorem State.startAverage_pathKeeps (s : State) (o : RailcheckOp) : PathKeeps s (s.startAverage o) :=
  (State.enterPhase_pathKeeps _ _ _).of_stands rfl rfl rfl

theorem State.engineClass_pathKeeps (s : State) (q : BitVec 16) (c : FaultClass) : PathKeeps s (s.engineClass q c) := by
  unfold State.engineClass
  split
  · split
    · exact .refl s
    · split <;> exact s.complete_pathKeeps _ _
    · split
      · exact (State.enterPhase_pathKeeps _ _ _).of_stands rfl rfl rfl
      · exact s.complete_pathKeeps _ _
  · exact .refl s

theorem State.dispatchClass_pathKeeps (s : State) (r : FaultRecord) (c : FaultClass) :
    PathKeeps s (s.dispatchClass r c) := by
  unfold State.dispatchClass
  split
  · exact (s.guardClass_blockKeeps _ _).pathKeeps
  · exact .refl s
  · exact .refl s
  · exact s.engineClass_pathKeeps _ _

theorem State.powerReached_pathKeeps (s : State) : PathKeeps s s.powerReached := by
  unfold State.powerReached
  split
  · exact s.completePassed_pathKeeps _
  · exact .refl s

/-! ### Bench requests -/

theorem State.retest_pathKeeps (s : State) : PathKeeps s s.retest := by
  have hruns : PathKeeps s { s with eng := { s.eng with job := .running } } := .of_eq rfl rfl rfl
  unfold State.retest
  dsimp only
  split
  · split
    · split
      · exact .refl s
      · exact hruns.trans (State.fetchTest_pathKeeps _)
    · split
      · exact hruns.trans (State.complete_pathKeeps _ _ _)
      · exact .refl s
  · exact .refl s

theorem State.postTo_pathKeeps (s : State) (index : RingIndex) : PathKeeps s (s.postTo index) := by
  unfold State.postTo
  split
  · exact .refl s
  · exact (State.retest_pathKeeps _).of_stands rfl rfl rfl

theorem State.abort_pathKeeps (s : State) : PathKeeps s s.abort := by
  have habandoned : PathKeeps s s.abandon := .of_eq (by simp) (by simp) (by simp)
  exact (habandoned.trans (State.isolateBoard_blockKeeps _).pathKeeps).trans (State.haltJob_pathKeeps _ _)

/-- A capture over whose move has not gone on: the board's order with no capture (R89, R107). -/
theorem BoardInOrder.captureOver {captures : Prop} {p : Power} {d : DrawUnit} {z : Option ZeroCapture}
    (h : BoardInOrder captures p d z) : BoardInOrder False p d none :=
  ⟨h.power, h.target, h.start, h.asks, h.covered, h.claim, h.declared, by simp, h.ramp⟩

/-- R28: what CLEAR clears before it takes the board down. -/
def State.blocksCleared (s : State) : State :=
  { s with
    eng := s.eng.cleared, check := CheckContext.reset, probe := s.probe.cleared, rail := s.rail.cleared,
    faults := { s.faults with queue := s.faults.queue.map FaultRecord.cleared } }

theorem State.clear_powersDown (s : State) : s.clear = { s.blocksCleared.powerDown .off with
    power := { (s.blocksCleared.powerDown .off).power with mainTrip := 32767, standbyTrip := 32767 } } :=
  rfl

theorem State.clear_pathKeeps (s : State) : PathKeeps s s.clear := by
  rw [State.clear_powersDown]
  refine ⟨?falls, fun _ => s.blocksCleared.powerDown_move .off, fun captures h => ?order⟩
  case falls =>
    have hdown : PathFalls s (s.blocksCleared.powerDown .off) := (State.powerDown_falls _ _).of_stands rfl rfl
    exact hdown.trans (.of_fields rfl rfl rfl (fun m hm => ⟨m, hm, rfl⟩) fun c hc => ⟨c, hc, rfl⟩)
  case order =>
    rw [State.powerDown_eq]
    obtain ⟨hboard, hdraw⟩ := h
    have hcleared : s.blocksCleared.PathInOrder False := ⟨hboard.captureOver, hdraw⟩
    obtain ⟨hdown, hdraw⟩ := poweredDown_inOrder (captures' := captures) hcleared (target := .off) (.inl rfl)
    exact ⟨hdown.congr_power rfl rfl rfl rfl rfl rfl, hdraw⟩

/-- What an accepted CONTROL's effect keeps, its ACCEPT reply and a REFUSE keep (R173). -/
theorem State.controlReply_pathKeeps {s : State} {v : Except RefusalCode State} (hv : ∀ t, v = .ok t → PathKeeps s t)
    (q : Request) (action : Byte) : PathKeeps s (s.controlReply q action v) := by
  cases v with
  | error c => exact .of_eq (by simp) (by simp) (by simp)
  | ok t => exact (hv t rfl).trans (.of_eq (by simp) (by simp) (by simp))

theorem State.reply_pathKeeps (s : State) (q : Request) (payload : List Byte) : PathKeeps s (s.reply q payload) :=
  .of_eq (by simp) (by simp) (by simp)

end Sys2Proof.Machine
end

section
/-! PROOFS of the family "the board power path", 8: the moves and the own claim, and the commands over switches and held draw
(O4, O13). -/

namespace Sys2Proof.Machine

/-! ### POWER records -/

theorem State.limited_falls (s : State) (o : PowerOp) : PathFalls s (s.limited o) := by
  unfold State.limited
  split
  · exact .refl s
  · exact .of_fields rfl rfl rfl (fun m hm => ⟨m, hm, rfl⟩) fun c hc => ⟨c, hc, rfl⟩

theorem State.setClaiming_falls (s : State) (start : PowerState) {o : PowerOp} (h : o.declared ≠ 0) :
    PathFalls s (s.setClaiming start o) := by
  refine ⟨id, id, le_rfl, fun ⟨hclosed, _, hasking⟩ => ⟨hclosed, fun m hm => ?_, hasking⟩⟩
  cases hm
  exact h

theorem State.startSetClaim_falls (s : State) (start : PowerState) {o : PowerOp} (h : o.declared ≠ 0) :
    PathFalls s (s.startSetClaim start o) := by
  rw [State.startSetClaim_eq]
  exact (s.setClaiming_falls start h).trans (State.askClaim_falls fun _ => h)

theorem State.startUpward_falls (s : State) {o : PowerOp} (h : o.declared ≠ 0) : PathFalls s (s.startUpward o) := by
  rw [State.startUpward_eq]
  refine ⟨id, id, le_rfl, fun ⟨hclosed, _, hasking⟩ => ⟨hclosed, fun m hm => ?_, hasking⟩⟩
  cases hm
  exact h

theorem State.setDraw_falls (s : State) {o : PowerOp} (h : o.declared ≠ 0) : PathFalls s (s.setDraw o) := by
  unfold State.setDraw
  split
  · exact (s.completePassed_pathKeeps _).falls
  · split
    · exact (State.lowerDraw_falls h).trans (State.completePassed_pathKeeps _ _).falls
    · exact s.startSetClaim_falls _ h

/-- R111: MAIN opened at once. -/
def State.mainOpened (s : State) : State := { s with power := { s.power with main := false, state := .standby } }

theorem State.mainOpened_falls (s : State) : PathFalls s s.mainOpened :=
  ⟨id, by simp [State.mainOpened], le_rfl, fun ⟨hclosed, hasked, hasking⟩ =>
    ⟨fun h => hclosed (.inl (by simpa [State.mainOpened] using h)), hasked, hasking⟩⟩

/-- A downward move with MAIN open: draw given back, kept, or asked for (R111). -/
theorem State.downward_eq (s : State) (o : PowerOp) : s.downward o =
    if o.declared.toNat < s.draw.held.toNat then (s.mainOpened.lowerDraw o.declared).completePassed .done
    else if o.declared = s.draw.held then s.mainOpened.completePassed .done
    else s.mainOpened.startSetClaim s.power.state o :=
  rfl

theorem State.downward_falls (s : State) {o : PowerOp} (h : o.declared ≠ 0) : PathFalls s (s.downward o) := by
  rw [State.downward_eq]
  refine s.mainOpened_falls.trans ?_
  split
  · exact (State.lowerDraw_falls h).trans (State.completePassed_pathKeeps _ _).falls
  · split
    · exact (State.completePassed_pathKeeps _ _).falls
    · exact State.startSetClaim_falls _ _ h

/-- No POWER record closes a switch or raises the held draw at once, and an admitted one asks for draw when it has a powered
target (R106, R110 to R112). -/
theorem State.runPower_falls {s t : State} {o : PowerOp} (ho : o.target = .off ∨ o.declared ≠ 0)
    (h : s.runPower o = some t) : PathFalls s t := by
  have hdraw : o.target ≠ .off → o.declared ≠ 0 := ho.resolve_left
  rw [State.runPower_eq] at h
  refine (s.limited_falls o).trans ?_
  split at h <;> cases h
  case h_1 => exact (State.completePassed_pathKeeps _ _).falls
  case h_2 | h_3 => exact (State.powerDown_falls _ _).trans (State.completePassed_pathKeeps _ _).falls
  case h_4 | h_5 | h_6 => exact State.startUpward_falls _ (hdraw (by simp [*]))
  case h_7 | h_8 => exact State.setDraw_falls _ (hdraw (by simp [*]))
  case h_9 => exact State.downward_falls _ (hdraw (by simp [*]))

theorem powerRefused_eq_false {o : PowerOp} (h : ¬ powerRefused o = true) : o.target = .off ∨ o.declared ≠ 0 := by
  rw [powerRefused, decide_eq_true_iff] at h
  tauto

theorem State.dispatchPower_falls {s t : State} {r : Record} (h : s.dispatchPower r = some t) : PathFalls s t := by
  unfold State.dispatchPower at h
  split at h
  · cases h
    exact s.refuseRecord_pathKeeps.falls
  · exact State.runPower_falls (powerRefused_eq_false ‹_›) h

/-! ### The capture, the claim and the ramp at their ends -/

/-- R108, R109: RAMPING, with the switches of the move closed. -/
theorem State.enterRamping_of_move {s : State} {m : Move} (hm : s.power.move = some m) : s.enterRamping = { s with
    power := { s.power with
      state := .ramping, standby := true, main := s.power.main || decide (m.target = .on),
      move := some { m with stage := .ramping }, rampTimer := some { start := s.clock, span := m.ramp } } } := by
  simp only [State.enterRamping, hm]

/-- The switches close on held draw (R105). -/
theorem State.enterRamping_switchesHeld {s : State} (h : s.SwitchesHeld)
    (hheld : ∀ m, s.power.move = some m → s.draw.held ≠ 0) : s.enterRamping.SwitchesHeld := by
  unfold State.enterRamping
  split
  · exact h
  · rename_i m hm
    obtain ⟨-, hasked, hasking⟩ := h
    refine ⟨fun _ => hheld m hm, fun m' hm' => ?_, hasking⟩
    cases hm'
    exact hasked m hm

/-- RAMPING closes STANDBY, and what it closes it closes there (R109). -/
theorem State.enterRamping_closes {s : State}
    (h : (s.power.standby = false ∧ s.enterRamping.power.standby = true) ∨
      (s.power.main = false ∧ s.enterRamping.power.main = true)) :
    s.enterRamping.power.state = .ramping ∧ s.enterRamping.power.standby = true := by
  unfold State.enterRamping at h ⊢
  split
  · rename_i hm
    simp [hm] at h
  · exact ⟨rfl, rfl⟩

theorem State.toClaiming_falls {s : State} {m : Move} (hm : s.power.move = some m) : PathFalls s (s.toClaiming m) := by
  refine .of_fields rfl rfl rfl (fun m' hm' => ⟨m, hm, ?_⟩) fun c hc => ⟨c, hc, rfl⟩
  cases hm'
  rfl

/-- A capture that is done asks for the draw of its move, or finds it held and goes to RAMPING (R107). -/
theorem State.captureDone_cases (s : State) :
    (s.captureDone = s.enterRamping ∧ ∀ m, s.power.move = some m → m.asked.toNat ≤ s.draw.held.toNat) ∨
    ∃ m, s.power.move = some m ∧ s.draw.held.toNat < m.asked.toNat ∧ s.captureDone = (s.toClaiming m).askClaim m.asked := by
  cases hm : s.power.move with
  | none => exact .inl ⟨by simp only [State.captureDone, State.enterRamping, hm], fun m h => by cases h⟩
  | some m =>
    by_cases hmore : s.draw.held.toNat < m.asked.toNat
    · exact .inr ⟨m, rfl, hmore, State.captureDone_claims hm hmore⟩
    · refine .inl ⟨?_, fun m' hm' => ?_⟩
      · rw [State.captureDone_ramps hm (Nat.not_lt.mp hmore), State.enterRamping_of_move hm]
      · cases hm'
        exact Nat.not_lt.mp hmore

theorem State.captureFailed_falls (s : State) : PathFalls s s.captureFailed := by
  unfold State.captureFailed
  split
  · exact .refl s
  · exact .of_fields rfl rfl rfl (fun _ h => by cases h) fun c hc => ⟨c, hc, rfl⟩

/-- R89, R107: a BACKFEED recorded and the move given up; its record goes to JUDGING where the fault is recorded. -/
def State.captureAbandoned (s : State) (z : ZeroCapture) : State :=
  let u := s.captureOver.recordFault (backfeedFault z) none
  if s.faults.hasRoom then u.captureFailed.enterJudging s.faults.nextSequence else u.captureFailed

/-- R89: the end of a capture finds nothing to do, fails and gives the move up, or is done. -/
theorem execZeroCaptureEnd_cases {s t : State} (h : exec .zeroCaptureEnd s = .next t) :
    t = s ∨ (∃ z, s.rail.zeroCapture = some z ∧ t = (s.zeroed z).captureDone) ∨
    ∃ z, s.rail.zeroCapture = some z ∧ t = s.captureAbandoned z := by
  cases hz : s.rail.zeroCapture with
  | none =>
    simp only [exec, execZeroCaptureEnd, hz] at h
    cases h
    exact .inl rfl
  | some z =>
    by_cases hrounds : z.rounds = 16
    · by_cases hback : z.backfeeds
      · cases (execZeroCaptureEnd_failed hz hrounds hback).symm.trans h
        exact .inr (.inr ⟨z, rfl, rfl⟩)
      · cases (execZeroCaptureEnd_done hz hrounds hback).symm.trans h
        exact .inr (.inl ⟨z, rfl, rfl⟩)
    · simp only [exec, execZeroCaptureEnd, hz, if_neg hrounds] at h
      cases h
      exact .inl rfl

/-- R127: the judged claim finds nothing to do, is refused, or is granted. -/
theorem execClaimJudgement_cases {s t : State} (h : exec .claimJudgement s = .next t) :
    t = s ∨ (s.draw.claimState = .claiming ∧ (t = s.claimRefused ∨ t = s.claimGranted)) := by
  simp only [exec, execClaimJudgement] at h
  split at h
  · split at h
    · rename_i hreached
      obtain ⟨hclaiming, -⟩ := hreached
      refine .inr ⟨hclaiming, ?_⟩
      split at h <;> cases h
      · exact .inr rfl
      · exact .inl rfl
    · cases h
      exact .inl rfl
  · cases h
    exact .inl rfl

/-- R127, R128: the own claim granted. -/
def State.claimMet (s : State) (c : OwnClaim) : State := { s with draw := s.draw.granted c }

theorem State.claimGranted_cases (s : State) :
    (s.draw.claim = none ∧ s.claimGranted = s) ∨
    ∃ c, s.draw.claim = some c ∧ ((s.power.move = none ∧ s.claimGranted = s.claimMet c) ∨
      (∃ m, s.power.move = some m ∧ m.stage = .setClaim ∧ s.claimGranted =
        ({ s.claimMet c with power := { s.power with declared := m.asked, move := none } } : State).powerReached) ∨
      (∃ m, s.power.move = some m ∧ m.stage ≠ .setClaim ∧ s.claimGranted = (s.claimMet c).enterRamping)) := by
  cases hc : s.draw.claim with
  | none => exact .inl ⟨rfl, by simp only [State.claimGranted, hc]⟩
  | some c =>
    refine .inr ⟨c, rfl, ?_⟩
    cases hm : s.power.move with
    | none =>
      refine .inl ⟨rfl, ?_⟩
      simp only [State.claimGranted, hc, hm]
      rfl
    | some m =>
      by_cases hstage : m.stage = .setClaim
      · exact .inr (.inl ⟨m, rfl, hstage, State.claimGranted_sets hc hm hstage⟩)
      · refine .inr (.inr ⟨m, rfl, hstage, ?_⟩)
        rw [State.claimGranted_ramps hc hm hstage, State.enterRamping_of_move (s := s.claimMet c) hm]
        rfl

/-- R109, R131: the ramp of `m` over: the target state reached, with the draw above the asked one given back. -/
def State.rampOver (s : State) (m : Move) : State :=
  { releasedTo s m.asked with
    power := { s.power with state := m.target, rampTimer := none, declared := m.asked, move := none } }

theorem State.rampEnded_cases (s : State) :
    (s.power.move = none ∧ s.rampEnded = s) ∨ ∃ m, s.power.move = some m ∧ s.rampEnded = (s.rampOver m).powerReached := by
  cases hm : s.power.move with
  | none => exact .inl ⟨rfl, by simp only [State.rampEnded, hm]⟩
  | some m =>
    refine .inr ⟨m, rfl, ?_⟩
    simp only [State.rampEnded, hm, State.release_eq, releasedTo_withPower]
    rfl

theorem State.rampEnded_falls (s : State) : PathFalls s s.rampEnded := by
  rcases s.rampEnded_cases with ⟨-, heq⟩ | ⟨m, hm, heq⟩ <;> rw [heq]
  · exact .refl s
  · have hover : PathFalls s (s.rampOver m) := by
      refine (releasedTo_falls fun ⟨_, hasked, _⟩ => hasked m hm).trans
        (.of_fields ?_ ?_ rfl (fun _ h => by cases h) fun c hc => ⟨c, hc, rfl⟩) <;>
      rw [releasedTo_power] <;> rfl
    exact hover.trans (State.powerReached_pathKeeps _).falls

/-! ### The commands -/

theorem grantedAtRelease_pathKeeps (s : State) : PathKeeps s (grantedAtRelease s) := by
  unfold grantedAtRelease
  split
  · exact .of_eq rfl rfl rfl
  · exact .refl s

/-- The port's return makes the engine's waiting accesses (R21). -/
theorem State.returnPort_pathKeeps (s : State) : PathKeeps s s.returnPort := by
  cases hw : s.port.waits with
  | nil =>
    rw [State.returnPort, hw]
    exact .of_eq rfl rfl rfl
  | cons w ws =>
    rw [State.returnPort_waits hw]
    have hasks : PathKeeps s ({ s with port := { owner := .engine, waits := [] } } : State).askAtReturn := by
      unfold State.askAtReturn
      split <;> exact .of_eq rfl rfl rfl
    exact (hasks.trans (State.foldl_makeAccess_pathKeeps _ _)).trans (grantedAtRelease_pathKeeps _)

/-- The commands that may start, carry on or end a move of the Power Path, beyond what a halt ends (R106 to R110). -/
def runsMove : Instr → Bool
  | .zeroCaptureEnd | .rampExpiry | .claimJudgement | .recoverExpiry | .stepPower | .reset _ _ => true
  | _ => false

theorem exec_pathKeeps {i : Instr} {s t : State} (h : exec i s = .next t) (hi : runsMove i = false) : PathKeeps s t := by
  cases i with
  | reset | zeroCaptureEnd | rampExpiry | claimJudgement | recoverExpiry | stepPower => cases hi
  | railcheckAverageEnd =>
    simp only [exec, execRailcheckAverageEnd] at h
    split at h
    · split at h
      · split at h <;> cases h
        · exact (State.stepFault_pathKeeps _ _).of_stands rfl rfl rfl
        · exact (State.completePassed_pathKeeps _ _).of_stands rfl rfl rfl
      · cases h; exact .refl s
    · cases h; exact .refl s
  | settleEnd =>
    simp only [exec, execSettleEnd] at h
    split at h
    · cases h; exact .refl s
    · split at h <;> cases h
      · exact s.settleEnded_pathKeeps _ _
      · exact .refl s
  | holdOffRelease =>
    simp only [exec, execHoldOffRelease] at h
    split at h
    · cases h; exact .refl s
    · split at h <;> cases h
      · exact s.holdOffEnded_pathKeeps _ _ _
      · exact .refl s
  | qualifierEdge =>
    simp only [exec, execQualifierEdge] at h
    split at h
    · cases h; exact .refl s
    · split at h <;> cases h
      · exact s.strobeComplete_pathKeeps _ _
      · exact .refl s
  | strobeTimerExpiry =>
    simp only [exec, execStrobeTimerExpiry] at h
    split at h
    · cases h; exact .refl s
    · split at h <;> cases h
      · exact s.strobeTimedOut_pathKeeps _ _
      · exact .refl s
  | coincidenceJudgement =>
    simp only [exec, execCoincidenceJudgement] at h
    split at h
    · cases h; exact .refl s
    · split at h <;> cases h
      · exact (State.dispatchClass_pathKeeps _ _ _).of_stands rfl rfl rfl
      · exact .refl s
  | waitExpiry =>
    simp only [exec, execWaitExpiry] at h
    split at h <;> cases h
    · exact s.complete_pathKeeps _ _
    · exact .refl s
  | stepLanes =>
    simp only [exec, execStepLanes] at h
    split at h <;> cases h
    · exact .refl s
    · exact (State.complete_pathKeeps _ _ _).of_stands rfl rfl rfl
  | stepDrive =>
    simp only [exec, execStepDrive] at h
    split at h <;> cases h
    · exact .refl s
    · exact (State.complete_pathKeeps _ _ _).of_stands rfl rfl rfl
  | stepSample =>
    simp only [exec, execStepSample] at h
    split at h <;> cases h
    · exact .refl s
    · exact s.startSample_pathKeeps
  | stepField =>
    simp only [exec, execStepField] at h
    split at h
    · cases h; exact .refl s
    · split at h <;> cases h
      · exact s.refuseRecord_pathKeeps
      · exact (State.complete_pathKeeps _ _ _).of_stands rfl rfl rfl
  | stepLimits =>
    simp only [exec, execStepLimits] at h
    split at h
    · cases h; exact .refl s
    · split at h <;> cases h
      · exact s.refuseRecord_pathKeeps
      · exact (State.complete_pathKeeps _ _ _).of_stands rfl rfl rfl
  | stepRailcheck =>
    simp only [exec, execStepRailcheck] at h
    split at h <;> cases h
    · exact .refl s
    · exact s.startAverage_pathKeeps _
  | stepGuard =>
    simp only [exec, execStepGuard] at h
    split at h <;> cases h
    · exact .refl s
    · exact (State.complete_pathKeeps _ _ _).of_stands (by simp) (by simp) (by simp)
  | stepScale =>
    simp only [exec, execStepScale] at h
    split at h <;> cases h
    · exact .refl s
    · exact (State.complete_pathKeeps _ _ _).of_stands (by simp) (by simp) (by simp)
  | stepWait =>
    simp only [exec, execStepWait] at h
    split at h
    · cases h; exact .refl s
    · split at h <;> cases h
      · exact s.complete_pathKeeps _ _
      · exact s.enterPhase_pathKeeps _ _
  | stepRepeat =>
    simp only [exec, execStepRepeat] at h
    split at h
    · cases h; exact .refl s
    · split at h
      · cases h; exact s.refuseRecord_pathKeeps
      · split at h <;> cases h
        · exact s.complete_pathKeeps _ _
        · exact .of_eq (by simp) (by simp) (by simp)
  | stepMark =>
    simp only [exec, execStepMark] at h
    split at h <;> cases h
    · exact .refl s
    · exact s.complete_pathKeeps _ _
  | stepStop =>
    simp only [exec, execStepStop] at h
    split at h <;> cases h
    · exact .refl s
    · exact s.complete_pathKeeps _ _
  | unknownStepKind =>
    simp only [exec, execUnknownStepKind] at h
    split at h <;> cases h
    · exact .refl s
    · exact s.refuseRecord_pathKeeps
  | servePost =>
    simp only [exec, execServePost] at h
    split at h
    · cases h; exact .refl s
    · split at h <;> cases h
      · exact s.reply_pathKeeps _ _
      · exact (s.postTo_pathKeeps _).trans (State.reply_pathKeeps _ _ _)
  | serveLoad =>
    have hframe := execServeLoad_frame h
    exact .of_eq (by simp [hframe]) (by simp [hframe]) (by simp [hframe])
  | servePeek =>
    have hframe := execServePeek_frame h
    exact .of_eq (by simp [hframe]) (by simp [hframe]) (by simp [hframe])
  | serveStart =>
    have hframe := execServeStart_frame h
    exact .of_eq (by simp [hframe]) (by simp [hframe]) (by simp [hframe])
  | servePause =>
    have hframe := execServePause_frame h
    exact .of_eq (by simp [hframe]) (by simp [hframe]) (by simp [hframe])
  | serveResume =>
    have hframe := execServeResume_frame h
    exact .of_eq (by simp [hframe]) (by simp [hframe]) (by simp [hframe])
  | serveRing =>
    have hframe := execServeRing_frame h
    exact .of_eq (by simp [hframe]) (by simp [hframe]) (by simp [hframe])
  | serveAbort =>
    simp only [exec, execServeAbort] at h
    split at h <;> cases h
    · exact .refl s
    · refine State.controlReply_pathKeeps (fun u hu => ?_) _ _
      simp only [State.abortVerdict] at hu
      split at hu
      · cases hu
      · split at hu <;> cases hu
        exact s.abort_pathKeeps
  | serveClear =>
    simp only [exec, execServeClear] at h
    split at h <;> cases h
    · exact .refl s
    · refine State.controlReply_pathKeeps (fun u hu => ?_) _ _
      simp only [State.clearVerdict] at hu
      split at hu
      · cases hu
      · split at hu <;> cases hu
        exact s.clear_pathKeeps
  | benchAccessGrant =>
    rcases execBenchAccessGrant_cases h with rfl | ⟨q, m, payload, -, -, -, -, rfl⟩
    · exact .refl _
    · exact (State.returnPort_pathKeeps _).of_stands (by simp) (by simp) (by simp)
  | _ => exact (exec_blockKeeps h rfl).pathKeeps

theorem execRecoverExpiry_falls {s t : State} (h : execRecoverExpiry s = .next t) : PathFalls s t := by
  unfold execRecoverExpiry at h
  split at h
  · dsimp only at h
    split at h
    · cases h; exact .refl s
    · split at h
      · cases h; exact (State.startSample_pathKeeps _).falls.of_stands rfl rfl
      · split at h
        · cases h; exact (State.startAverage_pathKeeps _ _).falls.of_stands rfl rfl
        · split at h
          · split at h <;> cases h
            rename_i hdispatch
            exact (State.dispatchPower_falls hdispatch).of_stands rfl rfl
          · cases h; exact .refl s
  · cases h; exact .refl s

/-- Switches close and draw rises at the end of a capture and at a judged claim alone, RESET aside (R105, R131). -/
theorem exec_falls {i : Instr} {s t : State} (h : exec i s = .next t) (hreset : ∀ slot rate, i ≠ .reset slot rate)
    (hcapture : i ≠ .zeroCaptureEnd) (hclaim : i ≠ .claimJudgement) : PathFalls s t := by
  cases hi : runsMove i with
  | false => exact (exec_pathKeeps h hi).falls
  | true =>
    cases i with
    | reset slot rate => exact absurd rfl (hreset slot rate)
    | zeroCaptureEnd => exact absurd rfl hcapture
    | claimJudgement => exact absurd rfl hclaim
    | recoverExpiry => exact execRecoverExpiry_falls h
    | rampExpiry =>
      simp only [exec, execRampExpiry] at h
      split at h
      · cases h; exact .refl s
      · split at h <;> cases h
        · exact s.rampEnded_falls
        · exact .refl s
    | stepPower =>
      simp only [exec, execStepPower] at h
      split at h
      · cases h; exact .refl s
      · split at h <;> cases h
        exact State.dispatchPower_falls ‹_›
    | _ => cases hi

theorem State.zeroed_falls (s : State) (z : ZeroCapture) : PathFalls s (s.zeroed z) := .of_eq rfl rfl

/-- A failed capture gives its move up and closes nothing (R107). -/
theorem State.captureAbandoned_falls (s : State) (z : ZeroCapture) : PathFalls s (s.captureAbandoned z) := by
  have hover : PathFalls s s.captureOver := .of_eq rfl rfl
  have hfailed := (hover.trans (State.recordFault_falls _ (backfeedFault z) none)).trans (State.captureFailed_falls _)
  unfold State.captureAbandoned
  split
  · exact hfailed.trans (State.enterJudging_pathKeeps _ _).falls
  · exact hfailed

/-! ### O4: draw behind every closed switch -/

theorem State.captureDone_switchesHeld {s : State} (h : s.SwitchesHeld) : s.captureDone.SwitchesHeld := by
  obtain ⟨-, hasked, -⟩ := id h
  rcases s.captureDone_cases with ⟨heq, hcovered⟩ | ⟨m, hm, -, heq⟩ <;> rw [heq]
  · refine State.enterRamping_switchesHeld h fun m hm hheld => hasked m hm ?_
    have hcovered := hcovered m hm
    rw [hheld] at hcovered
    exact BitVec.eq_of_toNat_eq (by simpa using hcovered)
  · exact ((State.toClaiming_falls hm).trans (State.askClaim_falls fun _ => hasked m hm)).switchesHeld h

theorem State.claimMet_switchesHeld {s : State} (h : s.SwitchesHeld) {c : OwnClaim} (hc : s.draw.claim = some c) :
    (s.claimMet c).SwitchesHeld := by
  obtain ⟨-, hasked, hasking⟩ := h
  exact ⟨fun _ => hasking c hc, hasked, fun _ h => by cases h⟩

theorem State.claimGranted_switchesHeld {s : State} (h : s.SwitchesHeld) : s.claimGranted.SwitchesHeld := by
  rcases s.claimGranted_cases with ⟨-, heq⟩ | ⟨c, hc, ⟨-, heq⟩ | ⟨m, -, -, heq⟩ | ⟨m, -, -, heq⟩⟩ <;> rw [heq]
  · exact h
  · exact State.claimMet_switchesHeld h hc
  · refine (State.powerReached_pathKeeps _).falls.switchesHeld ?_
    obtain ⟨hclosed, -, hasking⟩ := State.claimMet_switchesHeld h hc
    exact ⟨hclosed, (fun _ h => by cases h), hasking⟩
  · obtain ⟨-, -, hasking⟩ := id h
    exact State.enterRamping_switchesHeld (State.claimMet_switchesHeld h hc) fun _ _ => hasking c hc

theorem exec_switchesHeld {i : Instr} {s t : State} (hs : s.SwitchesHeld) (h : exec i s = .next t) : t.SwitchesHeld := by
  by_cases hcapture : i = .zeroCaptureEnd
  · subst hcapture
    rcases execZeroCaptureEnd_cases h with rfl | ⟨z, -, rfl⟩ | ⟨z, -, rfl⟩
    · exact hs
    · exact State.captureDone_switchesHeld ((s.zeroed_falls z).switchesHeld hs)
    · exact (s.captureAbandoned_falls z).switchesHeld hs
  · by_cases hclaim : i = .claimJudgement
    · subst hclaim
      rcases execClaimJudgement_cases h with rfl | ⟨-, rfl | rfl⟩
      · exact hs
      · exact s.claimRefused_falls.switchesHeld hs
      · exact State.claimGranted_switchesHeld hs
    · by_cases hreset : ∀ slot rate, i ≠ .reset slot rate
      · exact (exec_falls h hreset hcapture hclaim).switchesHeld hs
      · obtain ⟨slot, rate, rfl⟩ : ∃ slot rate, i = .reset slot rate := by simpa using hreset
        cases h
        simp [State.SwitchesHeld, State.afterReset, State.reset, Power.reset, DrawUnit.reset]

/-- Settles O4: no operation closes a switch or gives draw back down to 0 behind a closed one; the entry into RAMPING, which
closes them, finds the draw it asks for held. -/
theorem stepKeepsSwitchesHeld : Obligations.StepKeepsSwitchesHeld := by
  intro s t hs h
  exact step_keeps_of_exec (P := State.SwitchesHeld) (fun _ _ hs => hs) (fun _ _ _ => exec_switchesHeld) hs h

/-! ### O13: where switches close and draw rises -/

/-- A switch that was open is closed. -/
def Closes (s t : State) : Prop :=
  (s.power.standby = false ∧ t.power.standby = true) ∨ (s.power.main = false ∧ t.power.main = true)

theorem PathFalls.not_closes {s t : State} (h : PathFalls s t) : ¬ Closes s t := by
  rintro (⟨hopen, hclosed⟩ | ⟨hopen, hclosed⟩)
  · exact absurd (h.standby hclosed) (by simp [hopen])
  · exact absurd (h.main hclosed) (by simp [hopen])

/-- The end of a capture closes switches on its entry into RAMPING alone (R107). -/
theorem State.captureDone_closes {s : State} (h : Closes s s.captureDone) :
    s.captureDone.power.state = .ramping ∧ s.captureDone.power.standby = true := by
  rcases s.captureDone_cases with ⟨heq, -⟩ | ⟨m, hm, hmore, heq⟩ <;> rw [heq] at h ⊢
  · exact State.enterRamping_closes h
  · have hasking : m.asked ≠ 0 := fun hzero => by simp [hzero] at hmore
    exact absurd h ((State.toClaiming_falls hm).trans (State.askClaim_falls fun _ => hasking)).not_closes

/-- A granted claim closes switches on its entry into RAMPING alone (R108). -/
theorem State.claimGranted_closes {s : State} (h : Closes s s.claimGranted) :
    s.claimGranted.power.state = .ramping ∧ s.claimGranted.power.standby = true := by
  rcases s.claimGranted_cases with ⟨-, heq⟩ | ⟨c, -, ⟨-, heq⟩ | ⟨m, -, -, heq⟩ | ⟨m, -, -, heq⟩⟩ <;> rw [heq] at h ⊢
  · exact absurd h (PathFalls.refl s).not_closes
  · exact absurd h (PathFalls.refl s).not_closes
  · exact absurd h (State.powerReached_pathKeeps { s.claimMet c with
      power := { s.power with declared := m.asked, move := none } }).falls.not_closes
  · exact State.enterRamping_closes (s := s.claimMet c) h

theorem State.afterReset_opens (s : State) (slot : BitVec 5) (rate : BitVec 2) :
    (s.afterReset slot rate).power.standby = false ∧ (s.afterReset slot rate).power.main = false ∧
      (s.afterReset slot rate).draw.held = 0 :=
  ⟨rfl, rfl, rfl⟩

theorem exec_closes {i : Instr} {s t : State} (h : exec i s = .next t) (hcloses : Closes s t) :
    t.power.state = .ramping ∧ t.power.standby = true ∧ (i = .zeroCaptureEnd ∨ i = .claimJudgement) := by
  by_cases hcapture : i = .zeroCaptureEnd
  · subst hcapture
    rcases execZeroCaptureEnd_cases h with rfl | ⟨z, -, rfl⟩ | ⟨z, -, rfl⟩
    · exact absurd hcloses (PathFalls.refl _).not_closes
    · obtain ⟨hstate, hstandby⟩ := State.captureDone_closes (s := s.zeroed z) hcloses
      exact ⟨hstate, hstandby, .inl rfl⟩
    · exact absurd hcloses (s.captureAbandoned_falls z).not_closes
  · by_cases hclaim : i = .claimJudgement
    · subst hclaim
      rcases execClaimJudgement_cases h with rfl | ⟨-, rfl | rfl⟩
      · exact absurd hcloses (PathFalls.refl _).not_closes
      · exact absurd hcloses s.claimRefused_falls.not_closes
      · obtain ⟨hstate, hstandby⟩ := State.claimGranted_closes hcloses
        exact ⟨hstate, hstandby, .inr rfl⟩
    · by_cases hreset : ∀ slot rate, i ≠ .reset slot rate
      · exact absurd hcloses (exec_falls h hreset hcapture hclaim).not_closes
      · obtain ⟨slot, rate, rfl⟩ : ∃ slot rate, i = .reset slot rate := by simpa using hreset
        cases h
        obtain ⟨hstandby, hmain, -⟩ := s.afterReset_opens slot rate
        simp [Closes, hstandby, hmain] at hcloses

/-- A capture that is done enters RAMPING or asks for draw, and raises none (R107). -/
theorem State.captureDone_held (s : State) : s.captureDone.draw.held = s.draw.held := by
  simp

theorem exec_held {i : Instr} {s t : State} (h : exec i s = .next t) (hclaim : i ≠ .claimJudgement) :
    t.draw.held.toNat ≤ s.draw.held.toNat := by
  by_cases hcapture : i = .zeroCaptureEnd
  · subst hcapture
    rcases execZeroCaptureEnd_cases h with rfl | ⟨z, -, rfl⟩ | ⟨z, -, rfl⟩
    · exact le_rfl
    · rw [State.captureDone_held]
      exact (s.zeroed_falls z).held
    · exact (s.captureAbandoned_falls z).held
  · by_cases hreset : ∀ slot rate, i ≠ .reset slot rate
    · exact (exec_falls h hreset hcapture hclaim).held
    · obtain ⟨slot, rate, rfl⟩ : ∃ slot rate, i = .reset slot rate := by simpa using hreset
      cases h
      obtain ⟨-, -, hheld⟩ := s.afterReset_opens slot rate
      simp [hheld]

/-- Settles O13: every command but the two that may enter RAMPING leaves an open switch open, and every command but the
judgement of a claim leaves the held draw or gives some back. -/
theorem switchesCloseAndDrawRisesOnlyWhereTheRulesSay :
    Obligations.SwitchesCloseAndDrawRisesOnlyWhereTheRulesSay :=
  ⟨fun _ _ _ h hcloses => exec_closes h hcloses, fun _ _ _ h hclaim => exec_held h hclaim⟩

end Sys2Proof.Machine
end

section
/-! PROOFS of the family "the board power path", 9: where the engine stands while no move is under way (O8). -/

namespace Sys2Proof.Machine

/-! ### Settled and steady -/

/-- What waits for the port goes on at READY, and a job that is not RUNNING stands at READY (R31). -/
structure State.Settled (s : State) : Prop where
  waits : s.WaitsAtReady
  rests : s.eng.job ≠ .running → s.eng.phase = .ready

/-- A job that runs, with nothing waiting for the port that goes on: it may enter any phase. -/
structure State.Steady (s : State) : Prop where
  running : s.eng.job = .running
  quiet : Quiet s.port.waits

theorem State.Settled.of_ready {s : State} (h : s.eng.phase = .ready) : s.Settled := ⟨fun _ _ _ => h, fun _ => h⟩

theorem State.Steady.settled {s : State} (h : s.Steady) : s.Settled :=
  ⟨fun w hw hgoes => by simp [h.quiet.goesOn hw] at hgoes, fun hjob => absurd h.running hjob⟩

theorem State.Settled.of_eq {s t : State} (h : s.Settled) (hjob : t.eng.job = s.eng.job)
    (hphase : t.eng.phase = s.eng.phase) (hwaits : t.port.waits = s.port.waits) : t.Settled := by
  obtain ⟨hready, hrests⟩ := h
  exact ⟨fun w hw hgoes => hphase.trans (hready w (hwaits ▸ hw) hgoes), fun hne => hphase.trans (hrests (hjob ▸ hne))⟩

theorem State.Steady.of_eq {s t : State} (h : s.Steady) (hjob : t.eng.job = s.eng.job)
    (hwaits : t.port.waits = s.port.waits) : t.Steady :=
  ⟨hjob.trans h.running, hwaits ▸ h.quiet⟩

theorem State.Steady.settles {s t : State} (h : s.Steady) (hjob : t.eng.job = s.eng.job)
    (hwaits : t.port.waits = s.port.waits) : t.Settled :=
  (h.of_eq hjob hwaits).settled

theorem State.WaitsAtReady.nothingGoesOn {s : State} (h : s.WaitsAtReady) (hphase : s.eng.phase ≠ .ready) :
    Quiet s.port.waits := by
  simpa using h.quiet hphase

/-- A record in a phase past READY stands in a job that runs (R31). -/
theorem State.Settled.steady {s : State} (h : s.Settled) (hphase : s.eng.phase ≠ .ready) : s.Steady :=
  ⟨not_not.mp fun hjob => hphase (h.rests hjob), h.waits.nothingGoesOn hphase⟩

theorem State.AwaitsDispatch.steady {s : State} {r : Record} (h : s.AwaitsDispatch r) : s.Steady := by
  obtain ⟨hjob, -, hwaits, -⟩ := h
  exact ⟨hjob, by rw [hwaits]; exact rfl⟩

theorem MoveStays.settled {s t : State} (h : MoveStays s t) (hs : s.Settled) : t.Settled := by
  rcases h.engine with ⟨heng, hwaits⟩ | ⟨-, hready⟩
  · exact hs.of_eq (by rw [heng]) (by rw [heng]) hwaits
  · exact .of_ready hready

/-! ### Completions end at READY -/

theorem State.fetchTest_phase (s : State) : s.fetchTest.eng.phase = s.eng.phase := by
  rw [State.fetchTest_eq]
  split_ifs <;> rfl

theorem State.boundary_phase (s : State) (a : AfterStep) : (s.boundary a).eng.phase = s.eng.phase := by
  rw [State.boundary_eq]

theorem State.haltJob_phase (s : State) (reason : HaltReason) : (s.haltJob reason).eng.phase = .ready := by
  rw [State.haltJob_eng]
  rfl

theorem State.endJob_phase (s : State) : s.endJob.eng.phase = .ready := by
  simp [State.endJob]

theorem State.goOn_ready {s : State} (h : s.eng.phase = .ready) (a : AfterStep) : (s.goOn a).eng.phase = .ready := by
  cases a with
  | stop => exact s.endJob_phase
  | halt reason => exact s.haltJob_phase reason
  | isolate => exact State.haltJob_phase _ _
  | advance | enter | skip => exact (s.boundary_phase _).trans h

theorem State.goOnHalted_eng (s : State) (a : AfterStep) : (s.goOnHalted a).eng = s.eng := by
  simp

theorem State.finish_ready {s : State} (h : s.eng.phase = .ready) (c : Completion) : (s.finish c).eng.phase = .ready := by
  have hprogress : (s.progress c).eng.phase = .ready := by simpa using h
  unfold State.finish
  dsimp only
  split
  · exact State.goOn_ready hprogress _
  · rw [State.goOnHalted_eng]
    exact hprogress

theorem State.complete_ready {s : State} (h : s.eng.phase = .ready ∨ s.eng.copy ≠ none) (o : StepOutcome) (a : AfterStep) :
    (s.complete o a).eng.phase = .ready := by
  unfold State.complete
  split
  · rename_i hcopy
    exact h.resolve_right (by simp [hcopy])
  · dsimp only
    split
    · split
      · rfl
      · exact State.finish_ready (by simp) _
    · exact State.finish_ready rfl _

/-- A completion ends at READY, or finds no record and does nothing. -/
theorem State.complete_settled {s : State} (h : s.Settled) (o : StepOutcome) (a : AfterStep) : (s.complete o a).Settled := by
  by_cases hcopy : s.eng.copy = none
  · rw [State.complete, hcopy]
    exact h
  · exact .of_ready (State.complete_ready (.inr hcopy) o a)

theorem State.completePassed_settled {s : State} (h : s.Settled) (first : StepOutcome) : (s.completePassed first).Settled :=
  State.complete_settled h _ _

theorem State.refuseRecord_settled {s : State} (h : s.Settled) : s.refuseRecord.Settled := by
  unfold State.refuseRecord
  split
  · exact h
  · exact .of_ready (State.haltJob_phase _ _)

theorem State.powerReached_settled {s : State} (h : s.Settled) : s.powerReached.Settled := by
  unfold State.powerReached
  split
  · exact State.completePassed_settled h _
  · exact h

theorem State.enterPhase_settled {s : State} (h : s.Steady) (p : StepPhase) (k : Option Timer) :
    (s.enterPhase p k).Settled := by
  rw [State.enterPhase_eq]
  exact h.settles rfl rfl

/-! ### Faults, strobes and judgements -/

theorem State.enterJudging_settled {s : State} (h : s.Steady) (q : BitVec 16) : (s.enterJudging q).Settled := by
  unfold State.enterJudging
  split
  · exact State.enterPhase_settled (by exact h.of_eq rfl rfl) _ _
  · exact h.settled

/-- A step fault leaves its record for JUDGING, or the job halted by a flood or by a claim lost to the notice (R41, R138). -/
theorem State.stepFault_settled {s : State} (h : s.Steady) (i : FaultInfo) : (s.stepFault i).Settled := by
  cases s.recordFault_standsOrHalts i none with
  | stands heng hport _ =>
    have hsteady : (s.recordFault i none).Steady := h.of_eq (by rw [heng]) (by rw [hport])
    unfold State.stepFault
    split
    · exact State.enterJudging_settled hsteady _
    · exact hsteady.settled
  | halts _ _ heng =>
    have hready : (s.recordFault i none).Settled := .of_ready (by rw [heng]; rfl)
    unfold State.stepFault
    split
    · rw [State.enterJudging, if_neg (by simp [State.inFlight, heng, haltedEngine])]
      exact hready
    · exact hready

/-- A capture entry alone, in memory or waiting for the port, goes nowhere. -/
theorem State.storeCapture_steady {s : State} (h : s.Steady) (entry : Record) : (s.storeCapture entry none).Steady := by
  unfold State.storeCapture
  split
  · obtain ⟨hjob, hquiet⟩ := h
    refine ⟨hjob, ?_⟩
    simp only [Quiet, State.wait, List.countP_append] at hquiet ⊢
    rw [hquiet]
    rfl
  · exact h.of_eq (by simp) (by simp)

theorem State.strobeJudged_settled {s : State} (h : s.Steady) (hready : s.eng.phase = .ready) (r : Record)
    (levels : Levels) (qualifiedTaken : Bool) (result : FieldResult) (fault : FaultInfo) :
    (s.strobeJudged r levels qualifiedTaken result fault).Settled := by
  have hraised : ∀ entry, ((if noCaptureFlag r then s else s.storeCapture entry none).stepFault fault).Settled := by
    intro entry
    split
    · exact State.stepFault_settled h _
    · exact State.stepFault_settled (State.storeCapture_steady h _) _
  have hpassed : ∀ entry outcome, (if noCaptureFlag r then s.complete outcome .advance
      else if s.port.owner = .bench then s.wait (.capture entry (some outcome))
      else (s.writeCapture entry).complete outcome .advance).Settled := by
    intro entry outcome
    split
    · exact State.complete_settled (.of_ready hready) _ _
    · split
      · exact .of_ready hready
      · exact State.complete_settled (.of_ready (by simpa using hready)) _ _
  cases result with
  | mismatch | jump => exact hraised _
  | none_ | pass => exact hpassed _ _

theorem State.strobeComplete_settled {s : State} (h : s.Steady) (levels : Levels) (qualifiedTaken : Bool) :
    (s.strobeComplete levels qualifiedTaken).Settled := by
  unfold State.strobeComplete
  split
  · exact h.settled
  · dsimp only
    split <;> exact State.strobeJudged_settled (by exact h.of_eq rfl rfl) rfl _ _ _ _ _

theorem State.holdOffEnded_settled {s : State} (h : s.Steady) (o : SampleOp) (start : Time) (testPoints : Levels) :
    (s.holdOffEnded o start testPoints).Settled := by
  unfold State.holdOffEnded
  dsimp only
  split
  · exact State.strobeComplete_settled h _ _
  · exact h.settles rfl rfl

theorem State.settleEnded_settled {s : State} (h : s.Steady) (o : SampleOp) (testPoints : Levels) :
    (s.settleEnded o testPoints).Settled := by
  unfold State.settleEnded
  dsimp only
  split
  · exact State.holdOffEnded_settled (by exact h.of_eq rfl rfl) _ _ _
  · exact h.settles rfl rfl

theorem State.strobeTimedOut_settled {s : State} (h : s.Steady) (b : Strobe) (testPoints : Levels) :
    (s.strobeTimedOut b testPoints).Settled := by
  have hcleared : ({ s with probe := { s.probe with strobe := none } } : State).Steady := h.of_eq rfl rfl
  unfold State.strobeTimedOut
  split
  · exact h.settled
  · dsimp only
    split
    · exact State.stepFault_settled hcleared _
    · exact State.stepFault_settled (State.storeCapture_steady hcleared _) _

theorem State.startSample_settled {s : State} (h : s.Steady) : s.startSample.Settled :=
  State.enterPhase_settled (by exact h.of_eq rfl rfl) _ _

theorem State.startAverage_settled {s : State} (h : s.Steady) (o : RailcheckOp) : (s.startAverage o).Settled :=
  State.enterPhase_settled (by exact h.of_eq rfl rfl) _ _

theorem State.engineClass_settled {s : State} (h : s.Settled) (q : BitVec 16) (c : FaultClass) :
    (s.engineClass q c).Settled := by
  unfold State.engineClass
  split
  · rename_i hjudged
    obtain ⟨-, hphase, -⟩ := hjudged
    split
    · exact h
    · split <;> exact State.complete_settled h _ _
    · split
      · exact State.enterPhase_settled (by exact (h.steady (by simp [hphase])).of_eq rfl rfl) _ _
      · exact State.complete_settled h _ _
  · exact h

/-! ### Ring and port -/

/-- The command that posts steps re-tests a STARVED job, which stands at READY (R31, R38). -/
theorem State.retest_ready {s : State} (h : s.eng.phase = .ready) : s.retest.eng.phase = .ready := by
  unfold State.retest
  dsimp only
  split
  · split
    · split
      · exact h
      · exact (State.fetchTest_phase _).trans h
    · split
      · exact State.complete_ready (.inl (by exact h)) _ _
      · exact h
  · exact h

theorem State.makeAccess_ready {s : State} (h : s.eng.phase = .ready) (a : EngineAccess) :
    (s.makeAccess a).eng.phase = .ready := by
  cases a with
  | capture entry completes =>
    have hentry : (s.writeCapture entry).eng.phase = .ready := by simpa using h
    cases completes with
    | none => exact hentry
    | some o =>
      simp only [State.makeAccess]
      split
      · exact State.complete_ready (.inl hentry) _ _
      · exact hentry
  | outcome index code count after =>
    have hbytes : (s.writeOutcome index code count).eng.phase = .ready := by simpa using h
    cases after with
    | none => exact hbytes
    | some c => exact State.finish_ready hbytes _
  | fetch =>
    simp only [State.makeAccess, State.fetch]
    split
    · split <;> exact h
    · exact h

theorem State.foldl_makeAccess_ready (l : List EngineAccess) {s : State} (h : s.eng.phase = .ready) :
    (l.foldl State.makeAccess s).eng.phase = .ready := by
  induction l generalizing s with
  | nil => exact h
  | cons a l ih => exact ih (State.makeAccess_ready h a)

/-- An access that does not go on reaches memory and the capture buffer alone. -/
theorem State.makeAccess_of_quiet {s : State} {a : EngineAccess} (h : a.goesOn = false) :
    (s.makeAccess a).eng = s.eng ∧ (s.makeAccess a).port = s.port ∧ (s.makeAccess a).power = s.power := by
  cases a with
  | fetch => cases h
  | capture entry completes =>
    cases completes with
    | none => simp [State.makeAccess]
    | some => cases h
  | outcome index code count after =>
    cases after with
    | none => simp [State.makeAccess]
    | some => cases h

theorem State.foldl_makeAccess_of_quiet (l : List EngineAccess) (s : State) (h : ∀ a ∈ l, a.goesOn = false) :
    (l.foldl State.makeAccess s).eng = s.eng ∧ (l.foldl State.makeAccess s).port = s.port ∧
      (l.foldl State.makeAccess s).power = s.power := by
  induction l generalizing s with
  | nil => exact ⟨rfl, rfl, rfl⟩
  | cons a l ih =>
    obtain ⟨heng, hport, hpower⟩ := State.makeAccess_of_quiet (s := s) (h a List.mem_cons_self)
    obtain ⟨heng', hport', hpower'⟩ := ih (s.makeAccess a) fun b hb => h b (List.mem_cons_of_mem _ hb)
    exact ⟨heng'.trans heng, hport'.trans hport, hpower'.trans hpower⟩

end Sys2Proof.Machine
end

section
/-! PROOFS of the family "the board power path", 10: the commands that leave the moves as they are keep the board and the
record in flight in order (O8). -/

namespace Sys2Proof.Machine

/-! ### The record in flight of a move -/

/-- The part of `State.PowerInOrder` that speaks of the engine: a move has its POWER record in flight in AWAIT_POWER. -/
structure State.MoveInFlight (s : State) : Prop where
  flight : s.power.move ≠ none → s.eng.job = .running ∧ s.eng.phase = .awaitPower ∧ s.eng.copy ≠ none
  settled : s.Settled

theorem State.MoveInFlight.of_noMove {s : State} (hm : s.power.move = none) (h : s.Settled) : s.MoveInFlight :=
  ⟨fun hne => absurd hm hne, h⟩

theorem State.MoveInFlight.of_eq {s t : State} (h : s.MoveInFlight) (hmove : t.power.move = none ↔ s.power.move = none)
    (hjob : t.eng.job = s.eng.job) (hphase : t.eng.phase = s.eng.phase) (hcopy : t.eng.copy = s.eng.copy)
    (hwaits : t.port.waits = s.port.waits) : t.MoveInFlight :=
  ⟨by rw [ne_eq, hmove, hjob, hphase, hcopy]; exact h.flight, h.settled.of_eq hjob hphase hwaits⟩

theorem State.MoveInFlight.noMove_of_phase {s : State} (h : s.MoveInFlight) (hphase : s.eng.phase ≠ .awaitPower) :
    s.power.move = none := by
  by_contra hne
  obtain ⟨-, hawaits, -⟩ := h.flight hne
  exact hphase hawaits

theorem State.MoveInFlight.noMove_of_job {s : State} (h : s.MoveInFlight) (hjob : s.eng.job ≠ .running) :
    s.power.move = none :=
  not_not.mp fun hne => hjob (h.flight hne).1

theorem MoveStays.moveInFlight {s t : State} (h : MoveStays s t) (hs : s.MoveInFlight) : t.MoveInFlight := by
  refine ⟨fun hne => ?_, h.settled hs.settled⟩
  rcases h.engine with ⟨heng, -⟩ | ⟨hnone, -⟩
  · rw [heng]
    exact hs.flight fun hm => hne (h.noMove hm)
  · exact absurd hnone hne

/-- The invariant, cut into the order of the board and the place of the engine. -/
theorem State.powerInOrder_iff (s : State) : s.PowerInOrder ↔ s.PathInOrder True ∧ s.MoveInFlight := by
  constructor
  · rintro ⟨hpower, hdraw, hmove, hclaim, hdeclared, hcapture, hramp, hwaits, hrests⟩
    refine ⟨⟨⟨hpower, fun m hm => ?_, fun m hm => ?_, fun m hm => ?_, fun m hm => ?_, ⟨hclaim, ?_⟩, hdeclared,
      hcapture.trans (and_iff_left trivial).symm, hramp⟩, hdraw⟩, fun hne => ?_, hwaits, hrests⟩
    · obtain ⟨-, -, -, htarget, -⟩ := hmove m hm
      exact htarget
    · obtain ⟨-, -, -, -, hstart, -⟩ := hmove m hm
      exact hstart
    · obtain ⟨-, -, -, -, -, -, hasks, -⟩ := hmove m hm
      exact hasks
    · obtain ⟨-, -, -, -, -, -, -, hcovered⟩ := hmove m hm
      exact hcovered
    · rintro ⟨m, hm, hstage⟩
      obtain ⟨-, -, -, -, -, hstate, -⟩ := hmove m hm
      exact hstate hstage
    · obtain ⟨m, hm⟩ := Option.ne_none_iff_exists'.mp hne
      obtain ⟨hjob, hphase, hcopy, -⟩ := hmove m hm
      exact ⟨hjob, hphase, hcopy⟩
  · rintro ⟨⟨hboard, hdraw⟩, hflight, hwaits, hrests⟩
    refine ⟨hboard.power, hdraw, fun m hm => ?_, hboard.claim.mp, hboard.declared,
      hboard.capture.trans (and_iff_left trivial), hboard.ramp, hwaits, hrests⟩
    obtain ⟨hjob, hphase, hcopy⟩ := hflight (by simp [hm])
    exact ⟨hjob, hphase, hcopy, hboard.target m hm, hboard.start m hm, fun hstage => hboard.claim.mpr ⟨m, hm, hstage⟩,
      hboard.asks m hm, hboard.covered m hm⟩

theorem State.PowerInOrder.moveInFlight {s : State} (h : s.PowerInOrder) : s.MoveInFlight := by
  obtain ⟨-, hflight⟩ := s.powerInOrder_iff.mp h
  exact hflight

theorem State.PowerInOrder.pathInOrder {s : State} (h : s.PowerInOrder) : s.PathInOrder True := by
  obtain ⟨hpath, -⟩ := s.powerInOrder_iff.mp h
  exact hpath

theorem BlockKeeps.powerInOrder {s t : State} (h : BlockKeeps s t) (hs : s.PowerInOrder) : t.PowerInOrder :=
  t.powerInOrder_iff.mpr ⟨h.order _ hs.pathInOrder, h.stays.moveInFlight hs.moveInFlight⟩

/-! ### Dispatch -/

theorem State.AwaitsDispatch.noMove {s : State} {r : Record} (hr : s.AwaitsDispatch r) (h : s.MoveInFlight) :
    s.power.move = none := by
  obtain ⟨-, hphase, -⟩ := hr
  exact h.noMove_of_phase (by simp [hphase])

/-- The commands that dispatch a record other than a POWER. -/
def dispatchesNoMove : Instr → Bool
  | .stepLanes | .stepDrive | .stepSample | .stepField | .stepLimits | .stepRailcheck | .stepGuard | .stepScale | .stepWait
  | .stepRepeat | .stepMark | .stepStop | .unknownStepKind => true
  | _ => false

/-- A dispatch finds no record that awaits it, or completes it, refuses it, or enters its phase (R31, R34). -/
theorem exec_dispatches {i : Instr} {s t : State} (h : exec i s = .next t) (hi : dispatchesNoMove i = true) :
    t = s ∨ ((∃ r, s.AwaitsDispatch r) ∧ t.Settled) := by
  have hawaits : ∀ {k : Nat} {r : Record}, s.awaitingKind k = some r → t.Settled →
      t = s ∨ ((∃ r, s.AwaitsDispatch r) ∧ t.Settled) :=
    fun hr hsettled => .inr ⟨⟨_, State.awaitingKind_eq_some hr⟩, hsettled⟩
  have hsteady : ∀ {k : Nat} {r : Record}, s.awaitingKind k = some r → s.Steady :=
    fun hr => (State.awaitingKind_eq_some hr).steady
  cases i with
  | stepLanes =>
    simp only [exec, execStepLanes] at h
    split at h <;> cases h
    · exact .inl rfl
    · rename_i hr
      exact hawaits hr (State.complete_settled (by exact (hsteady hr).settles rfl rfl) _ _)
  | stepDrive =>
    simp only [exec, execStepDrive] at h
    split at h <;> cases h
    · exact .inl rfl
    · rename_i hr
      exact hawaits hr (State.complete_settled (by exact (hsteady hr).settles rfl rfl) _ _)
  | stepSample =>
    simp only [exec, execStepSample] at h
    split at h <;> cases h
    · exact .inl rfl
    · rename_i hr
      exact hawaits hr (State.startSample_settled (hsteady hr))
  | stepField =>
    simp only [exec, execStepField] at h
    split at h
    · cases h; exact .inl rfl
    · rename_i hr
      split at h <;> cases h
      · exact hawaits hr (State.refuseRecord_settled (hsteady hr).settled)
      · exact hawaits hr (State.complete_settled (by exact (hsteady hr).settles rfl rfl) _ _)
  | stepLimits =>
    simp only [exec, execStepLimits] at h
    split at h
    · cases h; exact .inl rfl
    · rename_i hr
      split at h <;> cases h
      · exact hawaits hr (State.refuseRecord_settled (hsteady hr).settled)
      · exact hawaits hr (State.complete_settled (by exact (hsteady hr).settles rfl rfl) _ _)
  | stepRailcheck =>
    simp only [exec, execStepRailcheck] at h
    split at h <;> cases h
    · exact .inl rfl
    · rename_i hr
      exact hawaits hr (State.startAverage_settled (hsteady hr) _)
  | stepGuard =>
    simp only [exec, execStepGuard] at h
    split at h <;> cases h
    · exact .inl rfl
    · rename_i hr
      exact hawaits hr (State.complete_settled ((hsteady hr).settles (by simp) (by simp)) _ _)
  | stepScale =>
    simp only [exec, execStepScale] at h
    split at h <;> cases h
    · exact .inl rfl
    · rename_i hr
      exact hawaits hr (State.complete_settled ((hsteady hr).settles (by simp) (by simp)) _ _)
  | stepWait =>
    simp only [exec, execStepWait] at h
    split at h
    · cases h; exact .inl rfl
    · rename_i hr
      split at h <;> cases h
      · exact hawaits hr (State.complete_settled (hsteady hr).settled _ _)
      · exact hawaits hr (State.enterPhase_settled (hsteady hr) _ _)
  | stepRepeat =>
    simp only [exec, execStepRepeat] at h
    split at h
    · cases h; exact .inl rfl
    · rename_i hr
      obtain ⟨-, hphase, -⟩ := State.awaitingKind_eq_some hr
      split at h
      · cases h
        exact hawaits hr (State.refuseRecord_settled (hsteady hr).settled)
      · split at h <;> cases h
        · exact hawaits hr (State.complete_settled (hsteady hr).settled _ _)
        · exact hawaits hr (.of_ready (by simpa using hphase))
  | stepMark =>
    simp only [exec, execStepMark] at h
    split at h <;> cases h
    · exact .inl rfl
    · rename_i hr
      exact hawaits hr (State.complete_settled (hsteady hr).settled _ _)
  | stepStop =>
    simp only [exec, execStepStop] at h
    split at h <;> cases h
    · exact .inl rfl
    · rename_i hr
      exact hawaits hr (State.complete_settled (hsteady hr).settled _ _)
  | unknownStepKind =>
    simp only [exec, execUnknownStepKind] at h
    split at h <;> cases h
    · exact .inl rfl
    · rename_i hr
      have hawait := State.awaiting_eq_some (Option.filter_eq_some_iff.mp hr).1
      exact .inr ⟨⟨_, hawait⟩, State.refuseRecord_settled hawait.steady.settled⟩
  | _ => cases hi

/-! ### The phases of SAMPLE, RAILCHECK and WAIT -/

/-- The commands that end a phase other than AWAIT_POWER, JUDGING and RECOVER. -/
def endsPhase : Instr → Bool
  | .settleEnd _ | .holdOffRelease _ | .qualifierEdge _ | .strobeTimerExpiry _ | .railcheckAverageEnd | .waitExpiry => true
  | _ => false

theorem State.strobeIn_steady {s : State} {p : StepPhase} {x : Record × Strobe} (hs : s.MoveInFlight)
    (h : s.strobeIn p = some x) (hp : p ≠ .ready) : s.eng.phase = p ∧ s.Steady := by
  obtain ⟨⟨-, hphase, -⟩, -⟩ := State.strobeIn_eq_some h
  exact ⟨hphase, hs.settled.steady (by rw [hphase]; exact hp)⟩

theorem exec_endsPhase {i : Instr} {s t : State} (hs : s.MoveInFlight) (h : exec i s = .next t) (hi : endsPhase i = true) :
    t = s ∨ (s.eng.phase ≠ .awaitPower ∧ t.Settled) := by
  cases i with
  | settleEnd =>
    simp only [exec, execSettleEnd] at h
    split at h
    · cases h; exact .inl rfl
    · rename_i hb
      obtain ⟨hphase, hsteady⟩ := State.strobeIn_steady hs hb (by decide)
      split at h <;> cases h
      · exact .inr ⟨by simp [hphase], State.settleEnded_settled hsteady _ _⟩
      · exact .inl rfl
  | holdOffRelease =>
    simp only [exec, execHoldOffRelease] at h
    split at h
    · cases h; exact .inl rfl
    · rename_i hb
      obtain ⟨hphase, hsteady⟩ := State.strobeIn_steady hs hb (by decide)
      split at h <;> cases h
      · exact .inr ⟨by simp [hphase], State.holdOffEnded_settled hsteady _ _ _⟩
      · exact .inl rfl
  | qualifierEdge =>
    simp only [exec, execQualifierEdge] at h
    split at h
    · cases h; exact .inl rfl
    · rename_i hb
      obtain ⟨hphase, hsteady⟩ := State.strobeIn_steady hs hb (by decide)
      split at h <;> cases h
      · exact .inr ⟨by simp [hphase], State.strobeComplete_settled hsteady _ _⟩
      · exact .inl rfl
  | strobeTimerExpiry =>
    simp only [exec, execStrobeTimerExpiry] at h
    split at h
    · cases h; exact .inl rfl
    · rename_i hb
      obtain ⟨hphase, hsteady⟩ := State.strobeIn_steady hs hb (by decide)
      split at h <;> cases h
      · exact .inr ⟨by simp [hphase], State.strobeTimedOut_settled hsteady _ _⟩
      · exact .inl rfl
  | railcheckAverageEnd =>
    simp only [exec, execRailcheckAverageEnd] at h
    split at h
    · split at h
      · rename_i hends
        obtain ⟨-, -, hphase⟩ := hends
        have hsteady := hs.settled.steady (by simp [hphase])
        refine .inr ⟨by simp [hphase], ?_⟩
        split at h <;> cases h
        · exact State.stepFault_settled (by exact hsteady.of_eq rfl rfl) _
        · exact State.completePassed_settled (by exact hsteady.settles rfl rfl) _
      · cases h; exact .inl rfl
    · cases h; exact .inl rfl
  | waitExpiry =>
    simp only [exec, execWaitExpiry] at h
    split at h <;> cases h
    · rename_i hdue
      obtain ⟨⟨-, hphase⟩, -⟩ := (s.timerDue_iff _).mp hdue
      exact .inr ⟨by simp [hphase], State.complete_settled hs.settled _ _⟩
    · exact .inl rfl
  | _ => cases hi

/-! ### Judgement, requests and the port -/

theorem State.engineClass_moveInFlight {s : State} (h : s.MoveInFlight) (q : BitVec 16) (c : FaultClass) :
    (s.engineClass q c).MoveInFlight := by
  by_cases hphase : s.eng.phase = .judging
  · exact .of_noMove ((s.engineClass_pathKeeps q c).noMove (h.noMove_of_phase (by simp [hphase])))
      (State.engineClass_settled h.settled q c)
  · unfold State.engineClass
    rw [if_neg fun ⟨_, hjudging, _⟩ => hphase hjudging]
    exact h

theorem State.dispatchClass_moveInFlight {s : State} (h : s.MoveInFlight) (r : FaultRecord) (c : FaultClass) :
    (s.dispatchClass r c).MoveInFlight := by
  unfold State.dispatchClass
  split
  · exact (s.guardClass_blockKeeps _ _).stays.moveInFlight h
  · exact h
  · exact h
  · exact State.engineClass_moveInFlight h _ _

/-- A post that re-tests no STARVED job changes P alone (R10). -/
theorem State.postTo_moveInFlight {s : State} (h : s.MoveInFlight) (index : RingIndex) : (s.postTo index).MoveInFlight := by
  by_cases hstarved : s.eng.job = .starved
  · refine .of_noMove ((s.postTo_pathKeeps index).noMove (h.noMove_of_job (by simp [hstarved]))) (.of_ready ?_)
    have hready := h.settled.rests (by simp [hstarved])
    unfold State.postTo
    split
    · exact hready
    · exact State.retest_ready hready
  · unfold State.postTo
    split
    · exact h
    · rw [State.retest, if_neg hstarved]
      exact h.of_eq Iff.rfl rfl rfl rfl rfl

theorem State.reply_moveInFlight {s : State} (h : s.MoveInFlight) (q : Request) (payload : List Byte) :
    (s.reply q payload).MoveInFlight :=
  h.of_eq (by simp) (by simp) (by simp) (by simp) (by simp)

theorem State.controlReply_moveInFlight {s : State} (h : s.MoveInFlight) {v : Except RefusalCode State}
    (hv : ∀ t, v = .ok t → t.MoveInFlight) (q : Request) (action : Byte) : (s.controlReply q action v).MoveInFlight := by
  cases v with
  | error c => exact State.reply_moveInFlight h _ _
  | ok t => exact State.reply_moveInFlight (hv t rfl) _ _

theorem State.start_moveInFlight {s : State} (hm : s.power.move = none) : s.start.MoveInFlight :=
  .of_noMove (by simpa [State.start] using hm) (.of_ready (State.fetchTest_phase _))

theorem State.pauseVerdict_moveInFlight {s t : State} {p : List Byte} (hs : s.MoveInFlight)
    (h : s.pauseVerdict p = .ok t) : t.MoveInFlight := by
  unfold State.pauseVerdict at h
  split at h
  · cases h
  · split at h <;> cases h
    · exact hs.of_eq Iff.rfl rfl rfl rfl rfl
    · rename_i hstarved
      exact .of_noMove (hs.noMove_of_job (by simp [hstarved])) (.of_ready (hs.settled.rests (by simp [hstarved])))
    · exact hs

theorem State.resumeVerdict_moveInFlight {s t : State} {p : List Byte} (hs : s.MoveInFlight)
    (h : s.resumeVerdict p = .ok t) : t.MoveInFlight := by
  unfold State.resumeVerdict at h
  split at h
  · cases h
  · split at h
    · rename_i hpaused
      cases h
      exact .of_noMove (by simpa using hs.noMove_of_job (by simp [hpaused])) (.of_ready (State.fetchTest_phase _))
    · split at h <;> cases h
      exact hs.of_eq Iff.rfl rfl rfl rfl rfl
    all_goals cases h

/-- An unpowered board has no move, and a powered one is taken down (R113). -/
theorem State.isolateBoard_move {s : State} (h : s.power.InOrder) : s.isolateBoard.power.move = none := by
  unfold State.isolateBoard
  split
  · rename_i hunpowered
    unfold Power.InOrder at h
    cases hstate : s.power.state <;> simp_all [PowerState.unpowered]
  · exact s.powerDown_move _

theorem State.abort_moveInFlight {s : State} (h : s.power.InOrder) : s.abort.MoveInFlight := by
  refine .of_noMove ?_ (.of_ready (State.haltJob_phase _ _))
  have hdown : s.abandon.isolateBoard.power.move = none := State.isolateBoard_move (by simpa using h)
  simpa [State.abort] using hdown

theorem State.clear_moveInFlight (s : State) (hm : s.power.move = none) : s.clear.MoveInFlight :=
  .of_noMove (s.clear_pathKeeps.noMove hm) (.of_ready (by simp [State.clear, Engine.cleared, Engine.reset]))

theorem grantedAtRelease_moveInFlight {s : State} (h : s.MoveInFlight) : (grantedAtRelease s).MoveInFlight := by
  unfold grantedAtRelease
  split
  · exact h.of_eq Iff.rfl rfl rfl rfl rfl
  · exact h

/-- The state in which the engine's waiting accesses are made (R21). -/
def State.portTaken (s : State) : State := s.portBack.askAtReturn

theorem State.portTaken_frame (s : State) :
    s.portTaken.eng = s.eng ∧ s.portTaken.power = s.power ∧ s.portTaken.port.waits = [] := by
  simp [State.portTaken, State.portBack]

/-- At READY every access that waits leaves the engine at READY; in the other phases none goes on (R21, R31). -/
theorem State.foldl_makeAccess_moveInFlight {s : State} (h : s.MoveInFlight) :
    (s.port.waits.foldl State.makeAccess s.portTaken).MoveInFlight := by
  obtain ⟨heng, hpower, hwaits⟩ := s.portTaken_frame
  by_cases hready : s.eng.phase = .ready
  · have hm : s.portTaken.power.move = none := by
      rw [hpower]
      exact h.noMove_of_phase (by simp [hready])
    exact .of_noMove ((State.foldl_makeAccess_pathKeeps _ _).noMove hm)
      (.of_ready (State.foldl_makeAccess_ready _ (by rw [heng]; exact hready)))
  · obtain ⟨hjob, hquiet⟩ := h.settled.steady hready
    obtain ⟨heng', hport', hpower'⟩ :=
      State.foldl_makeAccess_of_quiet s.port.waits s.portTaken fun w hw => hquiet.goesOn hw
    rw [heng] at heng'
    rw [hpower] at hpower'
    refine ⟨by rw [hpower', heng']; exact h.flight, State.Steady.settled ⟨by rw [heng']; exact hjob, ?_⟩⟩
    rw [hport', hwaits]
    exact rfl

theorem State.returnPort_moveInFlight {s : State} (h : s.MoveInFlight) : s.returnPort.MoveInFlight := by
  cases hw : s.port.waits with
  | nil =>
    rw [State.returnPort, hw]
    exact h.of_eq Iff.rfl rfl rfl rfl hw.symm
  | cons w ws =>
    rw [State.returnPort_waits hw, ← hw]
    exact grantedAtRelease_moveInFlight (State.foldl_makeAccess_moveInFlight h)

/-! ### Every command that leaves the moves as they are -/

theorem exec_moveInFlight {i : Instr} {s t : State} (hs : s.PowerInOrder) (h : exec i s = .next t)
    (hi : runsMove i = false) : t.MoveInFlight := by
  have hflight := hs.moveInFlight
  have hpath := exec_pathKeeps h hi
  cases hdispatches : dispatchesNoMove i with
  | true =>
    rcases exec_dispatches h hdispatches with rfl | ⟨⟨r, hr⟩, hsettled⟩
    · exact hflight
    · exact .of_noMove (hpath.noMove (hr.noMove hflight)) hsettled
  | false =>
  cases hends : endsPhase i with
  | true =>
    rcases exec_endsPhase hflight h hends with rfl | ⟨hphase, hsettled⟩
    · exact hflight
    · exact .of_noMove (hpath.noMove (hflight.noMove_of_phase hphase)) hsettled
  | false =>
  cases hleaves : leavesEngine i with
  | true => exact (exec_blockKeeps h hleaves).stays.moveInFlight hflight
  | false =>
  cases i with
  | coincidenceJudgement =>
    simp only [exec, execCoincidenceJudgement] at h
    split at h
    · cases h; exact hflight
    · split at h <;> cases h
      · exact State.dispatchClass_moveInFlight (by exact hflight.of_eq Iff.rfl rfl rfl rfl rfl) _ _
      · exact hflight
  | servePost =>
    simp only [exec, execServePost] at h
    split at h
    · cases h; exact hflight
    · split at h <;> cases h
      · exact State.reply_moveInFlight hflight _ _
      · exact State.reply_moveInFlight (State.postTo_moveInFlight hflight _) _ _
  | serveLoad =>
    have hframe := execServeLoad_frame h
    exact hflight.of_eq (by simp [hframe]) (by simp [hframe]) (by simp [hframe]) (by simp [hframe]) (by simp [hframe])
  | servePeek =>
    have hframe := execServePeek_frame h
    exact hflight.of_eq (by simp [hframe]) (by simp [hframe]) (by simp [hframe]) (by simp [hframe]) (by simp [hframe])
  | benchAccessGrant =>
    rcases execBenchAccessGrant_cases h with rfl | ⟨q, m, payload, -, -, -, -, rfl⟩
    · exact hflight
    · exact State.returnPort_moveInFlight (State.reply_moveInFlight (by exact hflight.of_eq Iff.rfl rfl rfl rfl rfl) _ _)
  | serveStart =>
    simp only [exec, execServeStart] at h
    split at h <;> cases h
    · exact hflight
    · refine State.controlReply_moveInFlight hflight (fun u hu => ?_) _ _
      simp only [State.startVerdict] at hu
      split_ifs at hu with _ _ hidle
      cases hu
      exact State.start_moveInFlight (hflight.noMove_of_job (by simp [hidle]))
  | servePause =>
    simp only [exec, execServePause] at h
    split at h <;> cases h
    · exact hflight
    · exact State.controlReply_moveInFlight hflight (fun u hu => State.pauseVerdict_moveInFlight hflight hu) _ _
  | serveResume =>
    simp only [exec, execServeResume] at h
    split at h <;> cases h
    · exact hflight
    · exact State.controlReply_moveInFlight hflight (fun u hu => State.resumeVerdict_moveInFlight hflight hu) _ _
  | serveRing =>
    have hframe := execServeRing_frame h
    exact hflight.of_eq (by simp [hframe]) (by simp [hframe]) (by simp [hframe]) (by simp [hframe]) (by simp [hframe])
  | serveAbort =>
    obtain ⟨hboard, -⟩ := hs.pathInOrder
    simp only [exec, execServeAbort] at h
    split at h <;> cases h
    · exact hflight
    · refine State.controlReply_moveInFlight hflight (fun u hu => ?_) _ _
      simp only [State.abortVerdict] at hu
      split_ifs at hu
      cases hu
      exact State.abort_moveInFlight hboard.power
  | serveClear =>
    simp only [exec, execServeClear] at h
    split at h <;> cases h
    · exact hflight
    · refine State.controlReply_moveInFlight hflight (fun u hu => ?_) _ _
      simp only [State.clearVerdict] at hu
      split_ifs at hu with _ hactive
      cases hu
      exact s.clear_moveInFlight (hflight.noMove_of_job fun hjob => hactive (by simp [hjob, JobState.active]))
  | reset | zeroCaptureEnd | rampExpiry | claimJudgement | recoverExpiry | stepPower => cases hi
  | settleEnd | holdOffRelease | qualifierEdge | strobeTimerExpiry | railcheckAverageEnd | waitExpiry => cases hends
  | stepLanes | stepDrive | stepSample | stepField | stepLimits | stepRailcheck | stepGuard | stepScale | stepWait
  | stepRepeat | stepMark | stepStop | unknownStepKind => cases hdispatches
  | _ => cases hleaves

theorem exec_powerInOrder_of_noMove {i : Instr} {s t : State} (hs : s.PowerInOrder) (h : exec i s = .next t)
    (hi : runsMove i = false) : t.PowerInOrder :=
  t.powerInOrder_iff.mpr ⟨(exec_pathKeeps h hi).order _ hs.pathInOrder, exec_moveInFlight hs h hi⟩

end Sys2Proof.Machine
end

section
/-! PROOFS of the family "the board power path", 11: the moves keep board and record in flight in order, and the own draw
table entry stays unused (O8). -/

namespace Sys2Proof.Machine

theorem PathKeeps.powerInOrder {s t : State} (hk : PathKeeps s t) (h : s.PathInOrder True) (hm : s.power.move = none)
    (hsettled : t.Settled) : t.PowerInOrder :=
  t.powerInOrder_iff.mpr ⟨hk.order _ h, .of_noMove (hk.noMove hm) hsettled⟩

/-! ### POWER records -/

/-- No field of the switches, the state, the draw or the move is a trip limit (R106). -/
theorem State.limited_pathKeeps (s : State) (o : PowerOp) : PathKeeps s (s.limited o) := by
  refine ⟨s.limited_falls o, fun hm => ?_, fun _ ⟨hboard, hdraw⟩ => ?_⟩
  · unfold State.limited
    split <;> exact hm
  · unfold State.limited
    split
    · exact ⟨hboard, hdraw⟩
    · exact ⟨hboard.congr_power rfl rfl rfl rfl rfl rfl, hdraw⟩

/-- The start of an upward move (R107). -/
theorem State.startUpward_powerInOrder {s : State} (h : s.PathInOrder True) (hm : s.power.move = none) (hsteady : s.Steady)
    (hcopy : s.eng.copy ≠ none) {o : PowerOp} (hstate : s.power.state = .off ∨ s.power.state = .standby)
    (htarget : o.target = .standby ∨ o.target = .on) : (s.startUpward o).PowerInOrder := by
  obtain ⟨hboard, hdraw⟩ := h
  obtain ⟨hclaim, hdeclared, -, hramp⟩ := hboard.noMove hm
  have hnone := hdraw.claim_eq_none hclaim
  have hswitches : s.power.main = false ∧ s.power.standby = decide (s.power.state = .standby) := by
    have hpower := hboard.power
    unfold Power.InOrder at hpower
    rcases hstate with hs | hs <;> simp_all
  obtain ⟨hmain, hstandby⟩ := hswitches
  rw [State.startUpward_eq]
  refine (State.powerInOrder_iff _).mpr ⟨⟨?_, hdraw⟩, fun _ => ⟨hsteady.running, rfl, hcopy⟩, hsteady.settles rfl rfl⟩
  refine ⟨⟨hmain, _, rfl, rfl, hstandby⟩, ?_, ?_, by simp [hnone], ?_, by simp [hclaim], fun _ => hdeclared, by simp,
    by simp [hramp]⟩ <;> rintro m ⟨⟩
  · exact htarget
  · exact .inr hstate
  · simp

/-- A set-draw move, which leaves the state and the switches (R110, R111). -/
theorem State.startSetClaim_powerInOrder {s : State} (h : s.PathInOrder True) (hm : s.power.move = none)
    (hsteady : s.Steady) (hcopy : s.eng.copy ≠ none) (start : PowerState) {o : PowerOp}
    (hstate : s.power.state = .standby ∨ s.power.state = .on) (htarget : o.target = .standby ∨ o.target = .on) :
    (s.startSetClaim start o).PowerInOrder := by
  obtain ⟨hboard, hdraw⟩ := h
  obtain ⟨hclaim, hdeclared, hz, hramp⟩ := hboard.noMove hm
  have hflight : (s.setClaiming start o).MoveInFlight :=
    ⟨fun _ => ⟨hsteady.running, rfl, hcopy⟩, hsteady.settles rfl rfl⟩
  have hpower : (s.setClaiming start o).power.InOrder := by
    have hpower := hboard.power
    unfold Power.InOrder at hpower ⊢
    rcases hstate with hs | hs <;> simp_all [State.setClaiming]
  have hnot : s.power.state ≠ .zeroing ∧ s.power.state ≠ .ramping := by
    rcases hstate with hs | hs <;> simp [hs]
  rw [State.startSetClaim_eq]
  refine (State.powerInOrder_iff _).mpr ⟨State.askClaim_inOrder ?_ hdraw hclaim,
    (State.askClaim_moveStays _ _).moveInFlight hflight⟩
  refine ⟨hpower, ?_, ?_, ?_, ?_, by simp [State.claimAsked, State.setClaiming], fun _ => hdeclared, ?_, ?_⟩
  · rintro m ⟨⟩
    exact htarget
  · rintro m ⟨⟩
    exact .inl rfl
  · rintro m ⟨⟩ c ⟨⟩
    rfl
  · rintro m ⟨⟩
    simp
  · simp [State.setClaiming, hz, hnot]
  · simp [State.setClaiming, hramp, hnot]

/-- A draw given back with no move under way is the draw declared (R110, R131). -/
theorem State.lowerDraw_inOrder {captures : Prop} {s : State} (h : s.PathInOrder captures) (hm : s.power.move = none)
    {d : Draw} (hd : d.toNat ≤ s.draw.held.toNat) : (s.lowerDraw d).PathInOrder captures := by
  obtain ⟨hboard, hdraw⟩ := h
  obtain ⟨hclaim, -, hz, hramp⟩ := hboard.noMove hm
  have hheld : (releasedTo s d).draw.held = d := by
    rw [releasedTo_held]
    split
    · rfl
    · exact BitVec.eq_of_toNat_eq (by omega)
  rw [show s.lowerDraw d = _ from s.lowerDraw_eq s.power d]
  refine ⟨.of_noMove hboard.power hm ?_ hheld.symm ?_ hramp, releasedTo_inOrder hdraw d⟩
  · rw [show (releasedTo s d).draw = _ from releasedTo_draw s d]
    exact hclaim
  · exact (releasedTo_zeroCapture s d).trans hz

/-- R110, R111: the completion of a record that gives draw back. -/
theorem State.lowerDraw_powerInOrder {s : State} (h : s.PathInOrder True) (hm : s.power.move = none) (hsteady : s.Steady)
    {d : Draw} (hd : d.toNat ≤ s.draw.held.toNat) : ((s.lowerDraw d).completePassed .done).PowerInOrder := by
  have hlower := s.lowerDraw_eq s.power d
  refine (State.completePassed_pathKeeps _ _).powerInOrder (State.lowerDraw_inOrder h hm hd) ?_
    (State.completePassed_settled (hsteady.settles ?_ ?_) _)
  · rw [show s.lowerDraw d = _ from hlower]
    exact hm
  all_goals simp

theorem State.setDraw_powerInOrder {s : State} (h : s.PathInOrder True) (hm : s.power.move = none) (hsteady : s.Steady)
    (hcopy : s.eng.copy ≠ none) {o : PowerOp} (hstate : s.power.state = .standby ∨ s.power.state = .on)
    (htarget : o.target = .standby ∨ o.target = .on) : (s.setDraw o).PowerInOrder := by
  obtain ⟨hboard, -⟩ := id h
  obtain ⟨-, hdeclared, -, -⟩ := hboard.noMove hm
  unfold State.setDraw
  split
  · exact (s.completePassed_pathKeeps _).powerInOrder h hm (State.completePassed_settled hsteady.settled _)
  · split
    · rename_i hless
      exact State.lowerDraw_powerInOrder h hm hsteady (by rw [← hdeclared]; omega)
    · exact State.startSetClaim_powerInOrder h hm hsteady hcopy _ hstate htarget

/-- MAIN opened at once leaves the board in STANDBY (R111). -/
theorem State.mainOpened_inOrder {captures : Prop} {s : State} (h : s.PathInOrder captures) (hm : s.power.move = none)
    (hstate : s.power.state = .on) : s.mainOpened.PathInOrder captures := by
  obtain ⟨hboard, hdraw⟩ := h
  obtain ⟨hclaim, hdeclared, hz, hramp⟩ := hboard.noMove hm
  have hstandby : s.power.standby = true := by
    have hpower := hboard.power
    unfold Power.InOrder at hpower
    rw [hstate] at hpower
    obtain ⟨hstandby, -⟩ := hpower
    exact hstandby
  exact ⟨.of_noMove (.of_noMove hm (.inr (.inl ⟨rfl, hstandby, rfl⟩))) hm hclaim hdeclared hz hramp, hdraw⟩

theorem State.downward_powerInOrder {s : State} (h : s.PathInOrder True) (hm : s.power.move = none) (hsteady : s.Steady)
    (hcopy : s.eng.copy ≠ none) {o : PowerOp} (hstate : s.power.state = .on)
    (htarget : o.target = .standby ∨ o.target = .on) : (s.downward o).PowerInOrder := by
  have hopened : s.mainOpened.PathInOrder True := State.mainOpened_inOrder h hm hstate
  have hsteady : s.mainOpened.Steady := hsteady.of_eq rfl rfl
  rw [State.downward_eq]
  split
  · rename_i hless
    exact State.lowerDraw_powerInOrder hopened hm hsteady hless.le
  · split
    · exact (State.completePassed_pathKeeps _ _).powerInOrder hopened hm (State.completePassed_settled hsteady.settled _)
    · exact State.startSetClaim_powerInOrder hopened hm hsteady hcopy _ (.inl rfl) htarget

/-- Every POWER record that is run keeps the order of the board (R106, R110 to R112). -/
theorem State.runPower_powerInOrder {s t : State} (h : s.PathInOrder True) (hm : s.power.move = none) (hsteady : s.Steady)
    (hcopy : s.eng.copy ≠ none) {o : PowerOp} (ht : s.runPower o = some t) : t.PowerInOrder := by
  have hlimited := s.limited_pathKeeps o
  have horder := hlimited.order _ h
  have hmove := hlimited.noMove hm
  have hsteady' : (s.limited o).Steady := hsteady.of_eq (by simp) (by unfold State.limited; split <;> rfl)
  have hcopy' : (s.limited o).eng.copy ≠ none := by simpa using hcopy
  have hstate : (s.limited o).power.state = s.power.state := by unfold State.limited; split <;> rfl
  have hdown : (((s.limited o).powerDown .off).completePassed .done).PowerInOrder := by
    have hdown := (s.limited o).powerDown_blockKeeps (.inl rfl)
    exact (State.completePassed_pathKeeps _ _).powerInOrder (hdown.order _ horder) (hdown.stays.noMove hmove)
      (State.completePassed_settled (hdown.stays.settled hsteady'.settled) _)
  rw [State.runPower_eq] at ht
  split at ht <;> cases ht
  case h_1 =>
    exact (State.completePassed_pathKeeps _ _).powerInOrder horder hmove (State.completePassed_settled hsteady'.settled _)
  case h_2 | h_3 => exact hdown
  case h_4 | h_5 | h_6 =>
    exact State.startUpward_powerInOrder horder hmove hsteady' hcopy' (by simp [*]) (by simp [*])
  case h_7 | h_8 => exact State.setDraw_powerInOrder horder hmove hsteady' hcopy' (by simp [*]) (by simp [*])
  case h_9 => exact State.downward_powerInOrder horder hmove hsteady' hcopy' (by simp [*]) (by simp [*])

theorem State.dispatchPower_powerInOrder {s t : State} (h : s.PathInOrder True) (hm : s.power.move = none)
    (hsteady : s.Steady) (hcopy : s.eng.copy ≠ none) {r : Record} (ht : s.dispatchPower r = some t) : t.PowerInOrder := by
  unfold State.dispatchPower at ht
  split at ht
  · cases ht
    exact s.refuseRecord_pathKeeps.powerInOrder h hm (State.refuseRecord_settled hsteady.settled)
  · exact State.runPower_powerInOrder h hm hsteady hcopy ht

theorem execStepPower_powerInOrder {s t : State} (hs : s.PowerInOrder) (h : execStepPower s = .next t) :
    t.PowerInOrder := by
  unfold execStepPower at h
  split at h
  · cases h; exact hs
  · rename_i hr
    have hawaits := State.awaitingKind_eq_some hr
    obtain ⟨-, -, -, hcopy⟩ := id hawaits
    split at h <;> cases h
    exact State.dispatchPower_powerInOrder hs.pathInOrder (hawaits.noMove hs.moveInFlight) hawaits.steady
      (by simp [hcopy]) ‹_›

/-- The end of RECOVER runs the record again as its dispatch does (R44). -/
theorem execRecoverExpiry_powerInOrder {s t : State} (hs : s.PowerInOrder) (h : execRecoverExpiry s = .next t) :
    t.PowerInOrder := by
  have hflight := hs.moveInFlight
  have hpath := hs.pathInOrder
  unfold execRecoverExpiry at h
  split at h
  · rename_i hdue
    obtain ⟨⟨-, hphase⟩, -⟩ := (s.timerDue_iff _).mp hdue
    have hm : s.retried.power.move = none := hflight.noMove_of_phase (by simp [hphase])
    have hsteady : s.retried.Steady := (hflight.settled.steady (by simp [hphase])).of_eq rfl rfl
    have hpath : s.retried.PathInOrder True := hpath.of_eq rfl rfl rfl
    dsimp only at h
    split at h
    · cases h; exact hs
    · rename_i r hr
      split at h
      · cases h
        exact s.retried.startSample_pathKeeps.powerInOrder hpath hm (State.startSample_settled hsteady)
      · split at h
        · cases h
          exact (s.retried.startAverage_pathKeeps _).powerInOrder hpath hm (State.startAverage_settled hsteady _)
        · split at h
          · split at h <;> cases h
            rename_i hdispatch
            exact State.dispatchPower_powerInOrder (s := s.retried) hpath hm hsteady (by simp [State.retried, hr]) hdispatch
          · cases h; exact hs
  · cases h; exact hs

end Sys2Proof.Machine
end

section
/-! PROOFS of the family "the board power path", 12: a move carried on and ended, and the invariants of O8. -/

namespace Sys2Proof.Machine

/-! ### The ramp -/

theorem State.powerReached_powerInOrder {s : State} (h : s.PathInOrder True) (hm : s.power.move = none)
    (hsettled : s.Settled) : s.powerReached.PowerInOrder :=
  s.powerReached_pathKeeps.powerInOrder h hm (State.powerReached_settled hsettled)

theorem State.rampOver_engine (s : State) (m : Move) : (s.rampOver m).eng = s.eng ∧ (s.rampOver m).port = s.port := by
  unfold State.rampOver releasedTo
  split <;> exact ⟨rfl, rfl⟩

/-- A board whose ramp is over holds just what its move asked for (R109, R131). -/
theorem State.rampOver_inOrder {s : State} (h : s.PathInOrder True) {m : Move} (hm : s.power.move = some m)
    (hstage : m.stage = .ramping) : (s.rampOver m).PathInOrder True := by
  obtain ⟨hboard, hdraw⟩ := h
  have hheld : (releasedTo s m.asked).draw.held = m.asked := by
    have hcovered := hboard.covered m hm hstage
    rw [releasedTo_held]
    split
    · rfl
    · exact BitVec.eq_of_toNat_eq (by omega)
  refine ⟨?_, releasedTo_inOrder hdraw _⟩
  rw [show (s.rampOver m).rail.zeroCapture = s.rail.zeroCapture from releasedTo_zeroCapture _ _]
  exact hboard.reachesTarget hm hstage hheld (by rw [releasedTo_draw])

theorem execRampExpiry_powerInOrder {s t : State} (hs : s.PowerInOrder) (h : execRampExpiry s = .next t) :
    t.PowerInOrder := by
  unfold execRampExpiry at h
  split at h
  · cases h; exact hs
  · rename_i k hk
    split at h <;> cases h
    · obtain ⟨hboard, -⟩ := hs.pathInOrder
      have hstate := hboard.ramp.mp (by simp [hk])
      obtain ⟨-, -, hramps⟩ := hboard.power.move_of_state
      obtain ⟨m, hm, hstage⟩ := hramps hstate
      rcases s.rampEnded_cases with ⟨hnone, -⟩ | ⟨m', hm', heq⟩
      · simp [hm] at hnone
      · cases hm.symm.trans hm'
        obtain ⟨heng, hport⟩ := s.rampOver_engine m
        rw [heq]
        exact State.powerReached_powerInOrder (State.rampOver_inOrder hs.pathInOrder hm hstage) rfl
          (hs.moveInFlight.settled.of_eq (by rw [heng]) (by rw [heng]) (by rw [hport]))
    · exact hs

/-! ### The entry into RAMPING -/

/-- A move whose draw is held enters RAMPING with its claim and its capture over (R107 to R109). -/
theorem BoardInOrder.ramps {captures captures' : Prop} {p : Power} {d d' : DrawUnit} {z : Option ZeroCapture}
    (h : BoardInOrder captures p d z) {m : Move} (hm : p.move = some m) (hstage : m.stage = .zeroing ∨ m.stage = .claiming)
    (hcovered : m.asked.toNat ≤ d'.held.toNat) (hstate : d'.claimState = .none_) (hclaim : d'.claim = none) (k : Timer) :
    BoardInOrder captures' { p with
      state := .ramping, standby := true, main := p.main || decide (m.target = .on),
      move := some { m with stage := .ramping }, rampTimer := some k } d' none := by
  obtain ⟨-, hmain, -⟩ := h.power.state_of_start hm hstage
  have hstart : m.start = .off ∨ m.start = .standby :=
    (h.start m hm).resolve_left (by rcases hstage with hs | hs <;> simp [hs])
  refine ⟨⟨rfl, _, rfl, rfl, by simp [hmain]⟩, ?_, ?_, by simp [hclaim], ?_, by simp [hstate], by simp, by simp, by simp⟩ <;>
    rintro m' ⟨⟩
  · exact h.target m hm
  · exact .inr hstart
  · exact fun _ => hcovered

/-- The entry into RAMPING leaves the record of its move in flight. -/
theorem State.enterRamping_powerInOrder {captures : Prop} {s : State} {d : DrawUnit} {z : Option ZeroCapture}
    (h : BoardInOrder captures s.power d z) (hflight : s.MoveInFlight) (hdraw : s.draw.InOrder)
    (hz : s.rail.zeroCapture = none) {m : Move} (hm : s.power.move = some m)
    (hstage : m.stage = .zeroing ∨ m.stage = .claiming) (hcovered : m.asked.toNat ≤ s.draw.held.toNat)
    (hstate : s.draw.claimState = .none_) : s.enterRamping.PowerInOrder := by
  rw [State.enterRamping_of_move hm]
  refine (State.powerInOrder_iff _).mpr ⟨⟨?_, hdraw⟩, hflight.of_eq (by simp [hm]) rfl rfl rfl rfl⟩
  rw [show ({ s with power := _ } : State).rail.zeroCapture = none from hz]
  exact h.ramps hm hstage hcovered hstate (hdraw.claim_eq_none hstate) _

/-! ### The judged claim -/

theorem DrawUnit.InOrder.granted {d : DrawUnit} (h : d.InOrder) (hstate : d.claimState = .claiming) (c : OwnClaim) :
    (d.granted c).InOrder := by
  obtain ⟨-, -, hsent, -, -, -⟩ := id h
  have hmark := hsent (.inl hstate)
  have hbackoff := h.backoff_eq_none (by simp [hstate])
  simp [DrawUnit.InOrder, DrawUnit.granted, hmark, hbackoff]

/-- A claim is that of a move in CLAIMING or SET_CLAIM, which has no capture and asks for what the claim asks (R118). -/
theorem BoardInOrder.move_of_claim {captures : Prop} {p : Power} {d : DrawUnit} {z : Option ZeroCapture}
    (h : BoardInOrder captures p d z) (hstate : d.claimState ≠ .none_) :
    ∃ m, p.move = some m ∧ (m.stage = .claiming ∨ m.stage = .setClaim) ∧ z = none := by
  obtain ⟨m, hm, hstage⟩ := h.claim.mp hstate
  refine ⟨m, hm, hstage, not_not.mp (h.capture.not.mpr fun ⟨hzeroing, _⟩ => ?_)⟩
  obtain ⟨hzeroes, -⟩ := h.power.move_of_state
  obtain ⟨m', hm', hzero⟩ := hzeroes hzeroing
  cases hm.symm.trans hm'
  simp [hzero] at hstage

theorem State.claimGranted_powerInOrder {s : State} (hs : s.PowerInOrder) (hstate : s.draw.claimState = .claiming) :
    s.claimGranted.PowerInOrder := by
  have hflight := hs.moveInFlight
  obtain ⟨hboard, hdraw⟩ := hs.pathInOrder
  obtain ⟨m, hm, hstage, hz⟩ := hboard.move_of_claim (by simp [hstate])
  rcases s.claimGranted_cases with ⟨-, heq⟩ | ⟨c, hc, ⟨hnone, -⟩ | ⟨m', hm', hset, heq⟩ | ⟨m', hm', hset, heq⟩⟩
  · rw [heq]
    exact hs
  · simp [hm] at hnone
  · cases hm.symm.trans hm'
    rw [heq]
    have hswitches := hboard.power.state_of_setClaim hm hset
    have hnot : s.power.rampTimer = none := by
      refine not_not.mp (hboard.ramp.not.mpr ?_)
      rcases hswitches with ⟨hs, -⟩ | ⟨hs, -⟩ <;> simp [hs]
    refine State.powerReached_powerInOrder ⟨?_, hdraw.granted hstate c⟩ rfl (hflight.settled.of_eq rfl rfl rfl)
    exact .of_noMove (.of_noMove rfl (.inr hswitches)) rfl rfl (hboard.asks m hm c hc).symm hz hnot
  · cases hm.symm.trans hm'
    rw [heq]
    have hasks := hboard.asks m hm c hc
    exact State.enterRamping_powerInOrder (s := s.claimMet c) hboard (hflight.of_eq Iff.rfl rfl rfl rfl rfl)
      (hdraw.granted hstate c) hz hm (.inr (hstage.resolve_right hset)) (by rw [← hasks]; exact le_rfl) rfl

theorem execClaimJudgement_powerInOrder {s t : State} (hs : s.PowerInOrder) (h : exec .claimJudgement s = .next t) :
    t.PowerInOrder := by
  rcases execClaimJudgement_cases h with rfl | ⟨hstate, rfl | rfl⟩
  · exact hs
  · obtain ⟨hboard, hdraw⟩ := hs.pathInOrder
    obtain ⟨-, -, hsent, -⟩ := id hdraw
    exact (State.powerInOrder_iff _).mpr
      ⟨State.claimRefused_inOrder hboard (by simp [hstate]) (hdraw.claim_ne_none (by simp [hstate])) (hsent (.inl hstate)),
        s.claimRefused_moveStays.moveInFlight hs.moveInFlight⟩
  · exact State.claimGranted_powerInOrder hs hstate

/-! ### The end of a capture -/

/-- A capture is that of a move in ZEROING, which has no claim (R107). -/
theorem BoardInOrder.move_of_capture {captures : Prop} {p : Power} {d : DrawUnit} {z : Option ZeroCapture}
    (h : BoardInOrder captures p d z) (hz : z ≠ none) :
    ∃ m, p.move = some m ∧ m.stage = .zeroing ∧ d.claimState = .none_ := by
  obtain ⟨hzeroing, -⟩ := h.capture.mp hz
  obtain ⟨hzeroes, -⟩ := h.power.move_of_state
  obtain ⟨m, hm, hstage⟩ := hzeroes hzeroing
  refine ⟨m, hm, hstage, not_not.mp (h.claim.not.mpr ?_)⟩
  rintro ⟨m', hm', hstage'⟩
  cases hm.symm.trans hm'
  simp [hstage] at hstage'

/-- R107, R124: the move in CLAIMING, with its claim asked for. -/
theorem BoardInOrder.claims {captures captures' : Prop} {p : Power} {d d' : DrawUnit} {z : Option ZeroCapture}
    (h : BoardInOrder captures p d z) {m : Move} (hm : p.move = some m) (hstage : m.stage = .zeroing) {order : Option Time}
    (hheld : d'.held = d.held) (hstate : d'.claimState ≠ .none_) (hclaim : ∀ c, d'.claim = some c → c.asking = m.asked) :
    BoardInOrder captures' { p with
      state := .claiming, move := some { m with stage := .claiming, claimOrder := order } } d' none := by
  obtain ⟨hzeroing, hmain, hstandby⟩ := h.power.state_of_start hm (.inl hstage)
  rw [if_pos hstage] at hzeroing
  have hramp : p.rampTimer = none := not_not.mp (h.ramp.not.mpr (by simp [hzeroing]))
  refine ⟨⟨hmain, _, rfl, rfl, hstandby⟩, ?_, ?_, ?_, ?_, by simp [hstate], fun _ => ?_, by simp, by simp [hramp]⟩
  · rintro m' ⟨⟩
    exact h.target m hm
  · rintro m' ⟨⟩
    exact .inr ((h.start m hm).resolve_left (by simp [hstage]))
  · rintro m' ⟨⟩
    exact hclaim
  · rintro m' ⟨⟩ hramping
    cases hramping
  · exact (h.declared (by simp [hzeroing])).trans hheld.symm

theorem State.captureDone_powerInOrder {captures : Prop} {s : State} {z : Option ZeroCapture}
    (h : BoardInOrder captures s.power s.draw z) (hdraw : s.draw.InOrder) (hover : s.rail.zeroCapture = none)
    (hz : z ≠ none) (hflight : s.MoveInFlight) : s.captureDone.PowerInOrder := by
  obtain ⟨m, hm, hstage, hstate⟩ := h.move_of_capture hz
  rcases s.captureDone_cases with ⟨heq, hcovered⟩ | ⟨m', hm', -, heq⟩ <;> rw [heq]
  · exact State.enterRamping_powerInOrder h hflight hdraw hover hm (.inl hstage) (hcovered m hm) hstate
  · cases hm.symm.trans hm'
    have hclaiming : (s.toClaiming m).MoveInFlight := hflight.of_eq (by simp [State.toClaiming, hm]) rfl rfl rfl rfl
    refine (State.powerInOrder_iff _).mpr ⟨State.askClaim_inOrder ?_ hdraw hstate,
      (State.askClaim_moveStays _ _).moveInFlight hclaiming⟩
    rw [show (s.toClaiming m).rail.zeroCapture = none from hover]
    refine h.claims hm hstage rfl (by simp [State.claimAsked]) ?_
    rintro c ⟨⟩
    rfl

/-- A board without a move does not miss the capture that is over. -/
theorem State.PathInOrder.of_captureOver {s : State} (h : s.PathInOrder False) (hm : s.power.move = none) :
    s.PathInOrder True := by
  obtain ⟨hboard, hdraw⟩ := h
  obtain ⟨hclaim, hdeclared, hz, hramp⟩ := hboard.noMove hm
  exact ⟨.of_noMove hboard.power hm hclaim hdeclared hz hramp, hdraw⟩

@[simp] theorem State.captureOver_eng (s : State) : s.captureOver.eng = s.eng := rfl

@[simp] theorem State.captureOver_port (s : State) : s.captureOver.port = s.port := rfl

/-- R107: the Power Path back in the start state of a move that was zeroing. -/
theorem State.captureFailed_inOrder {s : State} (h : s.PathInOrder False) {m : Move} (hm : s.power.move = some m)
    (hstage : m.stage = .zeroing) : s.captureFailed.PathInOrder True := by
  obtain ⟨hboard, hdraw⟩ := h
  have hz : s.rail.zeroCapture = none := not_not.mp (hboard.capture.not.mpr fun ⟨_, hnever⟩ => hnever)
  have hstate : s.draw.claimState = .none_ := by
    refine not_not.mp (hboard.claim.not.mpr ?_)
    rintro ⟨m', hm', hstage'⟩
    cases hm.symm.trans hm'
    simp [hstage] at hstage'
  rw [State.captureFailed, hm]
  refine ⟨?_, hdraw⟩
  rw [show ({ s with power := _ } : State).rail.zeroCapture = none from hz]
  exact hboard.givesUp hm (by simp [hstage]) rfl hstate (by simp [hstage]) (.inr rfl)

theorem State.captureFailed_move (s : State) : s.captureFailed.power.move = none := by
  unfold State.captureFailed
  split
  · assumption
  · rfl

/-- R107, R116: a BACKFEED ends the move, by a flood or by giving it up. -/
theorem State.captureAbandoned_powerInOrder {s : State} (hs : s.PowerInOrder) {z : ZeroCapture}
    (hz : s.rail.zeroCapture = some z) : (s.captureAbandoned z).PowerInOrder := by
  have hflight := hs.moveInFlight
  obtain ⟨hboard, hdraw⟩ := hs.pathInOrder
  obtain ⟨m, hm, hstage, hstate⟩ := hboard.move_of_capture (by simp [hz])
  obtain ⟨hjob, hphase, -⟩ := hflight.flight (by simp [hm])
  have hsteady := hflight.settled.steady (by simp [hphase])
  have hover : s.captureOver.PathInOrder False := ⟨hboard.captureOver, hdraw⟩
  have hrecorded := State.recordFault_inOrder hover (backfeedFault z) none
  unfold State.captureAbandoned
  cases hroom : s.faults.hasRoom with
  | true =>
    obtain ⟨f, l, mark, hu⟩ := State.recordFault_of_noClaim (s := s.captureOver) hstate hroom (backfeedFault z) none
    have hfailed := State.captureFailed_inOrder hrecorded (m := m) (by rw [hu]; exact hm) hstage
    have hsteady : (s.captureOver.recordFault (backfeedFault z) none).captureFailed.Steady :=
      hsteady.of_eq (by simp [hu]) (by simp [hu])
    exact (State.enterJudging_pathKeeps _ _).powerInOrder hfailed (State.captureFailed_move _)
      (State.enterJudging_settled hsteady _)
  | false =>
    have hended := State.recordFault_flood_move (s := s.captureOver) hstate hroom
      (by simp [hjob, JobState.active]) (backfeedFault z) none
    dsimp only
    rw [if_neg (by decide), State.captureFailed_of_noMove hended]
    exact (State.powerInOrder_iff _).mpr ⟨hrecorded.of_captureOver hended, .of_noMove hended
      ((State.recordFault_moveStays _ _ _).settled (hsteady.settles rfl rfl))⟩

theorem execZeroCaptureEnd_powerInOrder {s t : State} (hs : s.PowerInOrder) (h : exec .zeroCaptureEnd s = .next t) :
    t.PowerInOrder := by
  rcases execZeroCaptureEnd_cases h with rfl | ⟨z, hz, rfl⟩ | ⟨z, hz, rfl⟩
  · exact hs
  · obtain ⟨hboard, hdraw⟩ := hs.pathInOrder
    have hover : (s.zeroed z).rail.zeroCapture = none := by rw [State.zeroed_eq]
    exact State.captureDone_powerInOrder (s := s.zeroed z) hboard hdraw hover (by simp [hz])
      (hs.moveInFlight.of_eq Iff.rfl rfl rfl rfl rfl)
  · exact State.captureAbandoned_powerInOrder hs hz

/-! ### Every command -/

/-- RESET leaves the reset state but for the straps (R152, R184). -/
theorem State.afterReset_powerInOrder (s : State) (slot : BitVec 5) (rate : BitVec 2) :
    (s.afterReset slot rate).PowerInOrder :=
  State.reset_powerInOrder

theorem exec_powerInOrder {i : Instr} {s t : State} (hs : s.PowerInOrder) (h : exec i s = .next t) : t.PowerInOrder := by
  cases hi : runsMove i with
  | false => exact exec_powerInOrder_of_noMove hs h hi
  | true =>
    cases i with
    | reset slot rate =>
      cases h
      exact s.afterReset_powerInOrder slot rate
    | zeroCaptureEnd => exact execZeroCaptureEnd_powerInOrder hs h
    | rampExpiry => exact execRampExpiry_powerInOrder hs h
    | claimJudgement => exact execClaimJudgement_powerInOrder hs h
    | recoverExpiry => exact execRecoverExpiry_powerInOrder hs h
    | stepPower => exact execStepPower_powerInOrder hs h
    | _ => cases hi

/-- No command writes an own entry that has no claim pending, which RESET leaves it without (R118). -/
theorem exec_ownEntryUnused {i : Instr} {s t : State} (hs : s.OwnEntryUnused) (h : exec i s = .next t) :
    t.OwnEntryUnused := by
  by_cases hreset : ∀ slot rate, i ≠ .reset slot rate
  · obtain ⟨-, -, -, hslot, -⟩ := exec_clock_postIndex_straps h hreset
    obtain ⟨-, -, -, -, -, -, -, -, hown⟩ := settingsChangeOnlyByTheirCommands i s t h hreset
    intro x hx
    rw [hslot] at hx
    have hunused := hs x hx
    rw [hown x hx (by rw [hunused])]
    exact hunused
  · obtain ⟨slot, rate, rfl⟩ : ∃ slot rate, i = .reset slot rate := by simpa using hreset
    cases h
    exact fun x _ => DrawUnit.reset_table_get x

/-- Settles O8: the first invariant as the order of the board with the place of the engine, each kept by every command; the
second by what every command leaves of the settings. -/
theorem stepKeepsPowerStatesAndTheOwnClaim : Obligations.StepKeepsPowerStatesAndTheOwnClaim :=
  ⟨fun _ _ hs h => step_keeps_of_exec (P := State.PowerInOrder) (fun _ _ hs => hs) (fun _ _ _ => exec_powerInOrder) hs h,
    fun _ _ hs h => step_keeps_of_exec (P := State.OwnEntryUnused) (fun _ _ hs => hs) (fun _ _ _ => exec_ownEntryUnused) hs h⟩

end Sys2Proof.Machine
end

section
/-! PROOFS of the family "the rack draw budget", 1: what the port makes of a frame it reads (O44, O46). -/

namespace Sys2Proof.Machine

/-! ### The port's judgement of a frame -/

/-- R158: the frame is of an assigned kind, within 32 bytes, and of its kind's length where the port holds the
kind to one. -/
def FrameIsOf (f : Frame) (k : FrameKind) : Prop :=
  FrameKind.ofCode f.kind = some k ∧ f.payload.length ≤ 32 ∧ ∀ n, fixedLength k = some n → f.payload.length = n

theorem FrameKind.ofCode_of_toNat {c : BitVec 4} {k : FrameKind} (h : c.toNat = k.code.toNat) :
    FrameKind.ofCode c = some k := by
  rw [BitVec.eq_of_toNat_eq h]
  cases k <;> rfl

theorem FrameIsOf.frameBad {f : Frame} {k : FrameKind} (h : FrameIsOf f k) : frameBad f = false := by
  obtain ⟨hk, hshort, hlength⟩ := h
  simp only [Machine.frameBad, hk, Bool.or_eq_false_iff, decide_eq_false_iff_not, Nat.not_lt]
  refine ⟨hshort, ?_⟩
  cases hn : fixedLength k with
  | none => rfl
  | some n => simp [hlength n hn]

/-- R159, R163: what becomes of a frame that is not bad, by its kind, its source and its destination. -/
theorem FrameIsOf.receive {f : Frame} {k : FrameKind} (h : FrameIsOf f k) (l : LinePort) :
    l.receive f =
      if k.fromPeer ∧ f.source.toNat < 30 then (if f.source = l.slot then .duplicate else .taken k)
      else if k.fromBench ∧ f.source = 30 ∧ l.addressed f.dest then .taken k
      else .passedOver := by
  simp only [LinePort.receive, h.frameBad, h.1]
  rfl

/-- R159: a frame that neither a peer's row nor the bench's takes. -/
theorem FrameIsOf.receive_passedOver {f : Frame} {k : FrameKind} (h : FrameIsOf f k) {l : LinePort}
    (hpeer : k.fromPeer = false ∨ 30 ≤ f.source.toNat)
    (hbench : k.fromBench = false ∨ f.source ≠ 30 ∨ l.addressed f.dest = false) : l.receive f = .passedOver := by
  have hnotPeer : ¬ (k.fromPeer ∧ f.source.toNat < 30) := by
    rintro ⟨hkind, hsource⟩
    rcases hpeer with hp | hp
    · simp [hp] at hkind
    · omega
  have hnotBench : ¬ (k.fromBench ∧ f.source = 30 ∧ l.addressed f.dest) := by
    rintro ⟨hkind, hsource, hdest⟩
    rcases hbench with hb | hb | hb
    · simp [hb] at hkind
    · exact hb hsource
    · simp [hb] at hdest
  rw [h.receive, if_neg hnotPeer, if_neg hnotBench]

/-- R158: 14 and 15 are no kinds. -/
theorem LinePort.receive_of_unassigned {f : Frame} (h : f.kind.toNat = 14 ∨ f.kind.toNat = 15) (l : LinePort) :
    l.receive f = .bad := by
  have hnone : FrameKind.ofCode f.kind = none := by
    rcases h with h | h <;> simp [FrameKind.ofCode, h]
  simp [LinePort.receive, frameBad, hnone]

/-- R158: a length other than the kind's own. -/
theorem LinePort.receive_of_length {f : Frame} {k : FrameKind} {n : Nat} (hk : f.kind.toNat = k.code.toNat)
    (hn : fixedLength k = some n) (hlength : f.payload.length ≠ n) (l : LinePort) : l.receive f = .bad := by
  simp [LinePort.receive, frameBad, FrameKind.ofCode_of_toNat hk, hn, hlength]

theorem LinePort.addressed_iff (l : LinePort) (f : Frame) : l.addressed f.dest = true ↔ l.addressedBy f := by
  simp [LinePort.addressed, LinePort.addressedBy]

/-- R158, R178: a frame of a kind without a length of its own. -/
theorem FrameIsOf.of_free {f : Frame} {k : FrameKind} (hwf : f.wf = true) (hk : f.kind.toNat = k.code.toNat)
    (hfree : fixedLength k = none) : FrameIsOf f k :=
  ⟨FrameKind.ofCode_of_toNat hk, of_decide_eq_true hwf, fun n hn => by simp [hfree] at hn⟩

theorem fixedLength_le {k : FrameKind} {n : Nat} (h : fixedLength k = some n) : n ≤ 32 := by
  cases k <;> cases h <;> decide

/-- R158, R178: a frame of its kind's own length. -/
theorem FrameIsOf.of_length {f : Frame} {k : FrameKind} {n : Nat} (hk : f.kind.toNat = k.code.toNat)
    (hn : fixedLength k = some n) (hlength : f.payload.length = n) : FrameIsOf f k :=
  ⟨FrameKind.ofCode_of_toNat hk, hlength ▸ fixedLength_le hn,
    fun _ hm => hlength.trans (Option.some.inj (hn.symm.trans hm))⟩

/-- R158, R159: a peer frame is one of a peer's kind, of that kind's length. -/
theorem isPeerFrame.isOf {f : Frame} (h : isPeerFrame f) :
    ∃ k, FrameIsOf f k ∧ k.fromPeer = true ∧ k.fromBench = false := by
  rcases h with ⟨hk, hlength⟩ | ⟨hk, hlength⟩ | ⟨hk, hlength⟩ | ⟨hk, hlength⟩
  · exact ⟨.fail, .of_length (by rw [hk]; rfl) rfl hlength, rfl, rfl⟩
  · exact ⟨.claim, .of_length (by rw [hk]; rfl) rfl hlength, rfl, rfl⟩
  · exact ⟨.draw, .of_length (by rw [hk]; rfl) rfl hlength, rfl, rfl⟩
  · exact ⟨.join, .of_length (by rw [hk]; rfl) rfl hlength, rfl, rfl⟩

/-- R158, R159: a bench request, or a SETUP of its length, is of a kind that the bench alone sends. -/
theorem FrameIsOf.of_benchKind {f : Frame} (hwf : f.wf = true)
    (h : 5 ≤ f.kind.toNat ∧ f.kind.toNat ≤ 11 ∨ f.kind.toNat = 4 ∧ f.payload.length = 8) :
    ∃ k, FrameIsOf f k ∧ k.fromPeer = false := by
  rcases h with ⟨hlow, hhigh⟩ | ⟨hk, hlength⟩
  · obtain hk | hk | hk | hk | hk | hk | hk : f.kind.toNat = 5 ∨ f.kind.toNat = 6 ∨ f.kind.toNat = 7 ∨
        f.kind.toNat = 8 ∨ f.kind.toNat = 9 ∨ f.kind.toNat = 10 ∨ f.kind.toNat = 11 := by omega
    · exact ⟨.load, .of_free hwf hk rfl, rfl⟩
    · exact ⟨.post, .of_free hwf hk rfl, rfl⟩
    · exact ⟨.peek, .of_free hwf hk rfl, rfl⟩
    · exact ⟨.control, .of_free hwf hk rfl, rfl⟩
    · exact ⟨.query, .of_free hwf hk rfl, rfl⟩
    · exact ⟨.faultRead, .of_free hwf hk rfl, rfl⟩
    · exact ⟨.faultTrim, .of_free hwf hk rfl, rfl⟩
  · exact ⟨.setup, .of_length hk rfl hlength, rfl⟩

/-! ### Bad frames, duplicates and frames passed over -/

/-- R2: a count goes up by one and stops at 255. -/
theorem satInc_toNat (c : BitVec 8) : (satInc c).toNat = min 255 (c.toNat + 1) := by
  unfold satInc
  split
  · simp_all
  · bv_omega

/-- R2, R163: each frame of a dropped queue is counted. -/
theorem foldl_satInc_toNat (q : List TxFrame) (n : BitVec 8) :
    (q.foldl (fun c _ => satInc c) n).toNat = min 255 (n.toNat + q.length) := by
  induction q generalizing n with
  | nil => have := n.isLt; simp; omega
  | cons g q ih => rw [List.foldl_cons, ih, satInc_toNat, List.length_cons]; omega

/-- R126, R163: the duplicate flag set by a peer frame with the own slot, the queue dropped. -/
theorem State.setDuplicate_drops (s : State) :
    ∃ n : BitVec 8, n.toNat = min 255 (s.line.notSent.toNat + s.line.queue.length) ∧
    (let u := { s with line := { s.line with duplicate := true, queue := [], notSent := n } }
     ((∀ g ∈ s.line.queue, g.kind ≠ .claim) → s.setDuplicate = u) ∧
     ((∃ g ∈ s.line.queue, g.kind = .claim) → ReportsClaimDropped u s.setDuplicate)) := by
  refine ⟨_, foldl_satInc_toNat s.line.queue s.line.notSent, fun hnone => if_neg ?_, fun hclaim => ?_⟩
  · simpa using hnone
  · have hany : s.line.queue.any (fun g => decide (g.kind = .claim)) = true := by simpa using hclaim
    rw [State.setDuplicate, if_pos hany]
    exact State.claimDropped_reports _

/-- R158: what makes a frame bad as its bits were read. -/
theorem rawBad_of_lengthOrCheck {raw : RawFrame}
    (h : 32 < raw.length.toNat ∨ raw.check ≠ checkValue (checkedBits raw.dest raw.kind raw.length raw.payload)) :
    rawBad raw = true := by
  rcases h with h | h <;> simp [rawBad, h]

/-- Settles O46: the frame judged by its bits, then by its kind, length, source and destination. -/
theorem badDuplicateAndPassedOverFrames : Obligations.BadDuplicateAndPassedOverFrames := by
  intro s bad
  refine ⟨fun raw _ hbad => ?bits, fun i f hf hwf =>
    ⟨fun h => ?bad, fun hpeer hsource hslot => ?duplicate, fun h => ?passedOver⟩⟩
  case bits =>
    have hjudged := execFrameReceivedBad_of_rawBad (rawBad_of_lengthOrCheck hbad) s
    exact ⟨fun hcut => hjudged.trans (by rw [hcut]; rfl), fun hcut => hjudged.trans (by rw [hcut]; rfl)⟩
  case bad =>
    have hreceive : s.line.receive f = .bad := by
      rcases h with h | h | ⟨hk, hlength⟩ | ⟨hk, hlength⟩ | ⟨hk, hlength⟩ | ⟨hk, hlength⟩ | ⟨hk, hlength⟩
      · exact s.line.receive_of_unassigned (.inl h)
      · exact s.line.receive_of_unassigned (.inr h)
      · exact s.line.receive_of_length (k := .fail) hk rfl hlength
      · exact s.line.receive_of_length (k := .claim) hk rfl hlength
      · exact s.line.receive_of_length (k := .draw) hk rfl hlength
      · exact s.line.receive_of_length (k := .join) hk rfl hlength
      · exact s.line.receive_of_length (k := .setup) hk rfl hlength
    rw [exec_of_frameRead hf, State.receiveFrame, hreceive]
    rfl
  case duplicate =>
    obtain ⟨k, hof, hkind, -⟩ := hpeer.isOf
    have hreceive : s.line.receive f = .duplicate := by
      rw [hof.receive, if_pos ⟨hkind, hsource ▸ hslot⟩, if_pos hsource]
    obtain ⟨n, hn, hdrops⟩ := s.frameEnded.setDuplicate_drops
    rw [exec_of_frameRead hf, State.receiveFrame, hreceive]
    exact ⟨_, n, rfl, hn, hdrops⟩
  case passedOver =>
    have hreceive : s.line.receive f = .passedOver := by
      rcases h with hk | hk | ⟨hpeer, hsource⟩ | ⟨hbench, hother⟩
      · exact (FrameIsOf.of_free (k := .reply) hwf hk rfl).receive_passedOver (.inl rfl) (.inl rfl)
      · exact (FrameIsOf.of_free (k := .report) hwf hk rfl).receive_passedOver (.inl rfl) (.inl rfl)
      · obtain ⟨k, hof, -, hkind⟩ := hpeer.isOf
        exact hof.receive_passedOver (.inr hsource) (.inl hkind)
      · obtain ⟨k, hof, hkind⟩ := FrameIsOf.of_benchKind hwf hbench
        refine hof.receive_passedOver (.inl hkind) (.inr (hother.imp id fun hnot => ?_))
        rwa [← Bool.not_eq_true, LinePort.addressed_iff]
    rw [exec_of_frameRead hf, State.receiveFrame, hreceive]
    rfl

/-! ### A peer's frames taken -/

/-- R119, R159: the frame of another station reaches the blocks with its slot as the peer's. -/
theorem State.receiveFrame_of_peer {s : State} {f : Frame} {k : FrameKind} (hof : FrameIsOf f k) (hpeer : k.fromPeer = true)
    {x : Fin 30} (hsource : f.source.toNat = x.val) (hother : x.val ≠ s.line.slot.toNat) :
    s.receiveFrame f = (afterFrame s).handOn k f := by
  have hslot : f.source ≠ s.line.slot := fun h => hother (by rw [← hsource, h])
  have hreceive : s.line.receive f = .taken k := by
    rw [hof.receive, if_pos ⟨hpeer, hsource ▸ x.isLt⟩, if_neg hslot]
  rw [State.receiveFrame, hreceive]
  rfl

theorem peerSlot_of_other {l : LinePort} {source : BitVec 5} {x : Fin 30} (hsource : source.toNat = x.val)
    (hother : x.val ≠ l.slot.toNat) : peerSlot l source = some x := by
  have hslot : source ≠ l.slot := fun h => hother (by rw [← hsource, h])
  unfold peerSlot
  rw [dif_pos (hsource ▸ x.isLt), if_neg hslot]
  exact congrArg some (Fin.ext hsource)

/-- R119, R140: before SETUP a peer's frame changes nothing. -/
theorem State.handOn_of_unset {s : State} (h : s.line.isSet = false) {k : FrameKind} (hk : k.fromPeer = true) (f : Frame) :
    s.handOn k f = s := by
  cases k with
  | fail => simp only [State.handOn, State.takeFail, h]; split <;> rfl
  | claim => simp only [State.handOn, State.takeClaim, h]; split <;> rfl
  | draw => simp only [State.handOn, State.takeDraw, h]; split <;> rfl
  | join => simp only [State.handOn, State.takeJoin, h]; split <;> rfl
  | _ => cases hk

/-- Two bytes of a frame, low byte first, as a draw (R183). -/
theorem ofNat_leNat_two (low high : Byte) : BitVec.ofNat 16 (leNat [low, high]) = high ++ low :=
  (congrArg (BitVec.ofNat 16) (leAt_two_of_bytes 0 low high)).trans (BitVec.ofNat_toNat _ _)

/-- One entry of the draw table set, the others standing (R118). -/
theorem State.setPeer_sets (s : State) (x : Fin 30) (e : PeerEntry) : ∃ table,
    s.setPeer x e = { s with draw := { s.draw with table := table } } ∧ table.get x = e ∧
      ∀ y, y ≠ x → table.get y = s.draw.table.get y :=
  ⟨_, rfl, Vector.getElem_set_self x.isLt, fun _ hy => s.setPeer_table_get e hy.symm⟩

/-- The answer of a command that sets one entry of the draw table of a station with `l` as its line. -/
theorem setsEntry_of_setPeer {s : State} {l : LinePort} {x : Fin 30} {e : PeerEntry} {o : Host.Outcome State Fault Refusal}
    (h : o = .next (({ s with line := l } : State).setPeer x e)) : ∃ table,
    o = .next { s with draw := { s.draw with table := table }, line := l } ∧ table.get x = e ∧
      ∀ y, y ≠ x → table.get y = s.draw.table.get y := by
  obtain ⟨table, heq, hentry, hothers⟩ := ({ s with line := l } : State).setPeer_sets x e
  exact ⟨table, by rw [h, heq], hentry, hothers⟩

section
variable {s : State} {source : BitVec 5} {x : Fin 30}

theorem State.takeFail_of_peer (hpeer : peerSlot s.line source = some x) (hset : s.line.isSet = true) :
    s.takeFail source = { s with faults := s.faults.addNotice { slot := x, arrival := s.clock } } := by
  simp [State.takeFail, hpeer, hset]

theorem State.takeClaim_of_peer (hpeer : peerSlot s.line source = some x) (hset : s.line.isSet = true) (b0 b1 b2 b3 : Byte) :
    s.takeClaim source [b0, b1, b2, b3] = s.setPeer x
      { held := b1 ++ b0, pending := some { asking := b3 ++ b2,
                                            expiry := s.clock + BitVec.ofNat 32 s.line.params.claimWindow,
                                            beforeMine := decide (s.draw.claimState ≠ .claiming) } } := by
  rw [← ofNat_leNat_two b0 b1, ← ofNat_leNat_two b2 b3]
  simp only [State.takeClaim, hpeer, hset, if_true]
  rfl

theorem State.takeDraw_of_peer (hpeer : peerSlot s.line source = some x) (hset : s.line.isSet = true) (b0 b1 : Byte) :
    s.takeDraw source [b0, b1] = s.setPeer x { held := b1 ++ b0, pending := none } := by
  rw [← ofNat_leNat_two b0 b1]
  simp only [State.takeDraw, hpeer, hset, if_true]
  rfl

/-- R122: the JOIN is answered while draw is held. -/
theorem State.takeJoin_of_peer (hpeer : peerSlot s.line source = some x) (hset : s.line.isSet = true) :
    s.takeJoin source =
      ({ s with line := if s.draw.held = 0 then s.line else drawSent s.line s.draw.held } : State).setPeer x
        { held := 0, pending := none } := by
  simp only [State.takeJoin, hpeer, hset, if_true]
  split <;> rfl

end

/-- Settles O44: each frame is taken as its peer's, and changes the notice list or the peer's entry once SETUP has come. -/
theorem peerFramesReachTheListAndTheTable : Obligations.PeerFramesReachTheListAndTheTable := by
  intro s x dest b0 b1 b2 b3 b4 hother source notice u sets
  have hsource : source.toNat = x.val := by
    rw [BitVec.toNat_ofNat]
    exact Nat.mod_eq_of_lt (by have := x.isLt; omega)
  have hpeer : peerSlot u.line source = some x := peerSlot_of_other hsource hother
  have hfail : exec (.frameFail source dest [b0, b1, b2, b3, b4]) s = .next (u.handOn .fail _) :=
    congrArg _ (State.receiveFrame_of_peer (.of_length rfl rfl rfl) rfl hsource hother)
  have hclaim : exec (.frameClaim source dest [b0, b1, b2, b3]) s = .next (u.handOn .claim _) :=
    congrArg _ (State.receiveFrame_of_peer (.of_length rfl rfl rfl) rfl hsource hother)
  have hdraw : exec (.frameDraw source dest [b0, b1]) s = .next (u.handOn .draw _) :=
    congrArg _ (State.receiveFrame_of_peer (.of_length rfl rfl rfl) rfl hsource hother)
  have hjoin : exec (.frameJoin source dest []) s = .next (u.handOn .join _) :=
    congrArg _ (State.receiveFrame_of_peer (.of_length rfl rfl rfl) rfl hsource hother)
  refine ⟨fun hunset => ?unset, fun hset => ?set⟩
  case unset =>
    have hstands : ∀ {k : FrameKind}, k.fromPeer = true → ∀ f, u.handOn k f = u :=
      fun hk f => State.handOn_of_unset (s := u) hunset hk f
    rw [hfail, hclaim, hdraw, hjoin, hstands rfl, hstands rfl, hstands rfl, hstands rfl]
    exact ⟨rfl, rfl, rfl, rfl⟩
  case set =>
    rw [hfail, hclaim, hdraw, hjoin]
    refine ⟨fun hroom => ?_, fun hfull => ?_, setsEntry_of_setPeer ?_, setsEntry_of_setPeer ?_, setsEntry_of_setPeer ?_⟩
    · rw [State.handOn, State.takeFail_of_peer hpeer hset, Recorder.addNotice, if_pos (by exact hroom)]
      rfl
    · rw [State.handOn, State.takeFail_of_peer hpeer hset, Recorder.addNotice, if_neg (by exact Nat.not_lt.mpr hfull)]
      rfl
    · rw [State.handOn, State.takeClaim_of_peer hpeer hset]
      rfl
    · rw [State.handOn, State.takeDraw_of_peer hpeer hset]
      rfl
    · rw [State.handOn, State.takeJoin_of_peer hpeer hset]
      rfl

end Sys2Proof.Machine
end

section
/-! PROOFS of the family "the rack draw budget", 2: the timers of the Draw Unit, and the transmit queue with the own CLAIM in
it (O48, O50, O51). -/

namespace Sys2Proof.Machine

/-! ### Timers of the Draw Unit -/

/-- R129: a backoff that has run out hands the CLAIM over anew. -/
theorem execBackoffExpiry_of_reached {s : State} {at' : Time} (hstate : s.draw.claimState = .deferred)
    (htimer : s.draw.backoffTimer = some at') (hreached : reached s.clock at' = true) :
    exec .backoffExpiry s = .next s.claimRequeued.handClaim := by
  simp only [exec, execBackoffExpiry, htimer, hstate, hreached, and_self, if_true]
  rfl

/-- Settles O48: the peer's entry set, and the CLAIM handed to the port with its claim QUEUED again. -/
theorem pendingAndBackoffTimersRunOut : Obligations.PendingAndBackoffTimersRunOut := by
  intro s
  refine ⟨fun x p hp hreached => ?pending, fun at' c hstate htimer hreached hc => ?backoff⟩
  case pending =>
    have hcommand : exec (.pendingExpiry x) s = .next (s.setPeer x { held := p.asking, pending := none }) := by
      simp only [exec, execPendingExpiry, hp, hreached, if_true]
    exact setsEntry_of_setPeer (l := s.line) hcommand
  case backoff =>
    have hcommand := execBackoffExpiry_of_reached hstate htimer hreached
    have hhands := State.handClaim_hands (s := s.claimRequeued) (c := c) hc
    obtain ⟨hqueued, -, -⟩ := id hhands
    exact ⟨⟨_, hcommand, hhands⟩, fun haccepts => hcommand.trans (congrArg _ (hqueued haccepts))⟩

/-! ### The frame in transmission -/

/-- R151: the frame `f` of the queue is in transmission, none ahead of it being so. -/
def LinePort.Transmits (l : LinePort) (ahead : List TxFrame) (f : TxFrame) (behind : List TxFrame) : Prop :=
  l.queue = ahead ++ f :: behind ∧ (∀ g ∈ ahead, g.sending = false) ∧ f.sending = true

section
variable {s : State} {f : TxFrame} {ahead behind : List TxFrame}

theorem LinePort.Transmits.inTransmission {l : LinePort} (h : l.Transmits ahead f behind) : l.inTransmission = some f := by
  obtain ⟨hqueue, hahead, hf⟩ := h
  rw [LinePort.inTransmission, hqueue, List.find?_eq_some_iff_append]
  exact ⟨hf, ahead, behind, rfl, fun g hg => by simp [hahead g hg]⟩

/-- The frame in transmission changed or taken out, those about it standing in their places. -/
theorem LinePort.Transmits.mapSending {l : LinePort} (h : l.Transmits ahead f behind) (g : TxFrame → Option TxFrame) :
    mapSending g l.queue = ahead ++ ((g f).toList ++ behind) := by
  obtain ⟨hqueue, hahead, hf⟩ := h
  rw [hqueue]
  clear hqueue
  induction ahead with
  | nil => exact if_pos hf
  | cons a ahead ih =>
    obtain ⟨ha, hahead⟩ := List.forall_mem_cons.mp hahead
    rw [List.cons_append, Machine.mapSending, if_neg (by simp [ha]), ih hahead, List.cons_append]

/-- R154: the head of the queue begins on an idle line. -/
theorem execFrameBegin_of_idle (hmute : s.line.mute = false) (hidle : ∀ g ∈ f :: behind, g.sending = false)
    (hqueue : s.line.queue = f :: behind) :
    exec .frameBegin s = .next { s with
      line := { s.line with queue := { f with sending := true } :: behind, cutOwn := false } } := by
  have hnone : s.line.inTransmission = none := by
    rw [LinePort.inTransmission, hqueue, List.find?_eq_none]
    exact fun g hg => by simp [hidle g hg]
  simp [exec, execFrameBegin, hqueue, hmute, hnone]

/-- R155: the frame stays where it stands. -/
theorem execContentionLost_of_transmits (h : s.line.Transmits ahead f behind) :
    exec .contentionLost s = .next { s with
      line := { s.line with queue := ahead ++ { f with sending := false } :: behind } } := by
  simp only [exec, execContentionLost, h.inTransmission, h.mapSending]
  rfl

/-- R156: one more attempt counted. -/
theorem execBitError_counts (h : s.line.Transmits ahead f behind) (hattempts : f.attempts < 15) :
    exec .bitError s = .next { s with line := { s.line with
      queue := ahead ++ { f with sending := false, attempts := f.attempts + 1 } :: behind, cutOwn := true } } := by
  simp only [exec, execBitError, h.inTransmission, h.mapSending, if_pos hattempts]
  rfl

/-- R156: the line after the frame dropped at its sixteenth error. -/
def LinePort.cut (l : LinePort) (q : List TxFrame) : LinePort :=
  { l with queue := q, notSent := if l.notSent = 255 then 255 else l.notSent + 1, cutOwn := true }

/-- R126, R156: the sixteenth error drops the frame, and an own CLAIM is reported. -/
theorem execBitError_drops (h : s.line.Transmits ahead f behind) (hattempts : 15 ≤ f.attempts) :
    exec .bitError s = .next (if f.kind = .claim then ({ s with line := s.line.cut (ahead ++ behind) } : State).claimDropped
      else { s with line := s.line.cut (ahead ++ behind) }) := by
  simp only [exec, execBitError, h.inTransmission, h.mapSending, if_neg (Nat.not_lt.mpr hattempts)]
  rfl

/-- R157: a sent frame leaves the queue, and the station takes it. -/
theorem State.frameCompleted_of_transmits (h : s.line.Transmits ahead f behind) :
    s.frameCompleted f =
      if f.kind = .claim then ({ s with line := { s.line with queue := ahead ++ behind } } : State).claimHeard
      else { s with line := { s.line with queue := ahead ++ behind } } := by
  simp only [State.frameCompleted, h.mapSending]
  rfl

theorem execFrameSent_of_transmits (h : s.line.Transmits ahead f behind) :
    exec .frameSent s = .next (s.frameCompleted f) := by
  simp only [exec, execFrameSent, h.inTransmission]

/-- R125, R157: the own CLAIM sent is the own CLAIM taken. -/
theorem execOwnClaimTaken_of_transmits (h : s.line.Transmits ahead f behind) (hkind : f.kind = .claim) :
    exec .ownClaimTaken s = .next ({ s with line := { s.line with queue := ahead ++ behind } } : State).claimHeard := by
  simp only [exec, execOwnClaimTaken, h.inTransmission, if_pos hkind, State.frameCompleted_of_transmits h]

end

/-! ### The own CLAIM taken -/

/-- R125: the present claim's frame starts its window. -/
theorem State.claimHeard_of_current {s : State} {c : OwnClaim} (hmark : s.draw.mark = .current)
    (hstate : s.draw.claimState = .queued) (hc : s.draw.claim = some c) :
    s.claimHeard = { s with draw := { s.draw with
      mark := .none_, claimState := .claiming, claim := some { c with t0 := some s.clock },
      windowTimer := some (s.clock + BitVec.ofNat 32 s.line.params.claimWindow) } } := by
  simp only [State.claimHeard, hmark, hstate, hc, Option.map_some]

/-- R125: a stale frame lets the claim held back behind it go. -/
theorem State.claimHeard_of_stale {s : State} (hmark : s.draw.mark = .stale) (hstate : s.draw.claimState = .queued) :
    s.claimHeard = (s.marked s.line .none_).handClaim := by
  rcases s.claimHeard_cases with ⟨hcurrent, -, -⟩ | ⟨-, -, heq⟩ | ⟨hnot, -⟩
  · simp [hmark] at hcurrent
  · exact heq
  · exact absurd ⟨by simp [hmark], hstate⟩ hnot

/-- R125: with no claim QUEUED the frame leaves the port and nothing more. -/
theorem State.claimHeard_of_unqueued {s : State} (hstate : s.draw.claimState ≠ .queued) :
    s.claimHeard = s.marked s.line .none_ := by
  rcases s.claimHeard_cases with ⟨-, hqueued, -⟩ | ⟨-, hqueued, -⟩ | ⟨-, heq⟩
  · exact absurd hqueued hstate
  · exact absurd hqueued hstate
  · exact heq

/-- Settles O50: each command on the frame in transmission, found in its place in the queue. -/
theorem framesAreSentFromTheQueue : Obligations.FramesAreSentFromTheQueue := by
  intro s f ahead behind with'
  refine ⟨execFrameBegin_of_idle, fun hqueue hahead hf => ?_⟩
  have h : s.line.Transmits ahead f behind := ⟨hqueue, hahead, hf⟩
  have hsent := execFrameSent_of_transmits h
  have hcompleted := State.frameCompleted_of_transmits h
  refine ⟨execContentionLost_of_transmits h, execBitError_counts h, fun hattempts hkind => ?dropped, fun hkind => ?sent,
    fun hkind => ?sentClaim, fun hkind hmark hstate c hc => ?current, fun hkind hmark hstate => ?stale⟩
  case dropped =>
    rw [execBitError_drops h hattempts, if_neg hkind]
    rfl
  case sent => rw [hsent, hcompleted, if_neg hkind]
  case sentClaim => rw [hsent, hcompleted, if_pos hkind, execOwnClaimTaken_of_transmits h hkind]
  case current =>
    rw [execOwnClaimTaken_of_transmits h hkind, State.claimHeard_of_current (by exact hmark) (by exact hstate) (by exact hc)]
  case stale =>
    rw [execOwnClaimTaken_of_transmits h hkind, State.claimHeard_of_unqueued (by simp [hstate])]
    rfl

/-! ### The own CLAIM lost -/

/-- R162, R163: a station that may send nothing drops what it is handed. -/
theorem LinePort.offer_of_mute {l : LinePort} (h : 30 ≤ l.slot.toNat ∨ l.duplicate = true) (f : TxFrame) :
    l.offer f = ({ l with notSent := if l.notSent = 255 then 255 else l.notSent + 1 }, some f) := by
  have hmute : l.mute = true := by simpa [LinePort.mute] using h
  rw [LinePort.offer, if_pos hmute]
  rfl

/-- R126, R161: a fault that finds room, and whose FAIL notice sheds an own CLAIM. -/
theorem State.recordFault_shedsClaim {s : State} {i : FaultInfo} {l : LinePort} {lost : TxFrame}
    (hroom : s.faults.queue.length < 32) (hlost : lost.kind = .claim)
    (hoffer : s.line.offer (newFrame .fail 31 (failPayload i s.faults.nextSequence)) = (l, some lost))
    (action : Option GuardAction) :
    ReportsClaimDropped { s with
      line := l,
      faults := { s.faults with queue := s.faults.queue ++ [freshRecord s i action],
                                nextSequence := sequenceAfter s.faults.nextSequence } } (s.recordFault i action) := by
  obtain ⟨hrecords, -, -⟩ := State.recordFault_records s i action
  obtain ⟨-, hsheds⟩ := hrecords hroom
  have hreports := hsheds lost (by simp only [hoffer]) hlost
  simp only [hoffer, recorded, if_pos hroom] at hreports
  exact hreports

/-- Settles O51: the ways a CLAIM leaves the port untaken, each reported to the Draw Unit, and the stale one taken. -/
theorem ownClaimFramesAreLostOrLetTheNextOneGo : Obligations.OwnClaimFramesAreLostOrLetTheNextOneGo := by
  intro s f ahead behind more
  refine ⟨fun hqueue hahead hf hkind => ⟨fun hattempts => ?dropped, fun c hmark hstate hc => ?stale⟩, ?shed, ?mute⟩
  case dropped =>
    refine ⟨_, execBitError_drops ⟨hqueue, hahead, hf⟩ hattempts, ?_⟩
    rw [if_pos hkind]
    exact State.claimDropped_reports _
  case stale =>
    refine ⟨_, execOwnClaimTaken_of_transmits ⟨hqueue, hahead, hf⟩ hkind, ?_⟩
    rw [State.claimHeard_of_stale (by exact hmark) (by exact hstate)]
    exact State.handClaim_hands hc
  case shed =>
    intro i c info l lost harmed hcount hroom hlost hoffer
    have hcommand := execGuardFault_of_due (c := c) rfl harmed hcount
    refine ⟨_, hcommand, ?_⟩
    simp only [State.recordFault_frame]
    exact State.recordFault_shedsClaim (s := s.setGuard i { c.guard with state := .resting, count := 0 })
      hroom hlost hoffer _
  case mute =>
    intro at' c hmute hstate htimer hreached hc
    obtain ⟨-, -, hlost⟩ := State.handClaim_hands (s := s.claimRequeued) (c := c) hc
    exact ⟨_, execBackoffExpiry_of_reached hstate htimer hreached, hlost _ _ (LinePort.offer_of_mute hmute _) rfl⟩

end Sys2Proof.Machine
end

section
/-! PROOFS of the family "fault records and peer coincidence", 1: the fault records read and trimmed by the bench (O60). -/

namespace Sys2Proof.Machine

/-! ### The bytes of a fault record -/

/-- A word is its low half and then its high half (R3). -/
theorem leBytes_four (x : Nat) : leBytes 4 x = leBytes 2 x ++ leBytes 2 (x / 65536) := by
  simp [leBytes, Nat.div_div_eq_div_mul]

/-! R182: what stands for an absent index and an absent value. -/

theorem optByte_eq (x : Option (BitVec 6)) : optByte x =
    match x with
    | some v => v.setWidth 8
    | none => 255 := by
  cases x <;> rfl

theorem optIndex_eq (x : Option RingIndex) : optIndex x =
    match x with
    | some v => v.toNat
    | none => 65535 := by
  cases x <;> rfl

theorem leBytes_optWord (x : Option (BitVec 32)) : leBytes 4 (optWord x) =
    match x with
    | some w => leBytes 2 w.toNat ++ leBytes 2 (w.toNat / 65536)
    | none => [0, 0, 0, 0] := by
  cases x with
  | none => rfl
  | some w => exact leBytes_four w.toNat

/-- R181: a fault record field by field, in halves of words. -/
theorem faultBytes_eq (f : FaultRecord) : faultBytes f =
    leBytes 2 f.sequence.toNat ++ leBytes 2 f.stamp.toNat ++ leBytes 2 (f.stamp.toNat / 65536) ++
    [BitVec.ofNat 8 (f.info.kind.code + 8 * f.info.source.code + 32 * f.cls.code), optByte f.info.channel] ++
    leBytes 2 (optIndex f.stepIndex) ++
    [BitVec.ofNat 8 (f.attempt.toNat + 8 * f.peerCount),
     BitVec.ofNat 8 (f.info.observed.isSome.toNat + 2 * f.info.refA.isSome.toNat + 4 * f.info.refB.isSome.toNat)] ++
    leBytes 4 (optWord f.info.observed) ++ leBytes 4 (optWord f.info.refA) ++ leBytes 4 (optWord f.info.refB) := by
  rw [faultBytes, leBytes_four f.stamp.toNat, ← List.append_assoc]

/-! ### The head trimmed -/

/-- R149: what a trim of at most `n` removes is classified, and it stops short of `n` only at a PROVISIONAL head or at the
end of the queue. -/
theorem trimHead_spec (n : Nat) (queue : List FaultRecord) :
    ∃ removed, queue = removed ++ trimHead n queue ∧ removed.length ≤ n ∧ (∀ f ∈ removed, f.cls ≠ .provisional) ∧
      (removed.length < n → ∀ f ∈ (trimHead n queue).head?, f.cls = .provisional) := by
  induction n generalizing queue with
  | zero => exact ⟨[], rfl, le_rfl, by simp, by simp⟩
  | succ n ih =>
    cases queue with
    | nil => exact ⟨[], rfl, by simp, by simp, by simp [trimHead]⟩
    | cons f queue =>
      by_cases hf : f.cls = .provisional
      · have hstops : trimHead (n + 1) (f :: queue) = f :: queue := by simp [trimHead, FaultRecord.classified, hf]
        exact ⟨[], by simp [hstops], by simp, by simp, by simp [hstops, hf]⟩
      · have hgoesOn : trimHead (n + 1) (f :: queue) = trimHead n queue := by
          simp [trimHead, FaultRecord.classified, hf]
        obtain ⟨removed, hqueue, hlength, hclassified, hstop⟩ := ih queue
        rw [hgoesOn]
        exact ⟨f :: removed, by rw [List.cons_append, ← hqueue], by simpa using hlength, List.forall_mem_cons.mpr ⟨hf, hclassified⟩,
          fun hshort => hstop (by simpa using hshort)⟩

/-- R149: the state with at most `n` records trimmed from the head. -/
def State.trimmed (s : State) (n : Nat) : State :=
  { s with faults := { s.faults with queue := trimHead n s.faults.queue } }

/-! ### The two requests -/

section
variable {s : State} {q : Request} {rest : List Request} {b : Byte}

/-- R148, R176: a FAULT_READ of one byte is answered from the queue. -/
theorem State.Serves.faultRead (h : s.Serves q rest) (hk : q.kind = .faultRead) (hp : q.payload = [b]) :
    exec .serveFaultRead s = .next (answered s q rest (s.faults.readReply b)) := by
  simp only [exec, execServeFaultRead, h.kindInService hk, hp, List.length_singleton, if_true, ← h.reply rfl]
  rfl

/-- R149: a FAULT_TRIM of one byte is accepted, its records removed. -/
theorem State.Serves.faultTrim (h : s.Serves q rest) (hk : q.kind = .faultTrim) (hp : q.payload = [b]) :
    exec .serveFaultTrim s = .next (answered (s.trimmed b.toNat) q rest [11, 0]) := by
  have hreply : (s.trimmed b.toNat).reply q (acceptPayload .faultTrim []) = answered (s.trimmed b.toNat) q rest [11, 0] :=
    h.reply (u := s.trimmed b.toNat) rfl _
  simp only [exec, execServeFaultTrim, h.kindInService hk, hp, List.length_singleton, if_true]
  exact congrArg _ hreply

end

/-- Settles O60: the reply is that of the record found or of none, and the records trimmed are those of `trimHead_spec`. -/
theorem faultsAreReadAndTrimmed : Obligations.FaultsAreReadAndTrimmed := by
  intro s q rest b h hp half word
  refine ⟨fun hk => ⟨fun f hf => ?record, fun hlength => ?empty⟩, fun hk => ?trim⟩
  case record =>
    rw [h.faultRead hk hp, Recorder.readReply, hf]
    simp only [faultRecordPayload, faultBytes_eq, leBytes_optWord, optByte_eq, optIndex_eq]
    rfl
  case empty =>
    rw [h.faultRead hk hp, Recorder.readReply, List.getElem?_eq_none hlength]
    rfl
  case trim =>
    obtain ⟨removed, hqueue, hlength, hclassified, hstop⟩ := trimHead_spec b.toNat s.faults.queue
    exact ⟨removed, _, hqueue, hlength, hclassified, hstop, h.faultTrim hk hp⟩

end Sys2Proof.Machine
end

section
/-! PROOFS of the family "fault records and peer coincidence", 2: the fault queue and the transmit queue in their orders, under
each change that the model makes to them (O5). -/

namespace Sys2Proof.Machine

/-! ### The fault queue -/

/-- R134, R136: the Fault Recorder's part of `State.FaultQueueOrdered`. -/
def Recorder.InOrder (r : Recorder) : Prop :=
  r.queue.length ≤ 32 ∧ r.queue.Pairwise (fun older newer => older.cls = .provisional → newer.cls = .provisional) ∧
  (∀ f ∈ r.queue, f.sequence ≠ 0) ∧ r.nextSequence ≠ 0

/-- The sequences run from 1 to 65535 and around (R136). -/
theorem nextSequence_ne_zero (q : BitVec 16) : nextSequence q ≠ 0 := by
  unfold nextSequence
  split <;> bv_omega

/-- The order hangs on the queue and the next sequence alone. -/
theorem Recorder.InOrder.congr {r r' : Recorder} (h : r.InOrder) (hqueue : r'.queue = r.queue)
    (hnext : r'.nextSequence = r.nextSequence) : r'.InOrder := by
  rwa [Recorder.InOrder, hqueue, hnext]

/-- Records taken out leave the others in order (R137, R149). -/
theorem Recorder.InOrder.sublist {r r' : Recorder} (h : r.InOrder) (hqueue : r'.queue.Sublist r.queue)
    (hnext : r'.nextSequence ≠ 0) : r'.InOrder := by
  obtain ⟨hlength, horder, hsequence, -⟩ := h
  exact ⟨hqueue.length_le.trans hlength, horder.sublist hqueue, fun f hf => hsequence f (hqueue.subset hf), hnext⟩

/-- A new record joins at the tail, PROVISIONAL, with the next sequence, behind records that leave it room (R136, R137). -/
theorem Recorder.InOrder.append {r r' : Recorder} (h : r.InOrder) {kept : List FaultRecord} (hkept : kept.Sublist r.queue)
    (hroom : kept.length < 32) {f : FaultRecord} (hcls : f.cls = .provisional) (hsequence : f.sequence = r.nextSequence)
    (hqueue : r'.queue = kept ++ [f]) (hnext : r'.nextSequence ≠ 0) : r'.InOrder := by
  obtain ⟨-, horder, hall, hne⟩ := h
  rw [Recorder.InOrder, hqueue]
  refine ⟨by simpa using hroom, ?_, fun g hg => ?_, hnext⟩
  · rw [List.pairwise_append]
    exact ⟨horder.sublist hkept, List.pairwise_singleton _ _, fun _ _ g hg _ => by rw [List.mem_singleton.mp hg, hcls]⟩
  · rcases List.mem_append.mp hg with hg | hg
    · exact hall g (hkept.subset hg)
    · rw [List.mem_singleton.mp hg, hsequence]
      exact hne

/-- CLEAR changes no class and no sequence (R150). -/
theorem Recorder.InOrder.cleared {r r' : Recorder} (h : r.InOrder) (hqueue : r'.queue = r.queue.map FaultRecord.cleared)
    (hnext : r'.nextSequence = r.nextSequence) : r'.InOrder := by
  obtain ⟨hlength, horder, hsequence, hne⟩ := h
  rw [Recorder.InOrder, hqueue, hnext, List.length_map, List.pairwise_map, List.forall_mem_map]
  exact ⟨hlength, horder, hsequence, hne⟩

/-- R143, R144: the judged record is classified, and every record before it was. -/
theorem Recorder.InOrder.judged {r r' : Recorder} (h : r.InOrder) {before after : List FaultRecord} {f g : FaultRecord}
    (hqueue : r.queue = before ++ f :: after) (hbefore : ∀ x ∈ before, x.cls ≠ .provisional)
    (hcls : g.cls ≠ .provisional) (hsequence : g.sequence = f.sequence) (hqueue' : r'.queue = before ++ g :: after)
    (hnext : r'.nextSequence = r.nextSequence) : r'.InOrder := by
  obtain ⟨hlength, horder, hall, hne⟩ := h
  rw [hqueue] at hlength horder hall
  rw [Recorder.InOrder, hqueue', hnext]
  refine ⟨by simpa using hlength, ?_, fun x hx => ?_, hne⟩
  · obtain ⟨-, hbehind, -⟩ := List.pairwise_append.mp horder
    obtain ⟨-, hafter⟩ := List.pairwise_cons.mp hbehind
    rw [List.pairwise_append, List.pairwise_cons]
    refine ⟨?_, ⟨fun _ _ hg => absurd hg hcls, hafter⟩, fun x hx _ _ hpro => absurd hpro (hbefore x hx)⟩
    exact (List.pairwise_append.mp horder).1
  · rcases List.mem_append.mp hx with hx | hx
    · exact hall x (List.mem_append_left _ hx)
    · rcases List.mem_cons.mp hx with rfl | hx
      · rw [hsequence]
        exact hall f (List.mem_append_right _ List.mem_cons_self)
      · exact hall x (List.mem_append_right _ (List.mem_cons_of_mem _ hx))

/-- The record that a judgement finds (R143): the oldest PROVISIONAL one. -/
theorem judgeOldest_eq_some {quorum w : Nat} {notices : List Notice} {queue queue' : List FaultRecord} {f : FaultRecord}
    (h : judgeOldest quorum w notices queue = some (f, queue')) :
    ∃ before after, queue = before ++ f :: after ∧ (∀ x ∈ before, x.cls ≠ .provisional) ∧
      queue' = before ++ f.judge quorum (distinctPeers w f.stamp notices) :: after := by
  induction queue generalizing queue' with
  | nil => cases h
  | cons g queue ih =>
    simp only [judgeOldest] at h
    split at h
    · cases h
      exact ⟨[], queue, rfl, by simp, rfl⟩
    · rename_i hg
      obtain ⟨⟨f', rest⟩, hrest, heq⟩ := Option.map_eq_some_iff.mp h
      cases heq
      obtain ⟨before, after, hqueue, hbefore, hrest⟩ := ih hrest
      exact ⟨g :: before, after, congrArg (g :: ·) hqueue, List.forall_mem_cons.mpr ⟨hg, hbefore⟩, congrArg (g :: ·) hrest⟩

/-- R144: a judged record is BOARD or RACK. -/
theorem FaultRecord.judge_cls (f : FaultRecord) (quorum n : Nat) : (f.judge quorum n).cls ≠ .provisional := by
  simp only [FaultRecord.judge, classFor]
  split <;> simp

/-! ### The transmit queue -/

/-- R151, R160: the transmit queue's part of `State.QueuesBounded`. -/
structure FramesInOrder (q : List TxFrame) : Prop where
  length : q.length ≤ 8
  classes : q.Pairwise (fun ahead behind => ahead.kind.cls ≤ behind.kind.cls)
  sending : q.countP (fun f => f.sending) ≤ 1

theorem FramesInOrder.nil : FramesInOrder [] := ⟨by simp, .nil, by simp⟩

theorem joinQueue_perm (f : TxFrame) (q : List TxFrame) : (joinQueue f q).Perm (f :: q) := by
  induction q with
  | nil => exact .refl _
  | cons g q ih =>
    simp only [joinQueue]
    split
    · exact (ih.cons g).trans (.swap f g q)
    · exact .refl _

/-- A frame that joins stands behind the frames of its own class and before those of the next (R160). -/
theorem joinQueue_pairwise {q : List TxFrame} (f : TxFrame)
    (h : q.Pairwise (fun ahead behind => ahead.kind.cls ≤ behind.kind.cls)) :
    (joinQueue f q).Pairwise (fun ahead behind => ahead.kind.cls ≤ behind.kind.cls) := by
  induction q with
  | nil => exact List.pairwise_singleton _ _
  | cons g q ih =>
    obtain ⟨hg, hq⟩ := List.pairwise_cons.mp h
    simp only [joinQueue]
    split
    · rename_i hle
      refine List.pairwise_cons.mpr ⟨fun x hx => ?_, ih hq⟩
      rcases mem_joinQueue.mp hx with rfl | hx
      · exact hle
      · exact hg x hx
    · rename_i hgt
      refine List.pairwise_cons.mpr ⟨List.forall_mem_cons.mpr ⟨by omega, fun x hx => ?_⟩, h⟩
      have := hg x hx
      omega

theorem FramesInOrder.join {q : List TxFrame} (h : FramesInOrder q) (hroom : q.length < 8) {f : TxFrame}
    (hf : f.sending = false) : FramesInOrder (joinQueue f q) := by
  refine ⟨by simpa using hroom, joinQueue_pairwise f h.classes, ?_⟩
  rw [(joinQueue_perm f q).countP_eq]
  simpa [hf] using h.sending

/-- Frames changed in their places, or taken out, in the order of their classes still. -/
theorem FramesInOrder.of_kinds {q q' : List TxFrame} (h : FramesInOrder q)
    (hkinds : (q'.map (·.kind)).Sublist (q.map (·.kind))) (hsending : q'.countP (fun f => f.sending) ≤ 1) :
    FramesInOrder q' := by
  refine ⟨by simpa using hkinds.length_le.trans (by simpa using h.length), ?_, hsending⟩
  have hclasses : (q.map (·.kind)).Pairwise (fun ahead behind => ahead.cls ≤ behind.cls) :=
    List.pairwise_map.mpr h.classes
  simpa only [List.pairwise_map] using hclasses.sublist hkinds

theorem FramesInOrder.sublist {q q' : List TxFrame} (h : FramesInOrder q) (hq : q'.Sublist q) : FramesInOrder q' :=
  h.of_kinds (hq.map _) (hq.countP_le.trans h.sending)

/-- A frame handed over joins a queue with room, or a full one that sheds a frame for it, or is dropped (R161, R162). -/
theorem LinePort.offer_inOrder {l : LinePort} (h : FramesInOrder l.queue) {f : TxFrame} (hf : f.sending = false) :
    FramesInOrder (l.offer f).1.queue := by
  unfold LinePort.offer
  split
  · exact h
  · split
    · exact h.join ‹_› hf
    · split
      · rename_i hshed
        obtain ⟨-, hrest, hlength⟩ := takeLastIdle_perm hshed
        split
        · refine (h.sublist hrest).join ?_ hf
          have := h.length
          omega
        · exact h
      · exact h

/-- The frame in transmission put back into its place or taken out (R155 to R157). -/
theorem FramesInOrder.mapSending {q : List TxFrame} (h : FramesInOrder q) {g : TxFrame → Option TxFrame}
    (hg : ∀ f, ∀ f' ∈ g f, f'.kind = f.kind ∧ f'.sending = false) : FramesInOrder (mapSending g q) := by
  have hchanged : ((Machine.mapSending g q).map (·.kind)).Sublist (q.map (·.kind)) ∧
      (Machine.mapSending g q).countP (fun f => f.sending) ≤ q.countP (fun f => f.sending) := by
    clear h
    induction q with
    | nil => exact ⟨.refl _, le_rfl⟩
    | cons f q ih =>
      simp only [Machine.mapSending]
      split
      · cases hf' : g f with
        | none => simp [List.countP_cons]
        | some f' =>
          obtain ⟨hkind, hsending⟩ := hg f f' hf'
          simp [hkind, hsending, List.countP_cons]
      · rename_i hf
        simpa [hf] using ih
  obtain ⟨hkinds, hcount⟩ := hchanged
  exact h.of_kinds hkinds (hcount.trans h.sending)

/-- The head of an idle line's queue begins (R154). -/
theorem FramesInOrder.begin {f : TxFrame} {q : List TxFrame} (h : FramesInOrder (f :: q))
    (hidle : ∀ g ∈ f :: q, g.sending = false) : FramesInOrder ({ f with sending := true } :: q) := by
  refine h.of_kinds (.refl _) ?_
  have hrest : q.countP (fun f => f.sending) = 0 := List.countP_eq_zero.mpr fun g hg => by simp [hidle g (by simp [hg])]
  simp [hrest]

end Sys2Proof.Machine
end

section
/-! PROOFS of the family "fault records and peer coincidence", 3: what the shared operations keep of the queues (O5). -/

namespace Sys2Proof.Machine

/-! ### What an operation keeps of the queues -/

/-- What an operation keeps of the queues, of each whatever the others are like: the orders of the fault queue and of the
transmit queue, the bounds of the request queue and of the notice list (R134, R151, R160, R167). -/
structure QueuesKeep (s t : State) : Prop where
  faults : s.faults.InOrder → t.faults.InOrder
  frames : FramesInOrder s.line.queue → FramesInOrder t.line.queue
  requests : s.bench.queue.length ≤ 4 → t.bench.queue.length ≤ 4
  notices : s.faults.notices.length ≤ 64 → t.faults.notices.length ≤ 64

theorem QueuesKeep.refl (s : State) : QueuesKeep s s := ⟨id, id, id, id⟩

theorem QueuesKeep.trans {s t u : State} (h : QueuesKeep s t) (h' : QueuesKeep t u) : QueuesKeep s u :=
  ⟨h'.faults ∘ h.faults, h'.frames ∘ h.frames, h'.requests ∘ h.requests, h'.notices ∘ h.notices⟩

/-- An operation on the transmit queue alone. -/
theorem QueuesKeep.of_frames {s t : State} (hfaults : t.faults = s.faults) (hbench : t.bench.queue = s.bench.queue)
    (hframes : FramesInOrder s.line.queue → FramesInOrder t.line.queue) : QueuesKeep s t :=
  ⟨by rw [hfaults]; exact id, hframes, by rw [hbench]; exact id, by rw [hfaults]; exact id⟩

theorem QueuesKeep.of_eq {s t : State} (hfaults : t.faults = s.faults) (hline : t.line.queue = s.line.queue)
    (hbench : t.bench.queue = s.bench.queue) : QueuesKeep s t :=
  .of_frames hfaults hbench (by rw [hline]; exact id)

/-- What follows an operation on other fields. -/
theorem QueuesKeep.of_stands {s t u : State} (h : QueuesKeep t u) (hfaults : t.faults = s.faults)
    (hline : t.line.queue = s.line.queue) (hbench : t.bench.queue = s.bench.queue) : QueuesKeep s u :=
  (QueuesKeep.of_eq hfaults hline hbench).trans h

/-- What follows a change of the fault queue. -/
theorem QueuesKeep.of_faults {s t u : State} (h : QueuesKeep t u) (hfaults : s.faults.InOrder → t.faults.InOrder)
    (hnotices : t.faults.notices = s.faults.notices) (hline : t.line.queue = s.line.queue)
    (hbench : t.bench.queue = s.bench.queue) : QueuesKeep s u :=
  QueuesKeep.trans ⟨hfaults, by rw [hline]; exact id, by rw [hbench]; exact id, by rw [hnotices]; exact id⟩ h

/-- The one way in which any block but the port itself reaches the transmit queue: a frame handed over (R160 to R162). -/
theorem QueuesKeep.of_offer {s t : State} {f : TxFrame} (hline : t.line.queue = (s.line.offer f).1.queue)
    (hf : f.sending = false) (hfaults : t.faults = s.faults) (hbench : t.bench.queue = s.bench.queue) : QueuesKeep s t :=
  .of_frames hfaults hbench fun h => hline ▸ LinePort.offer_inOrder h hf

theorem State.hand_queues (s : State) (k : FrameKind) (dest : BitVec 5) (payload : List Byte) :
    QueuesKeep s (s.hand k dest payload) :=
  .of_offer rfl rfl rfl rfl

theorem State.handDraw_queues (s : State) : QueuesKeep s s.handDraw := s.hand_queues _ _ _

/-! ### Halts -/

theorem State.haltJob_queues (s : State) (reason : HaltReason) : QueuesKeep s (s.haltJob reason) := by
  rw [State.haltJob_eq]
  exact .of_offer rfl rfl rfl rfl

theorem State.haltActive_queues (s : State) (reason : HaltReason) : QueuesKeep s (s.haltActive reason) := by
  unfold State.haltActive
  split
  · exact (State.haltJob_queues _ _).of_stands (by simp) (by simp) (by simp)
  · exact .refl s

theorem State.refuseRecord_queues (s : State) : QueuesKeep s s.refuseRecord := by
  unfold State.refuseRecord
  split
  · exact .refl s
  · exact (State.haltJob_queues _ _).of_stands (by simp) (by simp) (by simp)

/-! ### Draw given back, and the board taken down -/

theorem State.release_queues (s : State) (total : Draw) : QueuesKeep s (s.release total) := by
  unfold State.release
  split
  · exact (State.handDraw_queues _).of_stands rfl rfl rfl
  · exact .refl s

theorem State.abandonClaim_queues (s : State) : QueuesKeep s s.abandonClaim := by
  unfold State.abandonClaim
  split
  · exact .refl s
  · exact (State.handDraw_queues _).of_stands rfl rfl rfl

theorem State.endMove_queues (s : State) : QueuesKeep s s.endMove := by
  unfold State.endMove
  split
  · exact .refl s
  · exact (State.abandonClaim_queues _).of_stands rfl rfl rfl

theorem State.powerDown_queues (s : State) (target : PowerState) : QueuesKeep s (s.powerDown target) := by
  have hopened : QueuesKeep s s.openSwitches := .of_eq rfl rfl rfl
  have hreleased := (hopened.trans (State.endMove_queues _)).trans (State.release_queues _ 0)
  exact hreleased.trans (.of_eq rfl rfl rfl)

theorem State.isolateBoard_queues (s : State) : QueuesKeep s s.isolateBoard := by
  unfold State.isolateBoard
  split
  · exact .refl s
  · exact s.powerDown_queues _

/-! ### Completions -/

theorem State.goOn_queues (s : State) (a : AfterStep) : QueuesKeep s (s.goOn a) := by
  cases a with
  | stop =>
    rw [State.goOn, State.endJob_eq]
    exact .of_offer rfl rfl rfl rfl
  | halt reason => exact s.haltJob_queues reason
  | isolate => exact s.isolateBoard_queues.trans (State.haltJob_queues _ _)
  | advance | enter | skip => exact .of_eq (by simp [State.goOn]) (by simp [State.goOn]) (by simp [State.goOn])

theorem State.goOnHalted_queues (s : State) (a : AfterStep) : QueuesKeep s (s.goOnHalted a) := by
  cases a with
  | isolate => exact s.isolateBoard_queues
  | stop | halt | advance | enter | skip => exact .refl s

theorem State.finish_queues (s : State) (c : Completion) : QueuesKeep s (s.finish c) := by
  have hprogress : QueuesKeep s (s.progress c) := by
    unfold State.progress
    split
    · exact s.hand_queues _ _ _
    · exact .refl s
  unfold State.finish
  dsimp only
  split
  · exact hprogress.trans (State.goOn_queues _ _)
  · exact hprogress.trans (State.goOnHalted_queues _ _)

theorem State.complete_queues (s : State) (o : StepOutcome) (a : AfterStep) : QueuesKeep s (s.complete o a) := by
  unfold State.complete
  split
  · exact .refl s
  · dsimp only
    split
    · split
      · exact .of_eq rfl rfl rfl
      · exact (State.finish_queues _ _).of_stands rfl rfl rfl
    · exact (State.finish_queues _ _).of_stands rfl rfl rfl

theorem State.completePassed_queues (s : State) (first : StepOutcome) : QueuesKeep s (s.completePassed first) :=
  s.complete_queues _ _

theorem State.makeAccess_queues (s : State) (a : EngineAccess) : QueuesKeep s (s.makeAccess a) := by
  cases a with
  | capture entry completes =>
    have hentry : QueuesKeep s (s.writeCapture entry) := .of_eq rfl rfl rfl
    cases completes with
    | none => exact hentry
    | some o =>
      simp only [State.makeAccess]
      split
      · exact hentry.trans (State.complete_queues _ _ _)
      · exact hentry
  | outcome index code count after =>
    have hbytes : QueuesKeep s (s.writeOutcome index code count) := .of_eq rfl rfl rfl
    cases after with
    | none => exact hbytes
    | some c => exact hbytes.trans (State.finish_queues _ _)
  | fetch =>
    simp only [State.makeAccess]
    split
    · exact .of_eq (by simp) (by simp) (by simp)
    · exact .refl s

theorem State.foldl_makeAccess_queues (l : List EngineAccess) (s : State) : QueuesKeep s (l.foldl State.makeAccess s) := by
  induction l generalizing s with
  | nil => exact .refl s
  | cons a l ih => exact (s.makeAccess_queues a).trans (ih _)

/-- The port's return makes the engine's waiting accesses (R21). -/
theorem State.returnPort_queues (s : State) : QueuesKeep s s.returnPort := by
  cases hw : s.port.waits with
  | nil =>
    rw [State.returnPort, hw]
    exact .of_eq rfl rfl rfl
  | cons w ws =>
    rw [State.returnPort_waits hw]
    have hasks : QueuesKeep s ({ s with port := { owner := .engine, waits := [] } } : State).askAtReturn :=
      .of_eq (by simp) (by simp) (by simp)
    have hgranted : ∀ u, QueuesKeep u (grantedAtRelease u) := by
      intro u
      unfold grantedAtRelease
      split
      · exact .of_eq rfl rfl rfl
      · exact .refl u
    exact (hasks.trans (State.foldl_makeAccess_queues _ _)).trans (hgranted _)

/-! ### The own claim -/

theorem State.claimRefused_queues (s : State) : QueuesKeep s s.claimRefused := by
  rcases s.claimRefused_cases with heq | ⟨m, -, heq⟩ <;> rw [heq]
  · exact .of_offer rfl rfl rfl rfl
  · have hdenied : QueuesKeep s (s.claimDenied m) := .of_offer rfl rfl rfl rfl
    exact hdenied.trans (State.haltActive_queues _ _)

theorem State.handClaim_queues (s : State) : QueuesKeep s s.handClaim := by
  unfold State.handClaim
  split
  · exact .refl s
  · rename_i c _
    have hoffered : ∀ mark, QueuesKeep s (s.marked (s.line.offer (newFrame .claim 31 (claimPayload c))).1 mark) :=
      fun _ => .of_offer rfl rfl rfl rfl
    dsimp only
    split
    · exact (hoffered .none_).trans (State.claimRefused_queues _)
    · exact hoffered .current

theorem State.claimDropped_queues (s : State) : QueuesKeep s s.claimDropped := by
  rcases s.claimDropped_cases with ⟨-, -, heq⟩ | ⟨-, -, heq⟩ | ⟨-, heq⟩ <;> rw [heq]
  · exact (State.claimRefused_queues _).of_stands rfl rfl rfl
  · exact (State.handClaim_queues _).of_stands rfl rfl rfl
  · exact .of_eq rfl rfl rfl

theorem State.claimHeard_queues (s : State) : QueuesKeep s s.claimHeard := by
  rcases s.claimHeard_cases with ⟨-, -, heq⟩ | ⟨-, -, heq⟩ | ⟨-, heq⟩ <;> rw [heq]
  · exact .of_eq rfl rfl rfl
  · exact (State.handClaim_queues _).of_stands rfl rfl rfl
  · exact .of_eq rfl rfl rfl

theorem State.askClaim_queues (s : State) (asking : Draw) : QueuesKeep s (s.askClaim asking) := by
  rcases s.askClaim_cases asking with ⟨-, heq⟩ | ⟨-, heq⟩ <;> rw [heq]
  · exact (State.handClaim_queues _).of_stands rfl rfl rfl
  · exact .of_eq rfl rfl rfl

/-! ### Faults -/

theorem State.handFail_queues (s : State) (i : FaultInfo) (q : BitVec 16) : QueuesKeep s (s.handFail i q) := by
  have hoffered : QueuesKeep s { s with line := (s.line.offer (newFrame .fail 31 (failPayload i q))).1 } :=
    .of_offer rfl rfl rfl rfl
  unfold State.handFail
  dsimp only
  split
  · exact hoffered.trans (State.claimDropped_queues _)
  · exact hoffered

theorem State.endMoveFlood_queues (s : State) : QueuesKeep s s.endMoveFlood := by
  unfold State.endMoveFlood
  split
  · exact .refl s
  · dsimp only
    split
    · exact .of_eq rfl rfl rfl
    · exact (State.abandonClaim_queues _).of_stands rfl rfl rfl
    · exact (State.release_queues _ _).of_stands rfl rfl rfl
    · exact (State.abandonClaim_queues _).of_stands rfl rfl rfl

theorem State.haltFlood_queues (s : State) : QueuesKeep s s.haltFlood := by
  unfold State.haltFlood
  split
  · exact s.endMoveFlood_queues.trans (State.haltActive_queues _ _)
  · exact .refl s

/-- R136 to R138: a queue with room takes the fault, a full one first loses its oldest classified record, a flooded one takes
nothing. -/
theorem State.recordFault_queues (s : State) (i : FaultInfo) (a : Option GuardAction) : QueuesKeep s (s.recordFault i a) := by
  have hnext := nextSequence_ne_zero s.faults.nextSequence
  unfold State.recordFault
  dsimp only
  split
  · rename_i hroom
    refine (State.handFail_queues _ _ _).of_faults (fun h => ?_) rfl rfl rfl
    exact h.append (.refl _) hroom rfl rfl rfl hnext
  · rename_i hfull
    split
    · rename_i hclassified
      refine (State.handFail_queues _ _ _).of_faults (fun h => ?_) rfl rfl rfl
      obtain ⟨f, hf, hcls⟩ : ∃ f ∈ s.faults.queue, f.classified = true := by
        simpa [Recorder.hasRoom, hfull] using hclassified
      have hlength := List.length_eraseP_of_mem hf hcls
      have hpos := List.length_pos_of_mem hf
      obtain ⟨hbound, -⟩ := id h
      exact h.append List.eraseP_sublist (by omega) rfl rfl rfl hnext
    · refine ((State.handFail_queues _ _ _).trans (State.haltFlood_queues _)).of_faults (fun h => ?_) rfl rfl rfl
      exact h.sublist (.refl _) hnext

theorem State.enterJudging_queues (s : State) (q : BitVec 16) : QueuesKeep s (s.enterJudging q) :=
  .of_eq (by simp) (by simp) (by simp)

theorem State.stepFault_queues (s : State) (i : FaultInfo) : QueuesKeep s (s.stepFault i) := by
  have hrecorded := s.recordFault_queues i none
  unfold State.stepFault
  split
  · exact hrecorded.trans (State.enterJudging_queues _ _)
  · exact hrecorded

theorem State.downAndHalted_queues (s : State) (target : PowerState) (i : FaultInfo) (reason : HaltReason) :
    QueuesKeep s (s.downAndHalted target i reason) :=
  ((s.powerDown_queues target).trans (State.recordFault_queues _ _ _)).trans (State.haltActive_queues _ _)

end Sys2Proof.Machine
end

section
/-! PROOFS of the family "fault records and peer coincidence", 4: what the records, the frames read and the bench requests keep
of the queues (O5). -/

namespace Sys2Proof.Machine

/-! ### Strobes -/

theorem State.startSample_queues (s : State) : QueuesKeep s s.startSample := .of_eq (by simp) (by simp) (by simp)

theorem State.startAverage_queues (s : State) (o : RailcheckOp) : QueuesKeep s (s.startAverage o) :=
  .of_eq (by simp) (by simp) (by simp)

theorem State.storeCapture_queues (s : State) (entry : Record) (o : Option StepOutcome) :
    QueuesKeep s (s.storeCapture entry o) :=
  .of_eq (by simp) (by simp) (by simp)

theorem State.strobeJudged_queues (s : State) (r : Record) (levels : Levels) (qualifiedTaken : Bool)
    (result : FieldResult) (fault : FaultInfo) : QueuesKeep s (s.strobeJudged r levels qualifiedTaken result fault) := by
  have hraised : ∀ entry, QueuesKeep s ((if noCaptureFlag r then s else s.storeCapture entry none).stepFault fault) := by
    intro entry
    split
    · exact s.stepFault_queues _
    · exact (s.storeCapture_queues _ _).trans (State.stepFault_queues _ _)
  have hpassed : ∀ entry outcome, QueuesKeep s (if noCaptureFlag r then s.complete outcome .advance
      else if s.port.owner = .bench then s.wait (.capture entry (some outcome))
      else (s.writeCapture entry).complete outcome .advance) := by
    intro entry outcome
    split
    · exact s.complete_queues _ _
    · split
      · exact .of_eq rfl rfl rfl
      · exact (State.complete_queues _ _ _).of_stands rfl rfl rfl
  cases result with
  | mismatch | jump => exact hraised _
  | none_ | pass => exact hpassed _ _

theorem State.strobeComplete_queues (s : State) (levels : Levels) (qualifiedTaken : Bool) :
    QueuesKeep s (s.strobeComplete levels qualifiedTaken) := by
  unfold State.strobeComplete
  split
  · exact .refl s
  · dsimp only
    split <;> exact (State.strobeJudged_queues _ _ _ _ _ _).of_stands rfl rfl rfl

theorem State.holdOffEnded_queues (s : State) (o : SampleOp) (start : Time) (testPoints : Levels) :
    QueuesKeep s (s.holdOffEnded o start testPoints) := by
  unfold State.holdOffEnded
  dsimp only
  split
  · exact s.strobeComplete_queues _ _
  · exact .of_eq rfl rfl rfl

theorem State.settleEnded_queues (s : State) (o : SampleOp) (testPoints : Levels) :
    QueuesKeep s (s.settleEnded o testPoints) := by
  unfold State.settleEnded
  dsimp only
  split
  · exact (State.holdOffEnded_queues _ _ _ _).of_stands rfl rfl rfl
  · exact .of_eq rfl rfl rfl

theorem State.strobeTimedOut_queues (s : State) (b : Strobe) (testPoints : Levels) :
    QueuesKeep s (s.strobeTimedOut b testPoints) := by
  unfold State.strobeTimedOut
  split
  · exact .refl s
  · dsimp only
    split
    · exact (State.stepFault_queues _ _).of_stands rfl rfl rfl
    · exact ((State.storeCapture_queues _ _ _).trans (State.stepFault_queues _ _)).of_stands rfl rfl rfl

/-! ### Moves -/

theorem State.powerReached_queues (s : State) : QueuesKeep s s.powerReached := by
  unfold State.powerReached
  split
  · exact s.completePassed_queues _
  · exact .refl s

theorem State.enterRamping_queues (s : State) : QueuesKeep s s.enterRamping := .of_eq (by simp) (by simp) (by simp)

theorem State.captureDone_queues (s : State) : QueuesKeep s s.captureDone := by
  rcases s.captureDone_cases with ⟨heq, -⟩ | ⟨m, -, -, heq⟩ <;> rw [heq]
  · exact s.enterRamping_queues
  · exact (State.askClaim_queues _ _).of_stands rfl rfl rfl

theorem State.captureAbandoned_queues (s : State) (z : ZeroCapture) : QueuesKeep s (s.captureAbandoned z) := by
  have hrecorded : QueuesKeep s (s.captureOver.recordFault (backfeedFault z) none) :=
    (State.recordFault_queues _ _ _).of_stands rfl rfl rfl
  have hfailed : ∀ u : State, QueuesKeep u u.captureFailed := fun u => .of_eq (by simp) (by simp) (by simp)
  unfold State.captureAbandoned
  dsimp only
  split
  · exact (hrecorded.trans (hfailed _)).trans (State.enterJudging_queues _ _)
  · exact hrecorded.trans (hfailed _)

theorem State.claimGranted_queues (s : State) : QueuesKeep s s.claimGranted := by
  rcases s.claimGranted_cases with ⟨-, heq⟩ | ⟨c, -, ⟨-, heq⟩ | ⟨m, -, -, heq⟩ | ⟨m, -, -, heq⟩⟩ <;> rw [heq]
  · exact .refl s
  · exact .of_eq rfl rfl rfl
  · exact (State.powerReached_queues _).of_stands rfl rfl rfl
  · exact (State.enterRamping_queues _).of_stands rfl rfl rfl

theorem State.rampEnded_queues (s : State) : QueuesKeep s s.rampEnded := by
  rcases s.rampEnded_cases with ⟨-, heq⟩ | ⟨m, -, heq⟩ <;> rw [heq]
  · exact .refl s
  · have hreleased : QueuesKeep s (releasedTo s m.asked) := s.release_eq m.asked ▸ s.release_queues m.asked
    have hover : QueuesKeep s (s.rampOver m) := hreleased.trans (.of_eq rfl rfl rfl)
    exact hover.trans (State.powerReached_queues _)

theorem State.startSetClaim_queues (s : State) (start : PowerState) (o : PowerOp) :
    QueuesKeep s (s.startSetClaim start o) := by
  rw [State.startSetClaim_eq]
  exact (State.askClaim_queues _ _).of_stands rfl rfl rfl

theorem State.lowerDraw_queues (s : State) (d : Draw) : QueuesKeep s (s.lowerDraw d) :=
  (s.release_queues d).trans (.of_eq rfl rfl rfl)

theorem State.setDraw_queues (s : State) (o : PowerOp) : QueuesKeep s (s.setDraw o) := by
  unfold State.setDraw
  split
  · exact s.completePassed_queues _
  · split
    · exact (s.lowerDraw_queues _).trans (State.completePassed_queues _ _)
    · exact s.startSetClaim_queues _ _

theorem State.downward_queues (s : State) (o : PowerOp) : QueuesKeep s (s.downward o) := by
  have hopened : QueuesKeep s s.mainOpened := .of_eq rfl rfl rfl
  rw [State.downward_eq]
  refine hopened.trans ?_
  split
  · exact (State.lowerDraw_queues _ _).trans (State.completePassed_queues _ _)
  · split
    · exact State.completePassed_queues _ _
    · exact State.startSetClaim_queues _ _ _

theorem State.runPower_queues {s t : State} {o : PowerOp} (h : s.runPower o = some t) : QueuesKeep s t := by
  have hlimited : QueuesKeep s (s.limited o) := by
    unfold State.limited
    split <;> exact .of_eq rfl rfl rfl
  rw [State.runPower_eq] at h
  refine hlimited.trans ?_
  split at h <;> cases h
  · exact State.completePassed_queues _ _
  · exact (State.powerDown_queues _ _).trans (State.completePassed_queues _ _)
  · exact (State.powerDown_queues _ _).trans (State.completePassed_queues _ _)
  · exact .of_eq (by simp) (by simp) (by simp)
  · exact .of_eq (by simp) (by simp) (by simp)
  · exact .of_eq (by simp) (by simp) (by simp)
  · exact State.setDraw_queues _ _
  · exact State.setDraw_queues _ _
  · exact State.downward_queues _ _

theorem State.dispatchPower_queues {s t : State} {r : Record} (h : s.dispatchPower r = some t) : QueuesKeep s t := by
  unfold State.dispatchPower at h
  split at h
  · cases h
    exact s.refuseRecord_queues
  · exact State.runPower_queues h

/-! ### The judgement -/

theorem State.engineClass_queues (s : State) (q : BitVec 16) (c : FaultClass) : QueuesKeep s (s.engineClass q c) := by
  unfold State.engineClass
  split
  · split
    · exact .refl s
    · split <;> exact s.complete_queues _ _
    · split
      · exact .of_eq (by simp) (by simp) (by simp)
      · exact s.complete_queues _ _
  · exact .refl s

theorem State.dispatchClass_queues (s : State) (r : FaultRecord) (c : FaultClass) : QueuesKeep s (s.dispatchClass r c) := by
  unfold State.dispatchClass
  split
  · unfold State.guardClass
    split
    · exact (s.powerDown_queues _).trans (State.haltActive_queues _ _)
    · exact .refl s
  · exact .refl s
  · exact .refl s
  · exact s.engineClass_queues _ _

/-- R143: the oldest PROVISIONAL record is judged in its place, and its class dispatched. -/
theorem execCoincidenceJudgement_queues {s t : State} (h : exec .coincidenceJudgement s = .next t) : QueuesKeep s t := by
  simp only [exec, execCoincidenceJudgement] at h
  split at h
  · cases h
    exact .refl s
  · rename_i hjudged
    obtain ⟨before, after, hqueue, hbefore, hqueue'⟩ := judgeOldest_eq_some hjudged
    split at h <;> cases h
    · refine (State.dispatchClass_queues _ _ _).of_faults (fun hs => ?_) rfl rfl rfl
      exact hs.judged hqueue hbefore (FaultRecord.judge_cls _ _ _) rfl hqueue' rfl
    · exact .refl s

/-! ### Frames read and sent -/

/-- R141: a list that holds 64 notices loses its oldest for the new one. -/
theorem Recorder.addNotice_length {r : Recorder} (h : r.notices.length ≤ 64) (n : Notice) :
    (r.addNotice n).notices.length ≤ 64 := by
  unfold Recorder.addNotice
  split
  · have hroom : r.notices.length < 64 := ‹_›
    simpa using hroom
  · have hfull : ¬ r.notices.length < 64 := ‹_›
    simp only [List.length_append, List.length_tail, List.length_singleton]
    omega

theorem Recorder.addNotice_queue (r : Recorder) (n : Notice) :
    (r.addNotice n).queue = r.queue ∧ (r.addNotice n).nextSequence = r.nextSequence := by
  unfold Recorder.addNotice
  split <;> exact ⟨rfl, rfl⟩

theorem State.takeFail_queues (s : State) (source : BitVec 5) : QueuesKeep s (s.takeFail source) := by
  unfold State.takeFail
  split
  · exact .refl s
  · split
    · obtain ⟨hqueue, hnext⟩ := s.faults.addNotice_queue { slot := ‹_›, arrival := s.clock }
      exact ⟨fun h => h.congr hqueue hnext, id, id, fun h => Recorder.addNotice_length h _⟩
    · exact .refl s

/-- R168: a fifth request is discarded. -/
theorem State.takeRequest_queues (s : State) (k : FrameKind) (dest : BitVec 5) (payload : List Byte) :
    QueuesKeep s (s.takeRequest k dest payload) := by
  unfold State.takeRequest
  split
  · have hroom : s.bench.queue.length < 4 := ‹_›
    exact ⟨id, id, fun _ => by simpa using hroom, id⟩
  · exact .of_eq rfl rfl rfl

theorem State.handOn_queues (s : State) (k : FrameKind) (f : Frame) : QueuesKeep s (s.handOn k f) := by
  cases k with
  | fail => exact s.takeFail_queues _
  | claim | draw | reply | report =>
    exact .of_eq (by simp [State.handOn]) (by simp [State.handOn]) (by simp [State.handOn])
  | join =>
    simp only [State.handOn, State.takeJoin]
    split
    · exact .refl s
    · split
      · split
        · exact .of_eq rfl rfl rfl
        · exact (State.handDraw_queues _).of_stands rfl rfl rfl
      · exact .refl s
  | setup =>
    simp only [State.handOn, State.takeSetup]
    split
    · exact .refl s
    · exact (State.hand_queues _ _ _ _).of_stands rfl rfl rfl
  | load | post | peek | control | query | faultRead | faultTrim => exact s.takeRequest_queues _ _ _

/-- R163: the whole transmit queue is dropped. -/
theorem State.setDuplicate_queues (s : State) : QueuesKeep s s.setDuplicate := by
  have hdropped : ∀ l : LinePort, l.queue = [] → QueuesKeep s { s with line := l } :=
    fun l hl => .of_frames rfl rfl fun _ => hl ▸ .nil
  unfold State.setDuplicate
  dsimp only
  split
  · exact (hdropped { s.line with
      duplicate := true, queue := [], notSent := s.line.queue.foldl (fun c _ => satInc c) s.line.notSent } rfl).trans
      (State.claimDropped_queues _)
  · exact hdropped _ rfl

theorem State.receiveFrame_queues (s : State) (f : Frame) : QueuesKeep s (s.receiveFrame f) := by
  have hended : QueuesKeep s s.frameEnded := .of_eq rfl rfl rfl
  unfold State.receiveFrame
  split
  · exact hended.trans (.of_eq rfl rfl rfl)
  · exact hended
  · exact hended.trans (State.setDuplicate_queues _)
  · exact hended.trans (State.handOn_queues _ _ _)

/-- The frame in transmission put back or taken out (R155 to R157). -/
theorem QueuesKeep.of_mapSending {s t : State} {g : TxFrame → Option TxFrame}
    (hline : t.line.queue = mapSending g s.line.queue) (hg : ∀ f, ∀ f' ∈ g f, f'.kind = f.kind ∧ f'.sending = false)
    (hfaults : t.faults = s.faults) (hbench : t.bench.queue = s.bench.queue) : QueuesKeep s t :=
  .of_frames hfaults hbench fun h => hline ▸ h.mapSending hg

theorem State.frameCompleted_queues (s : State) (f : TxFrame) : QueuesKeep s (s.frameCompleted f) := by
  have hsent : QueuesKeep s { s with line := { s.line with queue := mapSending (fun _ => none) s.line.queue } } :=
    .of_mapSending rfl (by simp) rfl rfl
  unfold State.frameCompleted
  dsimp only
  split
  · exact hsent.trans (State.claimHeard_queues _)
  · exact hsent

/-! ### Bench requests -/

theorem State.reply_queues (s : State) (q : Request) (payload : List Byte) : QueuesKeep s (s.reply q payload) := by
  have hhanded : QueuesKeep s (if q.toAll then s else s.hand .reply 30 payload) := by
    split
    · exact .refl s
    · exact s.hand_queues _ _ _
  have hended : ∀ u : State, QueuesKeep u u.endService := fun u =>
    ⟨id, id, fun h => (List.tail_sublist _).length_le.trans h, id⟩
  exact hhanded.trans (hended _)

theorem State.retest_queues (s : State) : QueuesKeep s s.retest := by
  unfold State.retest
  dsimp only
  split
  · split
    · split
      · exact .refl s
      · exact .of_eq (by simp) (by simp) (by simp)
    · split
      · exact (State.complete_queues _ _ _).of_stands rfl rfl rfl
      · exact .refl s
  · exact .refl s

theorem State.postTo_queues (s : State) (index : RingIndex) : QueuesKeep s (s.postTo index) := by
  unfold State.postTo
  split
  · exact .refl s
  · exact (State.retest_queues _).of_stands rfl rfl rfl

theorem State.abort_queues (s : State) : QueuesKeep s s.abort := by
  have habandoned : QueuesKeep s s.abandon := .of_eq (by simp) (by simp) (by simp)
  exact (habandoned.trans (State.isolateBoard_queues _)).trans (State.haltJob_queues _ _)

theorem State.clear_queues (s : State) : QueuesKeep s s.clear := by
  have hcleared : QueuesKeep s (s.blocksCleared.powerDown .off) :=
    (State.powerDown_queues _ _).of_faults (fun h => h.cleared rfl rfl) rfl rfl rfl
  rw [State.clear_powersDown]
  exact hcleared.trans (.of_eq rfl rfl rfl)

/-- What an accepted CONTROL's effect keeps, its ACCEPT reply and a REFUSE keep (R173). -/
theorem State.controlReply_queues {s : State} {v : Except RefusalCode State} (hv : ∀ t, v = .ok t → QueuesKeep s t)
    (q : Request) (action : Byte) : QueuesKeep s (s.controlReply q action v) := by
  cases v with
  | error c => exact s.reply_queues _ _
  | ok t => exact (hv t rfl).trans (State.reply_queues _ _ _)

end Sys2Proof.Machine
end

section
/-! PROOFS of the family "fault records and peer coincidence", 5: every command keeps the queues in order (O5). -/

namespace Sys2Proof.Machine

/-! ### Step records -/

theorem exec_queues_of_dispatchesRecord {i : Instr} {s t : State} (h : exec i s = .next t)
    (hi : dispatchesRecord i = true) : QueuesKeep s t := by
  cases i with
  | stepLanes =>
    simp only [exec, execStepLanes] at h
    split at h <;> cases h
    · exact .refl s
    · exact (State.complete_queues _ _ _).of_stands rfl rfl rfl
  | stepDrive =>
    simp only [exec, execStepDrive] at h
    split at h <;> cases h
    · exact .refl s
    · exact (State.complete_queues _ _ _).of_stands rfl rfl rfl
  | stepSample =>
    simp only [exec, execStepSample] at h
    split at h <;> cases h
    · exact .refl s
    · exact s.startSample_queues
  | stepField =>
    simp only [exec, execStepField] at h
    split at h
    · cases h; exact .refl s
    · split at h <;> cases h
      · exact s.refuseRecord_queues
      · exact (State.complete_queues _ _ _).of_stands rfl rfl rfl
  | stepLimits =>
    simp only [exec, execStepLimits] at h
    split at h
    · cases h; exact .refl s
    · split at h <;> cases h
      · exact s.refuseRecord_queues
      · exact (State.complete_queues _ _ _).of_stands rfl rfl rfl
  | stepRailcheck =>
    simp only [exec, execStepRailcheck] at h
    split at h <;> cases h
    · exact .refl s
    · exact s.startAverage_queues _
  | stepGuard =>
    simp only [exec, execStepGuard] at h
    split at h <;> cases h
    · exact .refl s
    · exact (State.complete_queues _ _ _).of_stands rfl rfl rfl
  | stepScale =>
    simp only [exec, execStepScale] at h
    split at h <;> cases h
    · exact .refl s
    · exact (State.complete_queues _ _ _).of_stands rfl rfl rfl
  | stepPower =>
    simp only [exec, execStepPower] at h
    split at h
    · cases h; exact .refl s
    · split at h <;> cases h
      exact State.dispatchPower_queues ‹_›
  | stepWait =>
    simp only [exec, execStepWait] at h
    split at h
    · cases h; exact .refl s
    · split at h <;> cases h
      · exact s.complete_queues _ _
      · exact .of_eq (by simp) (by simp) (by simp)
  | stepRepeat =>
    simp only [exec, execStepRepeat] at h
    split at h
    · cases h; exact .refl s
    · split at h
      · cases h; exact s.refuseRecord_queues
      · split at h <;> cases h
        · exact s.complete_queues _ _
        · exact .of_eq (by simp) (by simp) (by simp)
  | stepMark =>
    simp only [exec, execStepMark] at h
    split at h <;> cases h
    · exact .refl s
    · exact s.complete_queues _ _
  | stepStop =>
    simp only [exec, execStepStop] at h
    split at h <;> cases h
    · exact .refl s
    · exact s.complete_queues _ _
  | unknownStepKind =>
    simp only [exec, execUnknownStepKind] at h
    split at h <;> cases h
    · exact .refl s
    · exact s.refuseRecord_queues
  | _ => cases hi

/-! ### Requests -/

/-! The accepted CONTROLs (R17, R24 to R28). -/

theorem State.startVerdict_queues {s t : State} {p : List Byte} (h : s.startVerdict p = .ok t) : QueuesKeep s t := by
  unfold State.startVerdict at h
  repeat' split at h
  all_goals cases h
  exact .of_eq (by simp) (by simp) (by simp)

theorem State.pauseVerdict_queues {s t : State} {p : List Byte} (h : s.pauseVerdict p = .ok t) : QueuesKeep s t := by
  unfold State.pauseVerdict at h
  repeat' split at h
  all_goals cases h
  all_goals exact .of_eq rfl rfl rfl

theorem State.resumeVerdict_queues {s t : State} {p : List Byte} (h : s.resumeVerdict p = .ok t) : QueuesKeep s t := by
  unfold State.resumeVerdict at h
  repeat' split at h
  all_goals cases h
  all_goals exact .of_eq (by simp) (by simp) (by simp)

theorem State.abortVerdict_queues {s t : State} {p : List Byte} (h : s.abortVerdict p = .ok t) : QueuesKeep s t := by
  unfold State.abortVerdict at h
  repeat' split at h
  all_goals cases h
  exact s.abort_queues

theorem State.clearVerdict_queues {s t : State} {p : List Byte} (h : s.clearVerdict p = .ok t) : QueuesKeep s t := by
  unfold State.clearVerdict at h
  repeat' split at h
  all_goals cases h
  exact s.clear_queues

theorem State.ringVerdict_queues {s t : State} {p : List Byte} (h : s.ringVerdict p = .ok t) : QueuesKeep s t := by
  unfold State.ringVerdict at h
  repeat' split at h
  all_goals cases h
  exact .of_eq rfl rfl rfl

/-- R149: the records trimmed were at the head. -/
theorem State.trimmed_queues (s : State) (n : Nat) : QueuesKeep s (s.trimmed n) := by
  refine (QueuesKeep.refl _).of_faults (fun h => ?_) rfl rfl rfl
  obtain ⟨-, -, -, hnext⟩ := id h
  obtain ⟨removed, hqueue, -⟩ := trimHead_spec n s.faults.queue
  have hsublist : (removed ++ trimHead n s.faults.queue).Sublist s.faults.queue := hqueue ▸ .refl _
  exact h.sublist ((List.sublist_append_right _ _).trans hsublist) hnext

theorem exec_queues_of_answersAtOnce {i : Instr} {s t : State} (h : exec i s = .next t)
    (hi : answersAtOnce i = true) : QueuesKeep s t := by
  cases i with
  | servePost =>
    simp only [exec, execServePost] at h
    split at h
    · cases h; exact .refl s
    · split at h <;> cases h
      · exact s.reply_queues _ _
      · exact (s.postTo_queues _).trans (State.reply_queues _ _ _)
  | serveStart =>
    simp only [exec, execServeStart] at h
    split at h <;> cases h
    · exact .refl s
    · exact State.controlReply_queues (fun _ => State.startVerdict_queues) _ _
  | servePause =>
    simp only [exec, execServePause] at h
    split at h <;> cases h
    · exact .refl s
    · exact State.controlReply_queues (fun _ => State.pauseVerdict_queues) _ _
  | serveResume =>
    simp only [exec, execServeResume] at h
    split at h <;> cases h
    · exact .refl s
    · exact State.controlReply_queues (fun _ => State.resumeVerdict_queues) _ _
  | serveAbort =>
    simp only [exec, execServeAbort] at h
    split at h <;> cases h
    · exact .refl s
    · exact State.controlReply_queues (fun _ => State.abortVerdict_queues) _ _
  | serveClear =>
    simp only [exec, execServeClear] at h
    split at h <;> cases h
    · exact .refl s
    · exact State.controlReply_queues (fun _ => State.clearVerdict_queues) _ _
  | serveRing =>
    simp only [exec, execServeRing] at h
    split at h <;> cases h
    · exact .refl s
    · exact State.controlReply_queues (fun _ => State.ringVerdict_queues) _ _
  | serveUnknownAction =>
    simp only [exec, execServeUnknownAction] at h
    split at h
    · cases h; exact .refl s
    · split at h <;> cases h
      · exact (State.reply_queues _ _ _).of_stands rfl rfl rfl
      · exact s.reply_queues _ _
  | serveQueryStatus =>
    simp only [exec, execServeQueryStatus] at h
    split at h
    · cases h; exact .refl s
    · split at h <;> cases h <;> exact s.reply_queues _ _
  | serveQueryReadings =>
    simp only [exec, execServeQueryReadings] at h
    split at h
    · cases h; exact .refl s
    · split at h <;> cases h <;> exact s.reply_queues _ _
  | serveQueryUnknown =>
    simp only [exec, execServeQueryUnknown] at h
    split at h
    · cases h; exact .refl s
    · split at h <;> cases h <;> exact s.reply_queues _ _
  | serveFaultRead =>
    simp only [exec, execServeFaultRead] at h
    split at h
    · cases h; exact .refl s
    · split at h <;> cases h <;> exact s.reply_queues _ _
  | serveFaultTrim =>
    simp only [exec, execServeFaultTrim] at h
    split at h
    · cases h; exact .refl s
    · split at h <;> cases h
      · exact (s.trimmed_queues _).trans (State.reply_queues _ _ _)
      · exact s.reply_queues _ _
  | _ => cases hi

/-! ### The frame in transmission -/

/-- R154: on an idle line no frame of the queue is in transmission. -/
theorem execFrameBegin_queues {s t : State} (h : exec .frameBegin s = .next t) : QueuesKeep s t := by
  simp only [exec, execFrameBegin] at h
  split at h
  · cases h; exact .refl s
  · rename_i f q hqueue
    split at h <;> cases h
    · exact .refl s
    · rename_i hidle
      obtain ⟨-, hidle⟩ := not_or.mp hidle
      have hidle : ∀ g ∈ f :: q, g.sending = false := by
        simpa [LinePort.inTransmission, hqueue] using hidle
      exact .of_frames rfl rfl fun hs => (hqueue ▸ hs).begin hidle

theorem execBitError_queues {s t : State} (h : exec .bitError s = .next t) : QueuesKeep s t := by
  simp only [exec, execBitError] at h
  split at h
  · cases h; exact .refl s
  · split at h <;> cases h
    · exact .of_mapSending rfl (by simp) rfl rfl
    · have hdropped : ∀ l : LinePort, l.queue = mapSending (fun _ => none) s.line.queue → QueuesKeep s { s with line := l } :=
        fun l hl => .of_mapSending hl (by simp) rfl rfl
      split
      · exact (hdropped _ rfl).trans (State.claimDropped_queues _)
      · exact hdropped _ rfl

/-! ### Every command -/

theorem Recorder.reset_inOrder : Recorder.reset.InOrder := ⟨Nat.zero_le 32, .nil, by simp [Recorder.reset], by decide⟩

/-- No command takes a queue out of its order or beyond its bound, whatever it finds in the others. -/
theorem exec_queues {i : Instr} {s t : State} (h : exec i s = .next t) : QueuesKeep s t := by
  cases hdispatches : dispatchesRecord i with
  | true => exact exec_queues_of_dispatchesRecord h hdispatches
  | false =>
  cases hanswers : answersAtOnce i with
  | true => exact exec_queues_of_answersAtOnce h hanswers
  | false =>
  cases hf : frameRead i with
  | some f =>
    cases (exec_of_frameRead hf s).symm.trans h
    exact s.receiveFrame_queues f
  | none =>
  cases i with
  | frameFail | frameClaim | frameDraw | frameJoin | frameSetup
  | benchRequestArrival | duplicateSlotFrame | framePassedOver => cases hf
  | frameReceivedBad frame framing =>
    have hbad : rawBad { toFrame := frame, toFraming := framing } = true := by simpa [frameRead] using hf
    cases (execFrameReceivedBad_of_rawBad hbad s).symm.trans h
    split <;> exact .of_eq rfl rfl rfl
  | reset =>
    cases h
    exact ⟨fun _ => Recorder.reset_inOrder, fun _ => .nil, fun _ => Nat.zero_le 4, fun _ => Nat.zero_le 64⟩
  | stationTick =>
    cases h
    exact ⟨id, id, id, fun hs => (Recorder.prune_sublist _ _ _).length_le.trans hs⟩
  | updateRound =>
    have hframe := execUpdateRound_frame h
    exact .of_eq (by simp [hframe]) (by simp [hframe]) (by simp [hframe])
  | guardFault =>
    simp only [exec, execGuardFault] at h
    split at h <;> cases h
    · exact (State.recordFault_queues _ _ _).of_stands rfl rfl rfl
    · exact .refl s
  | guardRearm =>
    have hframe := execGuardRearm_frame h
    exact .of_eq (by simp [hframe]) (by simp [hframe]) (by simp [hframe])
  | tripDetection =>
    simp only [exec, execTripDetection] at h
    split at h
    · cases h; exact s.downAndHalted_queues _ _ _
    · split at h <;> cases h
      · exact s.downAndHalted_queues _ _ _
      · exact .refl s
  | overdrawDetection =>
    simp only [exec, execOverdrawDetection] at h
    split at h
    · split at h <;> cases h
      · exact (State.downAndHalted_queues _ _ _ _).of_stands rfl rfl rfl
      · exact .of_eq rfl rfl rfl
    · cases h; exact .refl s
  | zeroCaptureEnd =>
    rcases execZeroCaptureEnd_cases h with rfl | ⟨z, -, rfl⟩ | ⟨z, -, rfl⟩
    · exact .refl t
    · exact (State.captureDone_queues _).of_stands rfl rfl rfl
    · exact s.captureAbandoned_queues z
  | rampExpiry =>
    simp only [exec, execRampExpiry] at h
    split at h
    · cases h; exact .refl s
    · split at h <;> cases h
      · exact s.rampEnded_queues
      · exact .refl s
  | railcheckAverageEnd =>
    simp only [exec, execRailcheckAverageEnd] at h
    split at h
    · split at h
      · split at h <;> cases h
        · exact (State.stepFault_queues _ _).of_stands rfl rfl rfl
        · exact (State.completePassed_queues _ _).of_stands rfl rfl rfl
      · cases h; exact .refl s
    · cases h; exact .refl s
  | settleEnd =>
    simp only [exec, execSettleEnd] at h
    split at h
    · cases h; exact .refl s
    · split at h <;> cases h
      · exact s.settleEnded_queues _ _
      · exact .refl s
  | holdOffRelease =>
    simp only [exec, execHoldOffRelease] at h
    split at h
    · cases h; exact .refl s
    · split at h <;> cases h
      · exact s.holdOffEnded_queues _ _ _
      · exact .refl s
  | qualifierEdge =>
    simp only [exec, execQualifierEdge] at h
    split at h
    · cases h; exact .refl s
    · split at h <;> cases h
      · exact s.strobeComplete_queues _ _
      · exact .refl s
  | strobeTimerExpiry =>
    simp only [exec, execStrobeTimerExpiry] at h
    split at h
    · cases h; exact .refl s
    · split at h <;> cases h
      · exact s.strobeTimedOut_queues _ _
      · exact .refl s
  | waitExpiry =>
    simp only [exec, execWaitExpiry] at h
    split at h <;> cases h
    · exact s.complete_queues _ _
    · exact .refl s
  | recoverExpiry =>
    simp only [exec, execRecoverExpiry] at h
    split at h
    · split at h
      · cases h; exact .refl s
      · split at h
        · cases h; exact (State.startSample_queues _).of_stands rfl rfl rfl
        · split at h
          · cases h; exact (State.startAverage_queues _ _).of_stands rfl rfl rfl
          · split at h
            · split at h <;> cases h
              rename_i hdispatch
              exact (State.dispatchPower_queues hdispatch).of_stands rfl rfl rfl
            · cases h; exact .refl s
    · cases h; exact .refl s
  | coincidenceJudgement => exact execCoincidenceJudgement_queues h
  | ownClaimTaken =>
    simp only [exec, execOwnClaimTaken] at h
    split at h
    · cases h; exact .refl s
    · split at h <;> cases h
      · exact s.frameCompleted_queues _
      · exact .refl s
  | pendingExpiry =>
    have hframe := execPendingExpiry_frame h
    exact .of_eq (by simp [hframe]) (by simp [hframe]) (by simp [hframe])
  | claimJudgement =>
    rcases execClaimJudgement_cases h with rfl | ⟨-, rfl | rfl⟩
    · exact .refl t
    · exact s.claimRefused_queues
    · exact s.claimGranted_queues
  | backoffExpiry =>
    simp only [exec, execBackoffExpiry] at h
    split at h
    · cases h; exact .refl s
    · split at h <;> cases h
      · exact (State.handClaim_queues _).of_stands rfl rfl rfl
      · exact .refl s
  | frameBegin => exact execFrameBegin_queues h
  | contentionLost =>
    simp only [exec, execContentionLost] at h
    split at h <;> cases h
    · exact .refl s
    · exact .of_mapSending rfl (by simp) rfl rfl
  | bitError => exact execBitError_queues h
  | frameSent =>
    simp only [exec, execFrameSent] at h
    split at h <;> cases h
    · exact .refl s
    · exact s.frameCompleted_queues _
  | serveLoad | servePeek =>
    rcases execServeLoad_or_peek_cases (by simp) h with rfl | ⟨-, ⟨q, c, rfl⟩ | ⟨rfl, -⟩⟩
    · exact .refl t
    · exact s.reply_queues _ _
    · exact .of_eq (by simp) (by simp) (by simp)
  | benchAccessGrant =>
    rcases execBenchAccessGrant_cases h with rfl | ⟨q, m, payload, -, -, -, -, rfl⟩
    · exact .refl t
    · exact ((State.reply_queues _ _ _).trans (State.returnPort_queues _)).of_stands rfl rfl rfl
  | stepLanes | stepDrive | stepSample | stepField | stepLimits | stepRailcheck | stepGuard | stepScale | stepPower | stepWait
  | stepRepeat | stepMark | stepStop | unknownStepKind => cases hdispatches
  | _ => cases hanswers

/-! ### O5 -/

theorem State.queuesBounded_iff (s : State) : s.QueuesBounded ↔
    FramesInOrder s.line.queue ∧ s.bench.queue.length ≤ 4 ∧ s.faults.notices.length ≤ 64 := by
  constructor
  · rintro ⟨hlength, hclasses, hsending, hrequests, hnotices⟩
    exact ⟨⟨hlength, hclasses, hsending⟩, hrequests, hnotices⟩
  · rintro ⟨⟨hlength, hclasses, hsending⟩, hrequests, hnotices⟩
    exact ⟨hlength, hclasses, hsending, hrequests, hnotices⟩

theorem exec_keeps_queuesBounded {i : Instr} {s t : State} (hs : s.QueuesBounded) (h : exec i s = .next t) :
    t.QueuesBounded := by
  have hkeeps := exec_queues h
  rw [State.queuesBounded_iff] at hs ⊢
  exact hs.imp hkeeps.frames (And.imp hkeeps.requests hkeeps.notices)

/-- Settles O5: every command keeps each of the two, so every step does. -/
theorem stepKeepsTheQueuesInOrderAndBounds : Obligations.StepKeepsTheQueuesInOrderAndBounds :=
  ⟨fun _ _ hs h => step_keeps_of_exec (P := State.FaultQueueOrdered) (fun _ _ => id)
      (fun _ _ _ hs h => (exec_queues h).faults hs) hs h,
    fun _ _ hs h => step_keeps_of_exec (P := State.QueuesBounded) (fun _ _ => id)
      (fun _ _ _ => exec_keeps_queuesBounded) hs h⟩

end Sys2Proof.Machine
end

section
/-! PROOFS of the family "the rack line", 1: a frame sent bit by bit and tracked field by field (O15). -/

namespace Sys2Proof.Machine

/-! ### Bits and fields -/

@[simp] theorem bitsOf_length (n x : Nat) : (bitsOf n x).length = n := by
  induction n with
  | zero => rfl
  | succ n ih => simp [bitsOf, ih]

/-- R153: bits sent most significant first are read back as the number's low `n` bits, behind the bits read before them, and
the line goes on behind them. -/
theorem readBits_bitsOf (n acc x : Nat) (rest : List Bool) :
    readBits n acc (bitsOf n x ++ rest) = (acc * 2 ^ n + x % 2 ^ n, rest) := by
  induction n generalizing acc with
  | zero => simp [readBits, bitsOf, Nat.mod_one]
  | succ n ih =>
    have hvalue : (2 * acc + (x.testBit n).toNat) * 2 ^ n + x % 2 ^ n = acc * 2 ^ (n + 1) + x % 2 ^ (n + 1) := by
      rw [Nat.mod_pow_succ, Nat.toNat_testBit]
      ring
    rw [bitsOf, List.cons_append, readBits, ih, hvalue]

/-- R153, R158: a field of a frame is read as it was sent. -/
theorem readBits_field {n : Nat} (v : BitVec n) (rest : List Bool) :
    readBits n 0 (bitsOf n v.toNat ++ rest) = (v.toNat, rest) := by
  simp [readBits_bitsOf, Nat.mod_eq_of_lt v.isLt]

/-- R153: the bits of a payload. -/
theorem payloadBits_length (p : List Byte) : (p.flatMap fun b => bitsOf 8 b.toNat).length = 8 * p.length := by
  simp [List.length_flatMap, Nat.mul_comm]

/-- R158: as many payload bytes as the length field says are read as they were sent. -/
theorem readBytes_payload (p : List Byte) (rest : List Bool) :
    readBytes p.length ((p.flatMap fun b => bitsOf 8 b.toNat) ++ rest) = (p, rest) := by
  induction p with
  | nil => rfl
  | cons b p ih =>
    simp only [List.length_cons, List.flatMap_cons, List.append_assoc, readBytes, readBits_field, ih, BitVec.ofNat_toNat,
      BitVec.setWidth_eq]

/-! ### The frame -/

/-- R153: a payload of up to 32 bytes has its length in the six bits of the length field. -/
theorem length_field_toNat {p : List Byte} (h : p.length ≤ 32) : (BitVec.ofNat 6 p.length).toNat = p.length := by
  rw [BitVec.toNat_ofNat, Nat.mod_eq_of_lt (by omega)]

/-- R153: start bit, class and source, 16 bits of check, and the fields that the check covers. -/
theorem lineBits_length (cls : BitVec 2) (f : Frame) : (lineBits cls f).length = 39 + 8 * f.payload.length := by
  simp only [lineBits, checkedBits, List.length_append, bitsOf_length, payloadBits_length, List.length_singleton]
  omega

/-- R158: a frame sent with its check value is read whole, whatever follows it on the line. -/
theorem trackFrame_lineBits (cls : BitVec 2) {f : Frame} (h : f.payload.length ≤ 32) (after : List Bool) :
    trackFrame (lineBits cls f ++ after) = rawOf f := by
  have hlength := length_field_toNat h
  have hpayload := readBytes_payload f.payload
  -- The fields up to the length first: what is read behind them depends on the length that was read.
  simp only [trackFrame, lineBits, checkedBits, List.append_assoc, List.cons_append, List.nil_append, List.drop_succ_cons,
    List.drop_zero, readBits_field]
  simp only [rawOf, hlength, h, if_true, hpayload, readBits_field, BitVec.ofNat_toNat, BitVec.setWidth_eq]

/-- R158: a frame within 32 bytes with its own check value is good by its bits. -/
theorem rawBad_rawOf {f : Frame} (h : f.payload.length ≤ 32) : rawBad (rawOf f) = false := by
  simp only [rawBad, rawOf, length_field_toNat h]
  simp [h]

/-- Settles O15: each field is read as it was sent, so the check value read is the one computed over what was read. -/
theorem trackedFrameIsTheFrameSent : Obligations.TrackedFrameIsTheFrameSent := by
  intro cls f after hwf
  have hshort : f.payload.length ≤ 32 := of_decide_eq_true hwf
  exact ⟨trackFrame_lineBits cls hshort after, rawBad_rawOf hshort, lineBits_length cls f⟩

end Sys2Proof.Machine
end

section
/-! PROOFS of the family "the rack line", 2: the transmit queue, and the frames taken from a bench (O45, O47, O52). -/

namespace Sys2Proof.Machine

/-! ### The transmit queue -/

/-- R160: in a queue in the order of its classes a frame takes its place behind its own class and before the next. -/
theorem joinQueue_splits (f : TxFrame) {q : List TxFrame}
    (h : q.Pairwise (fun ahead behind => ahead.kind.cls ≤ behind.kind.cls)) :
    ∃ ahead behind, q = ahead ++ behind ∧ joinQueue f q = ahead ++ f :: behind ∧
      (∀ g ∈ ahead, g.kind.cls ≤ f.kind.cls) ∧ ∀ g ∈ behind, f.kind.cls < g.kind.cls := by
  induction q with
  | nil => exact ⟨[], [], rfl, rfl, by simp, by simp⟩
  | cons g q ih =>
    obtain ⟨hg, hq⟩ := List.pairwise_cons.mp h
    by_cases hle : g.kind.cls ≤ f.kind.cls
    · obtain ⟨ahead, behind, rfl, hjoin, hahead, hbehind⟩ := ih hq
      have hcons : joinQueue f (g :: (ahead ++ behind)) = g :: ahead ++ f :: behind := by
        rw [joinQueue, if_pos hle, hjoin, List.cons_append]
      exact ⟨g :: ahead, behind, rfl, hcons, List.forall_mem_cons.mpr ⟨hle, hahead⟩, hbehind⟩
    · have hlt := Nat.lt_of_not_le hle
      exact ⟨[], g :: q, rfl, if_neg hle, by simp, List.forall_mem_cons.mpr ⟨hlt, fun x hx => hlt.trans_le (hg x hx)⟩⟩

theorem takeLastIdle_eq_none {q : List TxFrame} (h : takeLastIdle q = none) : ∀ g ∈ q, g.sending = true := by
  induction q with
  | nil => simp
  | cons f q ih =>
    simp only [takeLastIdle] at h
    split at h
    · cases h
    · rename_i hrest
      split at h
      · rename_i hf
        exact List.forall_mem_cons.mpr ⟨hf, ih hrest⟩
      · cases h

/-- R161: only frames in transmission stand behind the last idle one. -/
theorem takeLastIdle_eq_some {q : List TxFrame} {lost : TxFrame} {rest : List TxFrame}
    (h : takeLastIdle q = some (lost, rest)) : ∃ ahead behind, q = ahead ++ lost :: behind ∧ rest = ahead ++ behind ∧
      lost.sending = false ∧ ∀ g ∈ behind, g.sending = true := by
  induction q generalizing rest with
  | nil => cases h
  | cons f q ih =>
    simp only [takeLastIdle] at h
    split at h
    · rename_i hrest
      cases h
      obtain ⟨ahead, behind, rfl, rfl, hlost, hbehind⟩ := ih hrest
      exact ⟨f :: ahead, behind, rfl, rfl, hlost, hbehind⟩
    · rename_i hrest
      split at h
      · cases h
      · rename_i hf
        cases h
        exact ⟨[], q, rfl, rfl, by simpa using hf, takeLastIdle_eq_none hrest⟩

/-- R151, R161: a queue of more than one frame, at most one of them in transmission, has a last idle frame. -/
theorem exists_takeLastIdle {q : List TxFrame} (hlength : 1 < q.length) (hsending : q.countP (fun g => g.sending) ≤ 1) :
    ∃ lost rest, takeLastIdle q = some (lost, rest) := by
  cases htake : takeLastIdle q with
  | some taken => exact ⟨taken.1, taken.2, rfl⟩
  | none =>
    have hall : q.countP (fun g => g.sending) = q.length := List.countP_eq_length.mpr (takeLastIdle_eq_none htake)
    omega

theorem LinePort.mute_eq_false {l : LinePort} (hslot : l.slot.toNat < 30) (hduplicate : l.duplicate = false) :
    l.mute = false := by
  simp [LinePort.mute, hslot, hduplicate]

/-- R161: a full queue sheds its last idle frame for one of a more urgent class, and drops the new frame otherwise. -/
theorem LinePort.offer_of_full {l : LinePort} (hmute : l.mute = false) (hfull : 8 ≤ l.queue.length) {lost : TxFrame}
    {rest : List TxFrame} (hlost : takeLastIdle l.queue = some (lost, rest)) (f : TxFrame) :
    l.offer f =
      if f.kind.cls < lost.kind.cls then ({ l with queue := joinQueue f rest, notSent := satInc l.notSent }, some lost)
      else ({ l with notSent := satInc l.notSent }, some f) := by
  have hnoRoom : ¬ l.queue.length < Config.txCapacity := hfull.not_gt
  simp only [LinePort.offer, hmute, Bool.false_eq_true, if_false, if_neg hnoRoom, hlost]

/-- Settles O52: the port silent, with room, and full. -/
theorem transmitQueueTakesShedsAndDrops : Obligations.TransmitQueueTakesShedsAndDrops := by
  intro l f counted
  refine ⟨fun hmute => LinePort.offer_of_mute hmute f, fun hslot hduplicate hclasses hsending =>
    ⟨fun hroom => ?room, fun hfull => ?full⟩⟩
  all_goals have hmute := LinePort.mute_eq_false hslot hduplicate
  case room =>
    obtain ⟨ahead, behind, hqueue, hjoin, hahead, hbehind⟩ := joinQueue_splits f hclasses
    exact ⟨ahead, behind, hqueue, by rw [LinePort.offer_of_accepts ⟨hmute, hroom⟩, hjoin], hahead, hbehind⟩
  case full =>
    obtain ⟨lost, rest, htake⟩ := exists_takeLastIdle (by omega) hsending
    have hoffer := LinePort.offer_of_full hmute hfull htake f
    obtain ⟨ahead, behind, hqueue, rfl, hidle, hbehind⟩ := takeLastIdle_eq_some htake
    exact ⟨ahead, lost, behind, hqueue, hidle, hbehind, fun hless => hoffer.trans (if_pos hless),
      fun hnot => hoffer.trans (if_neg hnot.not_gt)⟩

/-! ### Frames from a bench -/

/-- R159: a frame from source 30 to all or to the own slot reaches the blocks when its kind is one that a bench sends. -/
theorem State.receiveFrame_of_bench {s : State} {f : Frame} {k : FrameKind} (hof : FrameIsOf f k)
    (hbench : k.fromBench = true) (hsource : f.source = 30) (hdest : s.line.addressedBy f) :
    s.receiveFrame f = (afterFrame s).handOn k f := by
  have hnotPeer : ¬ (k.fromPeer ∧ f.source.toNat < 30) := by simp [hsource]
  have hreceive : s.line.receive f = .taken k := by
    rw [hof.receive, if_neg hnotPeer, if_pos ⟨hbench, hsource, (s.line.addressed_iff f).mpr hdest⟩]
  rw [State.receiveFrame, hreceive]
  rfl

/-- R183: two bytes of a frame, low byte first. -/
theorem leNat_two (low high : Byte) : leNat [low, high] = (high ++ low : BitVec 16).toNat := leAt_two_of_bytes 0 low high

/-- R164: the five parameters of a SETUP, each within its range. -/
theorem setupParams_of_bytes (b0 b1 b2 b3 b4 b5 b6 b7 : Byte) : setupParams [b0, b1, b2, b3, b4, b5, b6, b7] =
    { budget := max 1 (b1 ++ b0 : BitVec 16).toNat, claimWindow := max 10 (min 1000 (b3 ++ b2 : BitVec 16).toNat),
      coincidence := max 1 b4.toNat, quorum := max 1 (min 29 b5.toNat), settleDelay := (b7 ++ b6 : BitVec 16).toNat } := by
  simp only [← leNat_two]
  rfl

/-- Settles O45: the frame is taken as a bench's, and only a station that is UNSET acts on it. -/
theorem setupIsTakenOnce : Obligations.SetupIsTakenOnce := by
  intro s dest b0 b1 b2 b3 b4 b5 b6 b7 hdest half
  have hsetup : exec (.frameSetup 30 dest [b0, b1, b2, b3, b4, b5, b6, b7]) s =
      .next ((afterFrame s).takeSetup [b0, b1, b2, b3, b4, b5, b6, b7]) := by
    rw [exec_of_frameRead rfl, State.receiveFrame_of_bench (.of_length (k := .setup) rfl rfl rfl) rfl rfl (by exact hdest)]
    rfl
  rw [hsetup, State.takeSetup]
  refine ⟨fun hset => congrArg _ (if_pos hset), fun hunset => ?_⟩
  rw [if_neg (by exact Bool.not_eq_true _ ▸ hunset), setupParams_of_bytes]
  rfl

/-- R158, R159, R168: the port holds a bench request to no length of its kind, and hands it on to the request queue. -/
theorem FrameKind.request_rows {k : FrameKind}
    (hk : k = .load ∨ k = .post ∨ k = .peek ∨ k = .control ∨ k = .query ∨ k = .faultRead ∨ k = .faultTrim) :
    fixedLength k = none ∧ k.fromBench = true ∧
      ∀ (s : State) (f : Frame), s.handOn k f = s.takeRequest k f.dest f.payload := by
  rcases hk with rfl | rfl | rfl | rfl | rfl | rfl | rfl <;> exact ⟨rfl, rfl, fun _ _ => rfl⟩

/-- Settles O47: the request queue with room, and full. -/
theorem benchRequestsJoinTheQueueOfFour : Obligations.BenchRequestsJoinTheQueueOfFour := by
  intro s k dest p hp hk hdest frame
  have harrival : exec (.benchRequestArrival frame) s = .next ((afterFrame s).takeRequest k dest p) := by
    obtain ⟨hfree, hbench, hhandOn⟩ := FrameKind.request_rows hk
    rw [exec_of_frameRead rfl, State.receiveFrame_of_bench (.of_free (decide_eq_true hp) rfl hfree) hbench rfl (by exact hdest),
      hhandOn]
  rw [harrival, State.takeRequest]
  exact ⟨fun hroom => congrArg _ (if_pos hroom), fun hfull => congrArg _ (if_neg (by exact hfull.not_gt))⟩

end Sys2Proof.Machine
end

section
/-! PROOFS of the family "bench requests and reports": QUERY STATUS and QUERY READINGS, and the codes of no action (O59). -/

namespace Sys2Proof.Machine

/-! ### The STATUS record -/

/-- A three-byte number is its low half and then its highest byte (R3). -/
theorem leBytes_three (x : Nat) : leBytes 3 x = leBytes 2 x ++ [BitVec.ofNat 8 (x / 65536)] := by
  simp [leBytes, Nat.div_div_eq_div_mul]

/-- R150: the records not yet classified are the PROVISIONAL ones. -/
theorem Recorder.provisionalCount_eq (r : Recorder) :
    r.provisionalCount = (r.queue.filter fun f => decide (f.cls = .provisional)).length := by
  simp [Recorder.provisionalCount, FaultRecord.classified, List.countP_eq_length_filter]

/-- R183: a STATUS record is 29 bytes long. -/
theorem State.statusRecord_length (s : State) : s.statusRecord.length = 29 := by
  simp [State.statusRecord]

/-! ### The READINGS record -/

/-- The eight channels in their order. -/
theorem Rail.channels_toList (r : Rail) : r.channels.toList = List.ofFn r.channels.get :=
  List.ext_getElem (by simp) fun _ _ _ => by rw [List.getElem_ofFn]; rfl

/-! ### The requests answered -/

section
variable {s : State} {q : Request} {rest : List Request}

/-- R174: a QUERY of the one byte 1 is answered with the STATUS record. -/
theorem State.Serves.queryStatus (h : s.Serves q rest) (hk : q.kind = .query) (hp : q.payload = [1]) :
    exec .serveQueryStatus s = .next (answered s q rest ([9, 3] ++ s.statusRecord)) := by
  simp only [exec, execServeQueryStatus, h.queryInService hk (congrArg List.head? hp), hp, List.length_singleton, if_true,
    h.reply rfl]
  rfl

/-- R175: a QUERY of the one byte 2 is answered with the READINGS record. -/
theorem State.Serves.queryReadings (h : s.Serves q rest) (hk : q.kind = .query) (hp : q.payload = [2]) :
    exec .serveQueryReadings s = .next (answered s q rest (readingsPayload s.rail)) := by
  simp only [exec, execServeQueryReadings, h.queryInService hk (congrArg List.head? hp), hp, List.length_singleton, if_true,
    h.reply rfl]

/-- R170: a QUERY whose first byte is neither 1 nor 2 is refused by its length. -/
theorem State.Serves.queryUnknown (h : s.Serves q rest) (hk : q.kind = .query) (h1 : q.payload.head? ≠ some 1)
    (h2 : q.payload.head? ≠ some 2) :
    exec .serveQueryUnknown s = .next (answered s q rest [9, 1, if q.payload.length = 1 then 6 else 7]) := by
  simp only [exec, execServeQueryUnknown, h.queryInService_none hk h1 h2, h.refuse, hk]
  split <;> rfl

/-- R170: a CONTROL in service that carries none of the six action codes names no action. -/
theorem State.Serves.unknownControl (h : s.Serves q rest) (hk : q.kind = .control)
    (hunknown : ∀ b ∈ q.payload.head?, b = 0 ∨ 6 < b.toNat) : s.unknownControl = some q := by
  have hnone : ∀ b ∈ q.payload.head?, ¬ (1 ≤ b.toNat ∧ b.toNat ≤ 6) := by
    rintro b hb ⟨hleast, hmost⟩
    rcases hunknown b hb with rfl | hmore
    · exact absurd hleast (by decide)
    · omega
  simpa [State.unknownControl, h.inService, Option.filter, hk, Option.any_eq_false] using hnone

/-- R170, R171: a CONTROL of an unknown action is refused by its length, with that action. -/
theorem State.Serves.controlUnknown (h : s.Serves q rest) (hk : q.kind = .control) {b : Byte} {more : List Byte}
    (hp : q.payload = b :: more) (hb : b = 0 ∨ 6 < b.toNat) :
    exec .serveUnknownAction s =
      .next (answered s q rest [8, 1, if more.length = 0 ∨ more.length = 2 then 6 else 7, b]) := by
  have hunknown : s.unknownControl = some q := h.unknownControl hk (by simpa [hp] using hb)
  simp only [exec, execServeUnknownAction, hunknown, hp, List.length_cons, Nat.add_eq_right, Nat.reduceEqDiff, h.deny]
  split <;> rfl

/-- R170, log entry 3: a CONTROL without an action byte is refused BAD_LENGTH, and takes the next free value. -/
theorem State.Serves.controlEmpty (h : s.Serves q rest) (hk : q.kind = .control) (hp : q.payload = []) :
    exec .serveUnknownAction s =
      .next (answered { s with freeNext := s.freeNext + 1 } q rest [8, 1, 7, Config.freeByte s.freeNext]) := by
  have hunknown : s.unknownControl = some q := h.unknownControl hk (by simp [hp])
  have hserves : ({ s with freeNext := s.freeNext + 1 } : State).Serves q rest := h
  simp only [exec, execServeUnknownAction, hunknown, hp, hserves.deny]
  rfl

end

/-- Settles O59: the two records byte by byte, and the codes that name no action, by their lengths. -/
theorem queriesAndUnknownCodesAreAnswered : Obligations.QueriesAndUnknownCodesAreAnswered := by
  intro s q rest h p half peers status reading
  have hstatus : s.statusRecord = status := by
    rw [State.statusRecord, leBytes_three, s.faults.provisionalCount_eq, optIndex_eq]
    simp only [← List.append_assoc]
    rfl
  have hreadings : readingsPayload s.rail = [9, 4] ++ reading 0 ++ reading 1 ++ reading 2 ++ reading 3 ++ reading 4 ++
      reading 5 ++ reading 6 ++ reading 7 := by
    rw [readingsPayload, s.rail.channels_toList]
    rfl
  refine ⟨fun hk => ⟨fun hp => ⟨?status, ?length⟩, fun hp => ?readings, fun b hp h1 h2 => ?unknown, fun hp => ?empty⟩,
    fun hk b more hp hb => h.controlUnknown hk hp hb, fun hk hp => ⟨_, h.controlEmpty hk hp⟩⟩
  case status => rw [h.queryStatus hk hp, hstatus]
  case length => rw [← hstatus, s.statusRecord_length]
  case readings => rw [h.queryReadings hk hp, hreadings]
  case unknown =>
    have hp : q.payload = [b] := hp
    rw [h.queryUnknown hk (by simpa [hp] using h1) (by simpa [hp] using h2), hp]
    rfl
  case empty =>
    have hp : q.payload = [] := hp
    rw [h.queryUnknown hk (by simp [hp]) (by simp [hp]), hp]
    rfl

end Sys2Proof.Machine
end

section
/-! PROOFS of the family "other": one step and the model's own queue (O1). -/

namespace Sys2Proof.Machine

/-- Assumption log 1: with no command queued the block idles. -/
theorem step_of_pending_nil {s : State} (h : s.pending = []) : step s = .next s := by
  rw [step, h]

/-- Assumption log 1: the oldest command takes effect, and only the younger ones stay queued. -/
theorem step_of_pending_cons {s : State} {c : Instr} {cs : List Instr} (h : s.pending = c :: cs) :
    step s = exec c { s with pending := cs } := by
  rw [step, h]

/-- Settles O1, by the two shapes of the queue. -/
theorem stepRunsTheOldestCommand : Obligations.StepRunsTheOldestCommand :=
  ⟨fun _ _ _ => step_of_pending_cons rfl, fun _ => step_of_pending_nil⟩

end Sys2Proof.Machine
end
